-- ==== Sys2Proof/Word.lean ====
section
/-! DEFINITION. The words of the Rofgan CM224: bytes, 16-bit words, cell addresses, and the two small index ranges the
data book numbers (physical banks and logical banks). Byte-order helpers live in Machine/Bits.lean. -/

namespace Sys2Proof

/-- One byte of the host bus, of a table or of the glyph array. -/
abbrev Byte := BitVec 8

/-- A 16-bit word: a cell word (R42), a two-byte register, a checksum. -/
abbrev Word16 := BitVec 16

/-- A cell address 0 to 4095. Every block forms cell addresses modulo 4096 (R41), which is the wrap of this type. -/
abbrev CellAddr := BitVec 12

/-- The number of one of the eight window ports, A2 to A0 (R166). -/
abbrev PortNo := BitVec 3

/-- A physical bank of the glyph array, 0 to 15 (R104). -/
abbrev Bank := Fin 16

/-- A logical bank, 0 to 13 (R91). -/
abbrev Logical := Fin 14

end Sys2Proof
end

