-- ==== Sys2Proof/Syntax.lean ====
section
/-! DEFINITION. The commands of the CM224: one constructor for each row of spec/opcode_table.json. A host strobe
carries what the bus carries, a port and a byte; where a DATA access falls is read from SPACE and the window address in
the state. Events inside the part carry no operand. -/

namespace Sys2Proof

/-- The steps of the part, in the order of the table. -/
inductive Instr where
  /-- POWER_ON (R175): power is applied. -/
  | powerOn
  /-- RESET (R140): RESET# is asserted. -/
  | reset
  /-- RESET_RELEASE (R153): RESET# is released with the LOAD strap at the given level. -/
  | resetRelease (load : Bool)
  /-- LOWV_ASSERTED (R114): LOWV# becomes asserted. -/
  | lowvAsserted
  /-- LOWV_RELEASED (R114): LOWV# returns high. -/
  | lowvReleased
  /-- FRAME_START (R26): the scan engine opens the next frame. -/
  | frameStart
  /-- LINE_START (R30): the scan engine begins the next scan line. -/
  | lineStart
  /-- END_OF_THE_ACTIVE_DOTS (R38): the active dots of a visible line have been shifted. -/
  | endOfTheActiveDots
  /-- DISPLAY_ENABLE (R23): a host DATA write of `v`, ENABLE set, meant for DISPCTL. -/
  | displayEnable (v : Byte)
  /-- DISPLAY_DISABLE (R24): a host DATA write of `v`, ENABLE clear, meant for DISPCTL. -/
  | displayDisable (v : Byte)
  /-- DISPLAY_RESET (R37): the host writes command 01H. -/
  | displayReset
  /-- SWAP_LIST (R16): the host writes command 08H. -/
  | swapList
  /-- SUBMIT (R120): the host writes command 02H. -/
  | submit
  /-- POP_RESULT (R124): the host writes command 03H. -/
  | popResult
  /-- ACK_HALT (R137): the host writes command 04H. -/
  | ackHalt
  /-- STORE_ABORT (R138): the host writes command 05H. -/
  | storeAbort
  /-- MOVER_START (R60): the host writes command 06H. -/
  | moverStart
  /-- MOVER_ABORT (R65): the host writes command 07H. -/
  | moverAbort
  /-- BAD_COMMAND (R171): the host writes a command code that is none of the eight. -/
  | badCommand (code : Byte)
  /-- REGISTER_WRITE (R167): the host writes `v` to SPACE, ADDRL, ADDRH or DATA. -/
  | registerWrite (port : PortNo) (v : Byte)
  /-- PANELW_LOW_BYTE_WRITE (R36): a host DATA write of `v`, meant for the low byte of PANELW. -/
  | panelwLowByteWrite (v : Byte)
  /-- PANELW_HIGH_BYTE_WRITE (R36): a host DATA write of `v`, meant for the high byte of PANELW. -/
  | panelwHighByteWrite (v : Byte)
  /-- FRAMECNT_LOW_BYTE_READ (R29): a host DATA read, meant for the low byte of FRAMECNT. -/
  | framecntLowByteRead
  /-- FRAMECNT_HIGH_BYTE_READ (R29): a host DATA read, meant for the high byte of FRAMECNT. -/
  | framecntHighByteRead
  /-- MVDONE_LOW_BYTE_READ (R63): a host DATA read, meant for the low byte of MVDONE. -/
  | mvdoneLowByteRead
  /-- MVDONE_HIGH_BYTE_READ (R63): a host DATA read, meant for the high byte of MVDONE. -/
  | mvdoneHighByteRead
  /-- CELL_LOW_BYTE_WRITE (R50): a host DATA write of `v`, meant for an even address of space 1. -/
  | cellLowByteWrite (v : Byte)
  /-- CELL_HIGH_BYTE_WRITE (R51): a host DATA write of `v`, meant for an odd address of space 1. -/
  | cellHighByteWrite (v : Byte)
  /-- CELL_LOW_BYTE_READ (R52): a host DATA read, meant for an even address of space 1. -/
  | cellLowByteRead
  /-- CELL_HIGH_BYTE_READ (R53): a host DATA read, meant for an odd address of space 1. -/
  | cellHighByteRead
  /-- DESCRIPTOR_BYTE_WRITE (R19): a host DATA write of `v`, meant for the descriptor table. -/
  | descriptorByteWrite (v : Byte)
  /-- ATTRIBUTE_BYTE_WRITE (R82): a host DATA write of `v`, meant for the attribute table. -/
  | attributeByteWrite (v : Byte)
  /-- PATCH_SLOT_WRITE (R94): a host DATA write of `v`, meant for the patch table. -/
  | patchSlotWrite (v : Byte)
  /-- IFLAG_CLEAR (R173): the host writes `v` to port 5 or 6. -/
  | iflagClear (port : PortNo) (v : Byte)
  /-- WINFAULT_CLEAR (R172): the host writes `v` to port 7. -/
  | winfaultClear (v : Byte)
  /-- HELD_WINDOW_ACCESS (R55): the oldest access held behind WAIT# is taken. -/
  | heldWindowAccess
  /-- CELL_PORT_COMPLETE (R43): the access in progress at the cell port completes. -/
  | cellPortComplete
  /-- ARRAY_READ_COMPLETE (R106): the read in progress at the array port completes. -/
  | arrayReadComplete
  /-- PROGRAM_PULSE_COMPLETE (R110): the program pulse in progress ends. -/
  | programPulseComplete
  /-- PULSE_LIMIT_REACHED (R110): the twelfth verify left bytes in the set. -/
  | pulseLimitReached
  /-- ERASE_SUBPULSE_COMPLETE (R111): the erase sub-pulse in progress ends. -/
  | eraseSubpulseComplete
  /-- SUBPULSE_BUDGET_SPENT (R111): the verify after the whole budget found unerased bytes. -/
  | subpulseBudgetSpent
  /-- STORE_COMMAND_START (R122): the store engine starts the head command of its queue. -/
  | storeCommandStart
  /-- BEGIN (R126): the started BEGIN makes its checks and its choice. -/
  | cmdBegin
  /-- BEGIN_CHOOSE_AGAIN (R126): the BEGIN that waits for draining spares chooses again. -/
  | beginChooseAgain
  /-- CLONE (R128): the started CLONE makes its checks and takes up its first glyph. -/
  | cmdClone
  /-- PROGRAM (R129): the started PROGRAM makes its checks and begins its program operation. -/
  | cmdProgram
  /-- COMMIT (R130): the started COMMIT makes its check and begins its map write. -/
  | cmdCommit
  /-- ABANDON (R132): the started ABANDON closes the staging. -/
  | cmdAbandon
  /-- SCRUB (R133): the started SCRUB chooses a dirty spare and begins its erase. -/
  | cmdScrub
  /-- READGLYPH (R134): the started READGLYPH makes its check and presents its read. -/
  | cmdReadglyph
  /-- CHECK (R135): the started CHECK makes its check and presents its first read. -/
  | cmdCheck
  /-- BAD_KIND (R120): the started command of unknown KIND fails. -/
  | badKind
  /-- START_UP_SCAN_END (R152): the start-up scan ends. -/
  | startUpScanEnd
  /-- LOW_RUN (R155): a low run of `n` XCLK periods on SRX has been measured. -/
  | lowRun (n : Nat)
  /-- BYTE_RECEIVED (R156): a character with a high stop bit has been received. -/
  | byteReceived (b : Byte)
  /-- FRAMING_ERROR (R156): a character with a low stop bit has been received. -/
  | framingError
  /-- BREAK (R162): SRX has been low for 20 bit times. -/
  | serviceBreak
  /-- INTER_BYTE_TIMEOUT (R158): the inter-byte timer reaches 100 ms. -/
  | interByteTimeout
  /-- CONFIRM_TIMEOUT (R157): the confirm timer reaches 1 s. -/
  | confirmTimeout
  /-- B_RECORD (R160): the accepted B record is acted on. -/
  | bRecord
  /-- C_RECORD (R160): the accepted C record is acted on. -/
  | cRecord
  /-- G_RECORD (R160): the accepted G record is acted on. -/
  | gRecord
  /-- M_RECORD (R160): the accepted M record is acted on. -/
  | mRecord
  /-- A_RECORD (R160): the accepted A record is acted on. -/
  | aRecord
  /-- Q_RECORD (R160): the accepted Q record is acted on. -/
  | qRecord
  /-- E_RECORD (R160): the accepted E record is acted on. -/
  | eRecord
  /-- HELD_RECORD (R160): the record held behind a SILENT command is acted on. -/
  | heldRecord
  /-- TRANSMISSION_END (R156): the last stop bit of what STX was sending has been sent. -/
  | transmissionEnd
  /-- DATA_READ (R168): a host DATA read. -/
  | dataRead
  /-- IFLAG_READ (R173): the host reads port 5 or 6. Another port number is the read of that port (R166), for which the
  table has no row of its own. -/
  | iflagRead (port : PortNo)
  deriving DecidableEq, Repr

end Sys2Proof
end

