-- ==== Sys2Proof/Config.lean ====
section
/-! DEFINITION. What the data book leaves open: one source of free bytes. -/

namespace Sys2Proof

/-- A free byte: byte `place` of the undefined values that come up at event number `event`. It has no body, so nothing
can be proved of the value of any of these bytes. The machine counts its events in `State.freeCount` and gives each its
own number. It stands for contents that are undefined after power-on (R1, R41, R82, R92), for the latched configuration
and the display map after RESET# (R22, R98), for the way each array cell answers a pulse, a sub-pulse or a cut (R105,
R115), and for the cell write that RESET# cuts (R41). -/
opaque Config.freeByte (event place : Nat) : Byte

end Sys2Proof
end

