-- ==== Sys2Proof/Machine/State.lean ====
section
/-! DEFINITION. Everything the data book gives the CM224 to hold, as plain data, grouped by the block that owns it, with
the machine right after reset. What the data book calls undefined there has a value named in the assumption log. -/

namespace Sys2Proof.Machine

/-- Why a step stops the machine. The data book gives the part no such event: a refused host access is recorded in
WINFAULT (R172) and a failed store command in its result (R136), and the part goes on. So there is no constructor. -/
inductive Fault where
  deriving DecidableEq, Repr

/-- Why a command is given no meaning. -/
inductive Refusal where
  /-- Raised by an arm of `exec` whose row of the table has no meaning yet; safe. No arm of this model raises it. -/
  | notModelled (mnemonic : String)
  deriving DecidableEq, Repr

/-! ## Memories -/

/-- What an address that a memory does not list reads as. -/
inductive Fill where
  /-- 00H: the contents a RAM is given at `State.reset`, where the data book gives none (log entry 1). -/
  | zero
  /-- FFH: an erased byte of the glyph array (R105); a part as delivered has every unit erased (R104). -/
  | erased
  /-- A free byte for each address: RAM contents after the power-on that was event number `event` (R1, R41, R82, R92). -/
  | undefined (event : Nat)
  deriving DecidableEq, Repr

/-- An addressed memory: the listed bytes, addresses strictly rising, and what every other address reads as. No listed
byte equals what its address would read as unlisted. -/
structure Memory where
  fill : Fill
  cells : List Host.Cell
  deriving DecidableEq, Repr

/-! ## The part as a whole -/

/-- Levels of input pins and the mode chosen at the release of RESET#. -/
structure Part where
  /-- RESET# is asserted: the part is held in reset until the release (R153). -/
  resetHeld : Bool
  /-- LOWV# is asserted (R114). -/
  lowv : Bool
  /-- The part is in service mode (R153); the SERVICE bit of STATUS. -/
  service : Bool
  deriving DecidableEq, Repr

/-- The interrupt unit (R173, R174). INT is not stored: it follows from these four registers. -/
structure Interrupts where
  iflag0 : Byte
  iflag1 : Byte
  ien0 : Byte
  ien1 : Byte
  deriving DecidableEq, Repr

/-! ## Host window -/

/-- The codes of WINFAULT (R172). -/
inductive WinFault where
  | none | badCommand | range | readOnly | badValue | pair | patchDup | moverBusy | queueFull | queueHalted | portOwned
  | resultEmpty | serviceMode
  deriving DecidableEq, Repr

/-- What the window does with the completion of its cell request (R51 to R53). -/
inductive CellOp where
  /-- A high-byte write that completes a cell (R51). -/
  | write
  /-- A low-byte read (R52). -/
  | readLow
  /-- A high-byte read that fetches the cell (R53). -/
  | readHigh
  deriving DecidableEq, Repr

/-- One host access at the window: a read strobe or a write strobe at a port (R166). -/
inductive Access where
  | read (port : PortNo)
  | write (port : PortNo) (v : Byte)
  deriving DecidableEq, Repr

/-- The host window. WAIT# is not stored: it is low while a cell request of the window is outstanding or an access is
held (R55). -/
structure Window where
  /-- SPACE, 0 to 7 (R166). -/
  space : BitVec 3
  /-- The byte address of ADDRL and ADDRH (R166). -/
  addr : Word16
  /-- The cell assembly latch (R50). -/
  assembly : Option (CellAddr × Byte)
  /-- The cell read latch (R52). -/
  readLatch : Option (CellAddr × Word16)
  /-- The FRAMECNT capture (R29). -/
  framecntCapture : Option Word16
  /-- The MVDONE capture (R63). -/
  mvdoneCapture : Option Word16
  winfault : WinFault
  /-- The window's cell request that has not completed, if any; its address and word stand in the cell port. -/
  cellOp : Option CellOp
  /-- Accesses held behind WAIT#, oldest first (R55, R166). -/
  held : List Access
  /-- The byte last driven onto D7 to D0 by a read. -/
  dataOut : Byte
  deriving DecidableEq, Repr

/-- The registers of the control block that the host writes and no other group holds (R35, R36, R84, R113). -/
structure Control where
  panelw : Word16
  /-- The held low byte of PANELW (R36). -/
  panelwHold : Option Byte
  vislines : Byte
  hblank : Byte
  vblank : Byte
  cellw : Byte
  blinkp : Byte
  pace : Byte
  curadr : Word16
  cursty : Byte
  deriving DecidableEq, Repr

/-! ## Cell port and cell mover -/

/-- One access to one whole cell (R43). -/
inductive CellReq where
  | read (a : CellAddr)
  | write (a : CellAddr) (w : Word16)
  deriving DecidableEq, Repr

/-- The claimants of the cell port (R45). -/
inductive CellClaimant where
  | rowLoader | host | mover
  deriving DecidableEq, Repr

/-- The access in progress at the cell port. `abandoned` says that its claimant no longer waits for it (R69, R79, R81). -/
structure CellAccess where
  who : CellClaimant
  req : CellReq
  abandoned : Bool
  deriving DecidableEq, Repr

/-- The turn record (R44). -/
inductive Turn where
  | host | mover
  deriving DecidableEq, Repr

/-- The cell port arbiter (R44). -/
structure CellPort where
  loaderWait : Option CellAddr
  hostWait : Option CellReq
  moverWait : Option CellReq
  access : Option CellAccess
  turn : Turn
  deriving DecidableEq, Repr

/-- MVSTATE (R58). -/
inductive MvState where
  | idle | running | complete | aborted
  deriving DecidableEq, Repr

/-- The two operations of the mover. -/
inductive MvKind where
  | fill | copy
  deriving DecidableEq, Repr

/-- The latched operation (R60, R61). -/
structure MoverOp where
  kind : MvKind
  src : CellAddr
  dst : CellAddr
  count : Nat
  value : Word16
  descending : Bool
  deriving DecidableEq, Repr

/-- The cell mover (R58). The cell in progress and its phase follow from `transfer` and the cell port. -/
structure Mover where
  mvkind : Byte
  mvsrc : Word16
  mvdst : Word16
  mvcnt : Word16
  mvval : Word16
  mvdone : Word16
  mvstate : MvState
  op : Option MoverOp
  /-- The step of the run now being worked. -/
  position : Nat
  /-- The transfer word of a COPY step between its read and its write. -/
  transfer : Option Word16
  /-- MOVER ABORT has been taken and the step in hand is being worked to its end (R65). -/
  aborting : Bool
  /-- A write cut loose by DISPLAY RESET is in progress and is still to be counted in MVDONE (R69). -/
  tail : Bool
  deriving DecidableEq, Repr

/-! ## Scan engine -/

/-- A copy of the six frame registers (R26). -/
structure FrameCfg where
  panelw : Word16
  vislines : Byte
  hblank : Byte
  vblank : Byte
  cellw : Byte
  blinkp : Byte
  deriving DecidableEq, Repr

/-- The frame position (R22). -/
inductive FramePos where
  | none
  /-- In vertical blank, on the blank line of this number. -/
  | vblank (n : Nat)
  /-- In the visible lines, on the line of this number. -/
  | visible (n : Nat)
  deriving DecidableEq, Repr

/-- The part of a scan line the panel outputs are in (R38, R39). -/
inductive LinePart where
  /-- Disabled levels. -/
  | off
  /-- A blank line of vertical blank. -/
  | blankLine
  /-- The active dots of a visible line are being shifted. -/
  | activeDots
  /-- The blank dots at the end of a visible line, after its LATCH pulse. -/
  | blankDots
  deriving DecidableEq, Repr

/-- The code of LISTFLT (R13). -/
inductive ListCode where
  | none | badField | badLink
  deriving DecidableEq, Repr

/-- What a LATCH pulse has handed to the panel: the line number on LSEL and the dots shifted, leftmost first. -/
structure PanelLine where
  line : BitVec 7
  dots : List Bool
  deriving DecidableEq, Repr

/-- The scan engine (R22) and the panel outputs (R38, R39). SDAT, SCLK, LATCH and BLANK# levels follow from `part`. -/
structure Scan where
  /-- The display state: true is ENABLED. -/
  enabled : Bool
  pos : FramePos
  cfg : FrameCfg
  /-- HEADACT: 0 to 47 or END, FFH (R15). -/
  headact : Byte
  headpend : Byte
  swapPending : Bool
  /-- The display map (R98). -/
  displayMap : Vector Bank 14
  blinkCount : Nat
  /-- The blink phase: true is ON. -/
  blinkOn : Bool
  framecnt : Word16
  latecnt : Byte
  rowmarkidx : Byte
  listCode : ListCode
  listIndex : Byte
  /-- The visible line at which the row instance in progress began; none when no instance is in progress (R30). -/
  rowStart : Option Nat
  /-- The model's own: the first latch of the frame that has just started is still to be made, by the next step (R8, R21, log
  entry 23). -/
  latchDue : Bool
  part : LinePart
  lsel : BitVec 7
  /-- The dots of the line being shifted, leftmost first. -/
  dots : List Bool
  /-- The line that the last LATCH pulse handed to the panel. -/
  latched : Option PanelLine
  deriving DecidableEq, Repr

/-! ## Row loader and row buffers -/

/-- A latched descriptor (R2 to R6), its fields as the layout of space 2 places them. -/
structure Descriptor where
  next : Nat
  mark : Bool
  markAll : Bool
  double : Bool
  force : Bool
  marquee : Bool
  hide : Bool
  revRow : Bool
  underRow : Bool
  base : Nat
  width : Nat
  first : Nat
  count : Nat
  pan : Nat
  wide : Bool
  repeats : Nat
  forceAttr : Nat
  ringBase : Nat
  ringLen : Nat
  stepDots : Nat
  interval : Nat
  posCell : Nat
  posDot : Nat
  fCount : Nat
  deriving DecidableEq, Repr

/-- The state of a row buffer entry (R70). -/
inductive EntryState where
  | empty | filling | complete
  deriving DecidableEq, Repr

/-- A cursor style (R84). -/
inductive CursorStyle where
  | block | line | bar
  deriving DecidableEq, Repr

/-- The mark of the cursor on an entry: its style and its blink setting (R74). -/
structure CursorMark where
  style : CursorStyle
  blink : Bool
  deriving DecidableEq, Repr

/-- One entry of a row buffer (R70): the slices FIRST to FIRST + COUNT - 1 in host polarity, the attribute byte, ULINE,
SLINE and the cursor mark. -/
structure Entry where
  state : EntryState
  slices : List Byte
  flags : Byte
  uline : Nat
  sline : Nat
  mark : Option CursorMark
  deriving DecidableEq, Repr

/-- A row instance in a buffer (R70): the instance record and the entries in use, one for each cell. -/
structure RowInst where
  index : Nat
  number : Nat
  desc : Descriptor
  pan : Nat
  addrs : List CellAddr
  entries : List Entry
  deriving DecidableEq, Repr

/-- The row loader's state (R72). -/
inductive LoaderState where
  | stopped | resting | loading
  deriving DecidableEq, Repr

/-- The phase of the working record (R72). -/
inductive WorkPhase where
  | cellRead | arrayRead
  deriving DecidableEq, Repr

/-- The working record: the entry in hand, its cell address and the phase (R72). -/
structure Work where
  entry : Nat
  addr : CellAddr
  phase : WorkPhase
  deriving DecidableEq, Repr

/-- The row loader and the two row buffers (R70 to R72). The note that a granted access belongs to an abandoned load is
the `abandoned` mark of that access at its port. -/
structure Rows where
  loader : LoaderState
  work : Option Work
  buf0 : Option RowInst
  buf1 : Option RowInst
  /-- True when buffer 1 is the loading buffer and buffer 0 the displaying one. -/
  loadingIs1 : Bool
  deriving DecidableEq, Repr

/-! ## Glyph array -/

/-- A map area (R104). -/
inductive Area where
  | a | b
  deriving DecidableEq, Repr

/-- An erase unit of the glyph array (R104). -/
inductive EraseUnit where
  | bank (b : Bank)
  | area (ar : Area)
  deriving DecidableEq, Repr

/-- What one array access acts on (R106). -/
inductive ArrUnit where
  | glyph (b : Bank) (g : Nat)
  | header (b : Bank)
  | slot (ar : Area) (n : Nat)
  | whole (u : EraseUnit)
  deriving DecidableEq, Repr

/-- A store engine request at the array port (R106, R107). -/
inductive StoreReq where
  | read (u : ArrUnit)
  | pulse (u : ArrUnit)
  | subPulse (u : EraseUnit)
  deriving DecidableEq, Repr

/-- The row loader's read of slices of one glyph (R107). -/
structure GlyphRead where
  bank : Bank
  glyph : Nat
  first : Nat
  count : Nat
  deriving DecidableEq, Repr

/-- The access in progress at the array port. `abandoned` says that its data is discarded (R79, R81, R115). -/
inductive ArrAccess where
  | loader (r : GlyphRead) (abandoned : Bool)
  | store (r : StoreReq) (abandoned : Bool)
  deriving DecidableEq, Repr

/-- The array arbiter (R107). -/
structure ArrayPort where
  loaderWait : Option GlyphRead
  storeWait : Option StoreReq
  access : Option ArrAccess
  deriving DecidableEq, Repr

/-! ## Store engine -/

/-- The engine state (R118). -/
inductive Engine where
  | starting | idle | running | waiting | halted
  deriving DecidableEq, Repr

/-- The wait reason (R118). -/
inductive WaitReason where
  | none | resultSpace | draining
  deriving DecidableEq, Repr

/-- A submitter of store commands, and the port owner (R118, R120). -/
inductive Submitter where
  | host | loader
  deriving DecidableEq, Repr

/-- The kind of a command entry with the fields that kind uses (R120). -/
inductive CmdBody where
  | stageBank (logical : Byte)
  | clone (skip : BitVec 64)
  | program (index : Byte) (image : List Byte)
  | commit
  | abandon
  | scrub
  | readGlyph (code : Word16)
  | check (logical : Byte)
  | unknown
  deriving DecidableEq, Repr

/-- A command entry (R120). `kind` is KIND as given. -/
structure CmdEntry where
  kind : Byte
  seq : Byte
  submitter : Submitter
  body : CmdBody
  deriving DecidableEq, Repr

/-- OUTCOME (R123). -/
inductive CmdOutcome where
  | done | failed | aborted
  deriving DecidableEq, Repr

/-- The error codes of results and N replies (layout tables of chapter 11). -/
inductive ErrCode where
  | none | badKind | badLogical | badIndex | badCode | stagingBusy | noStaging | cloneLate | alreadyWritten | noSpare
  | eraseFailed | programFailed | mapWriteFailed | supplyLow | badLength | badCheck | timeout | queueFull | queueHalted
  | stagingOpen
  deriving DecidableEq, Repr

/-- A result record (R123). PHYS none is FFH. -/
structure ResultRec where
  seq : Byte
  kind : Byte
  outcome : CmdOutcome
  error : ErrCode
  phys : Option Bank
  discarded : Nat
  detail : Word16
  checkval : Word16
  generation : BitVec 24
  eraseCount : Word16
  submitter : Submitter
  estimated : Bool
  image : List Byte
  deriving DecidableEq, Repr

/-- An open staging (R125). `filling` is STATE FILLING; otherwise STATE is ERASED. -/
structure Staging where
  bank : Bank
  target : Logical
  filling : Bool
  written : BitVec 64
  deriving DecidableEq, Repr

/-- A role of the bank role table (R116). -/
inductive Role where
  | unset
  | mapped (l : Logical)
  | spareClean | spareDirty | spareDraining | staging | retired
  deriving DecidableEq, Repr

/-- An entry of the bank role table (R116). -/
structure BankEntry where
  role : Role
  count : Word16
  estimated : Bool
  deriving DecidableEq, Repr

/-- The journal position with the generation and the store's retired mask (R143, R141). -/
structure Journal where
  active : Area
  next : Option (Fin 8)
  latest : Option (Area × Fin 8)
  generation : BitVec 24
  retiredMask : Word16
  deriving DecidableEq, Repr

/-- The phase of a program operation (R110). `limit` is the state after the twelfth verify left bytes in the set. -/
inductive ProgPhase where
  | pulsing | verifying | limit
  deriving DecidableEq, Repr

/-- A program operation (R110): its unit, the raw target of each byte, the places of the bytes still in the set and the
pulses used. -/
structure ProgOp where
  place : ArrUnit
  target : List Byte
  set : List Nat
  pulses : Nat
  phase : ProgPhase
  deriving DecidableEq, Repr

/-- How far an erase has come (R111, R112). -/
inductive EraseStage where
  /-- The prewrite's program operation of this number is running. -/
  | prewrite (k : Nat)
  /-- A sub-pulse is waiting or running. -/
  | subPulsing
  /-- An erase verify is waiting or running. -/
  | verifying
  /-- The verify after the whole budget found unerased bytes. -/
  | spent
  /-- The header of the erased bank is being programmed. -/
  | header
  deriving DecidableEq, Repr

/-- An erase operation (R111). `pace` is the latched PACE, and `given` the sub-pulses given. -/
structure EraseOp where
  target : EraseUnit
  stage : EraseStage
  pace : Byte
  given : Nat
  deriving DecidableEq, Repr

/-- How far a map write has come (R144, R145). -/
inductive MapStage where
  | areaErase | body | marker
  deriving DecidableEq, Repr

/-- A map write (R144 to R146): the slot being tried, the area of it or being erased, and the record's contents. -/
structure MapOp where
  stage : MapStage
  area : Area
  slot : Fin 8
  second : Bool
  generation : BitVec 24
  map : Vector Bank 14
  mask : Word16
  deriving DecidableEq, Repr

/-- What the command in flight is doing. -/
inductive CmdStage where
  /-- Started; its checks are still to be made. -/
  | fresh
  /-- A BEGIN that waits for draining spares (R126). -/
  | draining
  /-- A BEGIN or SCRUB that erases this spare. -/
  | erasing (b : Bank)
  /-- A BEGIN or SCRUB that makes the retirement's map write for this bank; `cause` is the low byte of DETAIL (R127). -/
  | retiring (b : Bank) (cause : Byte)
  /-- A CLONE at this glyph index, with the pulses used before it (R128). -/
  | cloning (i : Nat) (total : Nat)
  | programming
  | committing
  /-- A READGLYPH that reads from this bank. -/
  | reading (b : Bank)
  /-- A CHECK at this glyph index of this bank, with the sum so far. -/
  | summing (b : Bank) (i : Nat) (sum : Word16)
  deriving DecidableEq, Repr

/-- The command in flight with the progress of its operation (R118). While there is one, its held place is set aside. -/
structure InFlight where
  entry : CmdEntry
  stage : CmdStage
  prog : Option ProgOp
  erase : Option EraseOp
  mapw : Option MapOp
  deriving DecidableEq, Repr

/-- A valid map record as the scan reads it (R141). -/
structure MapRecord where
  generation : BitVec 24
  map : Vector Bank 14
  mask : Word16
  deriving DecidableEq, Repr

/-- The class of a record slot (R142). -/
inductive SlotClass where
  | erased
  | valid (r : MapRecord)
  | spoiled
  deriving DecidableEq, Repr

/-- What the start-up scan has read so far: the slots' classes in reading order, then the banks' valid header counts. -/
structure ScanProgress where
  slots : List SlotClass
  headers : List (Option Word16)
  deriving DecidableEq, Repr

/-- The store engine (R118) with the composition space (R119). -/
structure Store where
  engine : Engine
  wait : WaitReason
  queue : List CmdEntry
  inFlight : Option InFlight
  results : List ResultRec
  /-- The sequence counter. -/
  seq : Byte
  owner : Submitter
  /-- The staging record; none is STATE NONE (R125). -/
  staging : Option Staging
  /-- The request that the engine will present once its read whose data STORE ABORT discarded has completed: it has at most
  one request waiting or in progress at the array port (R107, R115). -/
  deferred : Option StoreReq
  storeMap : Vector Bank 14
  roles : Vector BankEntry 16
  journal : Journal
  /-- The start-up scan, from the release of RESET# to its end (R149 to R152). -/
  scan : Option ScanProgress
  /-- The composition space less SEQ, in the byte order of space 5 (R119). -/
  comp : Vector Byte 29
  /-- SEQ of the composition space. -/
  compSeq : Byte
  deriving DecidableEq, Repr

/-! ## Service load port -/

/-- The loader state of space 7 (R154). -/
inductive SvcState where
  | sync | confirm | ready | receiving | executing | closing
  deriving DecidableEq, Repr

/-- The mark of the outstanding command (R154). -/
inductive SvcMark where
  | reply | silent
  deriving DecidableEq, Repr

/-- A checked record of the loader (R158, R159). -/
inductive Record where
  | b (logical : Byte)
  | c (skip : BitVec 64)
  | g (index : Byte) (image : List Byte)
  | m
  | a
  | q
  | e
  deriving DecidableEq, Repr

/-- What the transmitter is given to send: the ready character 3CH, or a reply without its flags byte. `acksHalt` marks
the N reply of a failed command (R160), `closes` the K reply of an accepted E record (R164). -/
inductive TxItem where
  | ready
  | reply (letter : Byte) (payload : List Byte) (acksHalt : Bool) (closes : Bool)
  deriving DecidableEq, Repr

/-- What the transmitter is sending: the item, and the characters on STX in order. -/
structure TxSending where
  item : TxItem
  bytes : List Byte
  deriving DecidableEq, Repr

/-- The service load port (R154). -/
structure Service where
  state : SvcState
  firstRun : Option Nat
  divisor : Nat
  /-- The bytes received after the 7EH of the record being received: KIND, LENGTH, payload, CHECK. -/
  buffer : List Byte
  /-- The inter-byte timer runs. -/
  byteTimer : Bool
  /-- The confirm timer runs. -/
  confirmTimer : Bool
  outstanding : Option (Byte × SvcMark)
  /-- The accepted record that is now to be acted on (R159, R160). -/
  due : Option Record
  /-- A Q or E record that waits for the end of start-up (R160). -/
  startupWait : Option Record
  /-- The held record (R160). -/
  held : Option Record
  inputDropped : Bool
  replyLost : Bool
  sending : Option TxSending
  waiting : Option TxItem
  lastError : ErrCode
  accepted : Word16
  refused : Word16
  deriving DecidableEq, Repr

/-! ## The machine -/

/-- The CM224. -/
structure State where
  part : Part
  irq : Interrupts
  win : Window
  ctl : Control
  /-- The cell store, two bytes a cell, low byte first, as space 1 numbers them (R41, R49). -/
  cells : Memory
  cellPort : CellPort
  mover : Mover
  /-- The descriptor table, as space 2 numbers its bytes (R1). -/
  descs : Memory
  /-- The attribute table, as space 3 numbers its bytes (R82). -/
  attrs : Memory
  /-- The patch table, as space 4 numbers its bytes, less VALID (R92). -/
  patch : Memory
  /-- VALID of patch slot n is bit n (R92). -/
  patchValid : Word16
  scan : Scan
  rows : Rows
  /-- The glyph array, raw (R104, R105): 1028 bytes for each bank, then 128 for each map area. -/
  array : Memory
  arrPort : ArrayPort
  store : Store
  svc : Service
  /-- The model's own count of the events that took free values (log entry 3). -/
  freeCount : Nat
  /-- The commands that wait, first in, first out. -/
  pending : List Instr
  deriving DecidableEq, Repr

/-- The machine right after the reset of a part as delivered: power has been applied, RESET# has just been released with
LOAD low and LOWV# high, and the store engine has presented the first read of its start-up scan (R22, R35, R44, R56, R58,
R72, R84, R92, R104, R107, R118, R119, R143, R149, R153, R154, R174, R175). Values the data book leaves undefined are
named in log entries 1 and 2. -/
def State.reset : State where
  part := { resetHeld := false, lowv := false, service := false }
  irq := { iflag0 := 0, iflag1 := 0, ien0 := 0, ien1 := 0 }
  win :=
    { space := 0, addr := 0, assembly := none, readLatch := none, framecntCapture := none, mvdoneCapture := none,
      winfault := .none, cellOp := none, held := [], dataOut := 0 }
  ctl :=
    { panelw := 256, panelwHold := none, vislines := 32, hblank := 16, vblank := 4, cellw := 6, blinkp := 30, pace := 1,
      curadr := 0, cursty := 0 }
  cells := { fill := .zero, cells := [] }
  cellPort := { loaderWait := none, hostWait := none, moverWait := none, access := none, turn := .mover }
  mover :=
    { mvkind := 1, mvsrc := 0, mvdst := 0, mvcnt := 0, mvval := 0, mvdone := 0, mvstate := .idle, op := none,
      position := 0, transfer := none, aborting := false, tail := false }
  descs := { fill := .zero, cells := [] }
  attrs := { fill := .zero, cells := [] }
  patch := { fill := .zero, cells := [] }
  patchValid := 0
  scan :=
    { enabled := false, pos := .none,
      cfg := { panelw := 0, vislines := 0, hblank := 0, vblank := 0, cellw := 0, blinkp := 0 },
      headact := 0xFF, headpend := 0xFF, swapPending := false, displayMap := Vector.replicate 14 0, blinkCount := 0,
      blinkOn := true, framecnt := 0, latecnt := 0, rowmarkidx := 0, listCode := .none, listIndex := 0, rowStart := none,
      latchDue := false, part := .off, lsel := 0, dots := [], latched := none }
  rows := { loader := .stopped, work := none, buf0 := none, buf1 := none, loadingIs1 := false }
  array := { fill := .erased, cells := [] }
  arrPort := { loaderWait := none, storeWait := none, access := some (.store (.read (.slot .a 0)) false) }
  store :=
    { engine := .starting, wait := .none, queue := [], inFlight := none, results := [], seq := 0, owner := .host,
      staging := none, deferred := none, storeMap := Vector.replicate 14 0,
      roles := Vector.replicate 16 { role := .unset, count := 0, estimated := false },
      journal := { active := .a, next := some 0, latest := none, generation := 0, retiredMask := 0 },
      scan := some { slots := [], headers := [] }, comp := Vector.replicate 29 0, compSeq := 0 }
  svc :=
    { state := .closing, firstRun := none, divisor := 0, buffer := [], byteTimer := false, confirmTimer := false,
      outstanding := none, due := none, startupWait := none, held := none, inputDropped := false, replyLost := false,
      sending := none, waiting := none, lastError := .none, accepted := 0, refused := 0 }
  freeCount := 0
  pending := []

end Sys2Proof.Machine
end

