-- ==== Sys2Proof/Machine/Bits.lean ====
section
/-! DEFINITION. Byte order and bit fields: fields of more than one byte are little-endian (Conventions of chapter 0). -/

namespace Sys2Proof.Machine

/-- Byte `k` of a word of any width, byte 0 the least significant. -/
def byteOf {n : Nat} (w : BitVec n) (k : Nat) : Byte := (w >>> (8 * k)).setWidth 8

/-- The 16-bit word with this high byte and this low byte. -/
def word16 (hi lo : Byte) : Word16 := hi ++ lo

/-- The word with its low byte replaced. -/
def setLow (w : Word16) (v : Byte) : Word16 := word16 (byteOf w 1) v

/-- The word with its high byte replaced. -/
def setHigh (w : Word16) (v : Byte) : Word16 := word16 v (byteOf w 0)

/-- The number that a list of bytes holds, least significant byte first. -/
def natOfBytes : List Byte → Nat
  | [] => 0
  | v :: vs => v.toNat + 256 * natOfBytes vs

/-- The first `k` bytes of a word, least significant byte first. -/
def bytesOf {n : Nat} (w : BitVec n) (k : Nat) : List Byte := (List.range k).map (byteOf w)

/-- A set of glyph indices with one more member: bit `i` of SKIPMASK and WRITTEN is index `i` (layout of space 5). -/
def setBit {n : Nat} (w : BitVec n) (i : Nat) : BitVec n := w ||| (1#n <<< i)

/-- The byte with one bit replaced. -/
def putBit (v : Byte) (i : Nat) (b : Bool) : Byte := if b then v ||| (1#8 <<< i) else v &&& ~~~(1#8 <<< i)

/-- The 8-bit sum of a list of bytes (R158, R163). -/
def byteSum : List Byte → Byte
  | [] => 0
  | v :: vs => v + byteSum vs

/-- The byte `k` of a list, 00H beyond its end. -/
def byteAt (l : List Byte) (k : Nat) : Byte := l.getD k 0

end Sys2Proof.Machine
end

