-- ==== Sys2Proof/Machine/Ops.lean ====
section
/-! DEFINITION. Reading and writing memories, and taking free values. -/

namespace Sys2Proof.Machine

/-- What an unlisted address reads as. -/
def fillByte : Fill → Nat → Byte
  | .zero, _ => 0
  | .erased, _ => 0xFF
  | .undefined event, a => Config.freeByte event a

/-- The byte a list of cells holds for an address. -/
def lookupCell : List Host.Cell → Nat → Option Byte
  | [], _ => none
  | (b, v) :: rest, a => if a = b then some v else lookupCell rest a

/-- The list with the byte of one address set, addresses rising. -/
def insertCell : List Host.Cell → Nat → Byte → List Host.Cell
  | [], a, v => [(a, v)]
  | (b, w) :: rest, a, v =>
    if a < b then (a, v) :: (b, w) :: rest
    else if a = b then (a, v) :: rest
    else (b, w) :: insertCell rest a v

/-- The list without the entry of one address. -/
def eraseCell : List Host.Cell → Nat → List Host.Cell
  | [], _ => []
  | (b, w) :: rest, a => if a = b then rest else (b, w) :: eraseCell rest a

/-- One byte of a memory. -/
def Memory.read (m : Memory) (a : Nat) : Byte := (lookupCell m.cells a).getD (fillByte m.fill a)

/-- The memory with one byte written, its canonical form kept. -/
def Memory.write (m : Memory) (a : Nat) (v : Byte) : Memory :=
  { m with cells := if v = fillByte m.fill a then eraseCell m.cells a else insertCell m.cells a v }

/-- `n` bytes of a memory from an address on. -/
def Memory.readBytes (m : Memory) (a n : Nat) : List Byte := (List.range n).map fun k => m.read (a + k)

/-- The memory with a list of (address, byte) pairs written in turn. -/
def Memory.writeAll (m : Memory) (l : List Host.Cell) : Memory := l.foldl (fun m c => m.write c.1 c.2) m

/-- Addresses strictly rise. -/
def cellsRise : List Host.Cell → Bool
  | [] => true
  | [_] => true
  | (a, _) :: (b, w) :: rest => decide (a < b) && cellsRise ((b, w) :: rest)

/-- The canonical form: addresses strictly rising, and no listed byte equal to what its address would read as
unlisted. -/
def Memory.wf (m : Memory) : Bool := cellsRise m.cells && m.cells.all fun c => c.2 != fillByte m.fill c.1

/-- Byte `place` of the free values of the event now being taken, whose own number is `s.freeCount`. -/
def State.free (s : State) (place : Nat) : Byte := Config.freeByte s.freeCount place

end Sys2Proof.Machine
end

