-- ==== Sys2Proof/Machine/Flags.lean ====
section
/-! DEFINITION. The interrupt flags, INT, WINFAULT and STATUS. -/

namespace Sys2Proof.Machine

/-- The fifteen interrupt flags (R173). -/
inductive Flag where
  | frame | rowmark | swap | listFault | lateRow | mover | winFault | startDone | result | halt | qspace | lowv | service
  | retire | mapDefault
  deriving DecidableEq, Repr

/-- The bit of a flag in its register (R173). -/
def Flag.bit : Flag → Nat
  | .frame => 0 | .rowmark => 1 | .swap => 2 | .listFault => 3 | .lateRow => 4 | .mover => 5 | .winFault => 6
  | .startDone => 7 | .result => 0 | .halt => 1 | .qspace => 2 | .lowv => 3 | .service => 4 | .retire => 5
  | .mapDefault => 6

/-- Whether a flag stands in IFLAG1 (R173). -/
def Flag.second : Flag → Bool
  | .frame | .rowmark | .swap | .listFault | .lateRow | .mover | .winFault | .startDone => false
  | .result | .halt | .qspace | .lowv | .service | .retire | .mapDefault => true

/-- The interrupt unit with one flag set, whatever its value before (R173). -/
def Interrupts.raise (q : Interrupts) (f : Flag) : Interrupts :=
  if f.second then { q with iflag1 := setBit q.iflag1 f.bit } else { q with iflag0 := setBit q.iflag0 f.bit }

/-- Whether a flag is set. -/
def Interrupts.isSet (q : Interrupts) (f : Flag) : Bool :=
  if f.second then q.iflag1.getLsbD f.bit else q.iflag0.getLsbD f.bit

/-- INT is asserted exactly when some flag and its enable are both set (R174). -/
def Interrupts.int (q : Interrupts) : Bool := q.iflag0 &&& q.ien0 != 0 || q.iflag1 &&& q.ien1 != 0

/-- A block sets an interrupt flag (R173). -/
def raise (f : Flag) (s : State) : State := { s with irq := s.irq.raise f }

/-- A write to port 5 or 6 clears each flag whose bit is 1 (R173). -/
def clearFlags (second : Bool) (v : Byte) (s : State) : State :=
  if second then { s with irq := { s.irq with iflag1 := s.irq.iflag1 &&& ~~~v } }
  else { s with irq := { s.irq with iflag0 := s.irq.iflag0 &&& ~~~v } }

/-- DISPLAY RESET clears FRAME, ROWMARK, SWAP, LISTFAULT, LATEROW and MOVER (R37). -/
def clearDisplayFlags (s : State) : State := clearFlags false 0x3F s

/-- A refusal sets the WINFAULT flag, and writes its code into WINFAULT when that holds NONE (R172). -/
def refuse (c : WinFault) (s : State) : State :=
  { raise .winFault s with win := { s.win with winfault := if s.win.winfault = .none then c else s.win.winfault } }

/-- The fault codes (R172). -/
def WinFault.code : WinFault → Byte
  | .none => 0x00 | .badCommand => 0x01 | .range => 0x02 | .readOnly => 0x03 | .badValue => 0x04 | .pair => 0x05
  | .patchDup => 0x06 | .moverBusy => 0x07 | .queueFull => 0x08 | .queueHalted => 0x09 | .portOwned => 0x0A
  | .resultEmpty => 0x0B | .serviceMode => 0x0C

/-- IN_VBLANK: from each frame start to the line start of visible line 0 (R25). -/
def State.inVblank (s : State) : Bool :=
  match s.scan.pos with
  | .vblank _ => true
  | _ => false

/-- STATUS (R170). -/
def State.status (s : State) : Byte :=
  putBit (putBit (putBit (putBit (putBit (putBit (putBit (putBit 0 0 s.scan.enabled) 1 s.inVblank)
    2 (s.mover.mvstate = .running)) 3 (decide (s.store.queue.length = 4))) 4 (s.store.engine = .halted))
    5 (!s.store.results.isEmpty)) 6 (s.store.engine = .starting)) 7 s.part.service

/-- WAIT# is low while a cell request of the window has not completed, or a window access is held (R55, R166). -/
def State.waitLow (s : State) : Bool := s.win.cellOp.isSome || !s.win.held.isEmpty

/-- BLANK# is high on the active dots of a visible line and low everywhere else (R38, R39). -/
def State.blankHigh (s : State) : Bool := s.scan.part = .activeDots

end Sys2Proof.Machine
end

