-- ==== Sys2Proof/Machine/CellPort.lean ====
section
/-! DEFINITION. The cell store and the cell port arbiter (R41 to R48). -/

namespace Sys2Proof.Machine

/-- The cell word at a cell address (R41, R49). -/
def State.cell (s : State) (a : CellAddr) : Word16 :=
  word16 (s.cells.read (2 * a.toNat + 1)) (s.cells.read (2 * a.toNat))

/-- The cell store with one whole cell word written (R41). -/
def Memory.writeCell (m : Memory) (a : CellAddr) (w : Word16) : Memory :=
  (m.write (2 * a.toNat) (byteOf w 0)).write (2 * a.toNat + 1) (byteOf w 1)

/-- Starts one access, taking the claimant's request out of the waiting set and keeping the turn record (R46). -/
def CellPort.start (p : CellPort) (who : CellClaimant) (r : CellReq) : CellPort :=
  match who with
  | .rowLoader => { p with loaderWait := none, access := some ⟨who, r, false⟩ }
  | .host => { p with hostWait := none, access := some ⟨who, r, false⟩, turn := .host }
  | .mover => { p with moverWait := none, access := some ⟨who, r, false⟩, turn := .mover }

/-- The grant policy (R46): the row loader first, then the host window and the mover by the turn record. Nothing is
granted while an access is in progress (R43). -/
def CellPort.grant (p : CellPort) : CellPort :=
  match p.access, p.loaderWait, p.hostWait, p.moverWait with
  | some _, _, _, _ => p
  | none, some a, _, _ => p.start .rowLoader (.read a)
  | none, none, some h, some m => if p.turn = .host then p.start .mover m else p.start .host h
  | none, none, some h, none => p.start .host h
  | none, none, none, some m => p.start .mover m
  | none, none, none, none => p

/-- The arbiter makes a grant when the port is free (R46). -/
def cellGrant (s : State) : State := { s with cellPort := s.cellPort.grant }

/-- The row loader presents a cell read (R45). -/
def loaderCellRead (a : CellAddr) (s : State) : State :=
  { s with cellPort := { s.cellPort with loaderWait := some a }.grant }

/-- The host window presents a cell request (R45, R49). -/
def hostCellRequest (op : CellOp) (r : CellReq) (s : State) : State :=
  { s with
    cellPort := { s.cellPort with hostWait := some r }.grant
    win := { s.win with cellOp := some op } }

/-- The mover presents a cell request (R45, R62). -/
def moverCellRequest (r : CellReq) (s : State) : State :=
  { s with cellPort := { s.cellPort with moverWait := some r }.grant }

/-- Marks the access in progress as abandoned when it belongs to this claimant (R47, R69, R79, R81). -/
def CellPort.abandon (p : CellPort) (who : CellClaimant) : CellPort :=
  match p.access with
  | some acc => if acc.who = who then { p with access := some { acc with abandoned := true } } else p
  | none => p

/-- Whether the access in progress belongs to this claimant and is still wanted. -/
def CellPort.serves (p : CellPort) (who : CellClaimant) : Bool :=
  match p.access with
  | some acc => acc.who = who && !acc.abandoned
  | none => false

end Sys2Proof.Machine
end

