-- ==== Sys2Proof/Machine/Mover.lean ====
section
/-! DEFINITION. The cell mover (R58 to R69). -/

namespace Sys2Proof.Machine

/-- A COPY runs descending when the destination lies in the circular range source + 1 to source + count - 1 (R61). -/
def copyDescends (src dst : CellAddr) (count : Nat) : Bool :=
  decide (1 ≤ (dst - src).toNat) && decide ((dst - src).toNat < count)

/-- The first step of a run in its direction (R61). -/
def MoverOp.firstStep (op : MoverOp) : Nat := if op.descending then op.count - 1 else 0

/-- The step after step `i`, if there is one (R61). -/
def MoverOp.nextStep (op : MoverOp) (i : Nat) : Option Nat :=
  if op.descending then (if i = 0 then none else some (i - 1)) else (if i + 1 < op.count then some (i + 1) else none)

/-- The destination cell of step `i` (R61). -/
def MoverOp.dstCell (op : MoverOp) (i : Nat) : CellAddr := op.dst + BitVec.ofNat 12 i

/-- The source cell of step `i` (R61). -/
def MoverOp.srcCell (op : MoverOp) (i : Nat) : CellAddr := op.src + BitVec.ofNat 12 i

/-- The first request of step `i`: a FILL's write, or a COPY's read (R62). -/
def MoverOp.firstRequest (op : MoverOp) (i : Nat) : CellReq :=
  match op.kind with
  | .fill => .write (op.dstCell i) op.value
  | .copy => .read (op.srcCell i)

/-- The operation that the parameter registers hold, when MVKIND and MVCNT are in range (R60). Addresses are taken modulo
4096. -/
def Mover.latchOp (m : Mover) : Option MoverOp :=
  let src : CellAddr := m.mvsrc.setWidth 12
  let dst : CellAddr := m.mvdst.setWidth 12
  let n := m.mvcnt.toNat
  if n = 0 ∨ 4096 < n then none
  else if m.mvkind = 1 then
    some { kind := .fill, src := src, dst := dst, count := n, value := m.mvval, descending := false }
  else if m.mvkind = 2 then
    some { kind := .copy, src := src, dst := dst, count := n, value := m.mvval, descending := copyDescends src dst n }
  else none

/-- Puts an operation in hand, MVDONE 0 and MVSTATE RUNNING (R60). A write that DISPLAY RESET cut loose is no longer
counted (log entry 12). -/
def Mover.begin (m : Mover) (op : MoverOp) : Mover :=
  { m with
    op := some op, position := op.firstStep, mvdone := 0, mvstate := .running, transfer := none, aborting := false
    tail := false }

/-- A mover access is still in progress, wanted or cut loose by DISPLAY RESET (R69). -/
def State.moverAccess (s : State) : Bool :=
  match s.cellPort.access with
  | some acc => acc.who = .mover
  | none => false

/-- MOVER START (R60). The first request is put off while the mover's own access is still in progress (R45). -/
def moverStart (s : State) : State :=
  if s.mover.mvstate = .running then refuse .moverBusy s
  else
    match s.mover.latchOp with
    | none => refuse .badValue s
    | some op =>
      let s1 := { s with mover := s.mover.begin op }
      if s.moverAccess then s1 else moverCellRequest (op.firstRequest op.firstStep) s1

/-- The mover with its operation over, in this state (R64, R65). -/
def Mover.finish (m : Mover) (st : MvState) : Mover :=
  { m with op := none, position := 0, transfer := none, aborting := false, mvstate := st }

/-- The operation ends and the MOVER flag is set (R64, R65). -/
def moverEnd (st : MvState) (s : State) : State := raise .mover { s with mover := s.mover.finish st }

/-- A read of the mover completes: the word becomes the transfer word and the step's write is presented (R62). -/
def moverReadDone (w : Word16) (s : State) : State :=
  match s.mover.op with
  | none => s
  | some op =>
    moverCellRequest (.write (op.dstCell s.mover.position) w) { s with mover := { s.mover with transfer := some w } }

/-- A write of the mover completes: the step is finished, and the next begins, or the operation ends (R62, R64, R65). -/
def moverWriteDone (s : State) : State :=
  match s.mover.op with
  | none => s
  | some op =>
    let s1 := { s with mover := { s.mover with mvdone := s.mover.mvdone + 1, transfer := none } }
    if s.mover.aborting then moverEnd .aborted s1
    else
      match op.nextStep s.mover.position with
      | none => moverEnd .complete s1
      | some i => moverCellRequest (op.firstRequest i) { s1 with mover := { s1.mover with position := i } }

/-- An operation that began while the access cut loose was in progress presents the request it had put off (R45). -/
def moverResumes (s : State) : State :=
  match s.mover.op with
  | none => s
  | some op => moverCellRequest (op.firstRequest s.mover.position) s

/-- The completion of a mover access that DISPLAY RESET abandoned: a write is counted in MVDONE, a read is discarded
(R69). -/
def moverAbandonedDone (s : State) : State :=
  moverResumes
    (if s.mover.tail then { s with mover := { s.mover with mvdone := s.mover.mvdone + 1, tail := false } } else s)

/-- The step's cell is in progress: its first access has been granted and its write has not completed (R62). -/
def State.moverCellInProgress (s : State) : Bool := s.mover.transfer.isSome || s.cellPort.serves .mover

/-- MOVER ABORT (R65). -/
def moverAbort (s : State) : State :=
  if s.mover.mvstate = .running then
    if s.moverCellInProgress then { s with mover := { s.mover with aborting := true } }
    else moverEnd .aborted { s with cellPort := { s.cellPort with moverWait := none } }
  else s

/-- Whether the mover access now in progress is a wanted write. -/
def State.moverWriting (s : State) : Bool :=
  match s.cellPort.access with
  | some ⟨.mover, .write _ _, false⟩ => true
  | _ => false

/-- DISPLAY RESET stops the mover with no MOVER flag (R69). -/
def moverStop (s : State) : State :=
  { s with
    mover := { s.mover.finish .idle with tail := s.mover.tail || s.moverWriting }
    cellPort := { s.cellPort with moverWait := none }.abandon .mover }

end Sys2Proof.Machine
end

