-- ==== Sys2Proof/Machine/ArrayPort.lean ====
section
/-! DEFINITION. The glyph array, its pulses and the array arbiter (R104 to R109, R115). -/

namespace Sys2Proof.Machine

/-- Bytes of one bank: 64 glyph images of 16 bytes and a header of 4 (R104). -/
def bankBytes : Nat := 1028

/-- The place of an erase unit in the model's numbering of the array. -/
def EraseUnit.base : EraseUnit → Nat
  | .bank b => b.val * bankBytes
  | .area .a => 16 * bankBytes
  | .area .b => 16 * bankBytes + 128

/-- The bytes of an erase unit (R104). -/
def EraseUnit.size : EraseUnit → Nat
  | .bank _ => bankBytes
  | .area _ => 128

/-- The place of what an access acts on. -/
def ArrUnit.base : ArrUnit → Nat
  | .glyph b g => (EraseUnit.bank b).base + 16 * g
  | .header b => (EraseUnit.bank b).base + 1024
  | .slot ar n => (EraseUnit.area ar).base + 16 * n
  | .whole u => u.base

/-- The bytes of what an access acts on (R104). -/
def ArrUnit.size : ArrUnit → Nat
  | .glyph _ _ => 16
  | .header _ => 4
  | .slot _ _ => 16
  | .whole u => u.size

/-- The raw bytes of a unit (R106). -/
def State.rawBytes (s : State) (u : ArrUnit) : List Byte := s.array.readBytes u.base u.size

/-- Glyph images are held inverted (R105): slices of a glyph in host polarity. -/
def State.glyphSlices (s : State) (b : Bank) (g first count : Nat) : List Byte :=
  (s.array.readBytes ((ArrUnit.glyph b g).base + first) count).map fun v => ~~~v

/-- What a pulse leaves in a byte: a bit that reads 1 and whose target is 0 becomes 0 or stays 1 as its cell determines,
and every other bit stays (R105). The free byte says which such bits stay. -/
def pulsedByte (old target free : Byte) : Byte := old &&& (target ||| free)

/-- What a sub-pulse leaves in a byte: a bit that reads 0 becomes 1 or stays 0 as its cell determines, and a bit that
reads 1 stays (R105). -/
def subPulsedByte (old free : Byte) : Byte := old ||| free

/-- The effect of a program pulse on the bytes of the set (R105, R106). -/
def pulseArray (p : ProgOp) (s : State) : State :=
  { s with
    array := s.array.writeAll (p.set.map fun k =>
      (p.place.base + k, pulsedByte (s.array.read (p.place.base + k)) (byteAt p.target k) (s.free k)))
    freeCount := s.freeCount + 1 }

/-- The effect of an erase sub-pulse on its whole unit (R105, R106). -/
def subPulseArray (u : EraseUnit) (s : State) : State :=
  { s with
    array := s.array.writeAll ((List.range u.size).map fun k =>
      (u.base + k, subPulsedByte (s.array.read (u.base + k)) (s.free k)))
    freeCount := s.freeCount + 1 }

/-- The program operation of the command in flight, if one is running. -/
def State.progOp (s : State) : Option ProgOp := s.store.inFlight.bind InFlight.prog

/-- The effect of a cut program pulse: any of the bits it was acting on may have moved, but the unit does not come to hold
its target (R115, R142). Free bits that would complete the target stand for a cut before the first bit moved (log entry
22). -/
def cutPulseArray (p : ProgOp) (s : State) : State :=
  let t := pulseArray p s
  if t.rawBytes p.place = p.target ∧ s.rawBytes p.place ≠ p.target then { t with array := s.array } else t

/-- The effect of a cut sub-pulse: any bit of the unit that read 0 may have moved, but the unit does not come to be erased
(R115). Free bits that would erase it stand for a cut before the first bit moved (log entry 22). -/
def cutSubPulseArray (u : EraseUnit) (s : State) : State :=
  let t := subPulseArray u s
  let blank := List.replicate u.size (0xFF : Byte)
  if t.rawBytes (.whole u) = blank ∧ s.rawBytes (.whole u) ≠ blank then { t with array := s.array } else t

/-- The array port with nothing in progress. -/
def freeArrayPort (s : State) : State := { s with arrPort := { s.arrPort with access := none } }

/-- The effect on the array of cutting the pulse or sub-pulse in progress, if one is (R115). -/
def cutPulse (s : State) : State :=
  match s.arrPort.access with
  | some (.store (.pulse _) _) =>
    match s.progOp with
    | some p => freeArrayPort (cutPulseArray p s)
    | none => freeArrayPort s
  | some (.store (.subPulse u) _) => freeArrayPort (cutSubPulseArray u s)
  | _ => s

/-- At the grant of a pulse or sub-pulse its operation counts it (R110, R111). -/
def InFlight.countGrant (f : InFlight) : StoreReq → InFlight
  | .read _ => f
  | .pulse _ => { f with prog := f.prog.map fun p => { p with pulses := p.pulses + 1 } }
  | .subPulse _ => { f with erase := f.erase.map fun e => { e with given := e.given + 1 } }

/-- Whether a request of the store engine may be granted now: a read always, a pulse or sub-pulse only when the loader is
not LOADING (R108). No pulse waits while LOWV# is asserted (R114). -/
def StoreReq.mayRun (r : StoreReq) (ld : LoaderState) : Bool :=
  match r with
  | .read _ => true
  | .pulse _ | .subPulse _ => ld != .loading

/-- The grant policy of the array arbiter (R108). -/
def arrayGrant (s : State) : State :=
  match s.arrPort.access, s.arrPort.loaderWait, s.arrPort.storeWait with
  | some _, _, _ => s
  | none, some r, _ => { s with arrPort := { s.arrPort with loaderWait := none, access := some (.loader r false) } }
  | none, none, some r =>
    if r.mayRun s.rows.loader then
      { s with
        arrPort := { s.arrPort with storeWait := none, access := some (.store r false) }
        store := { s.store with inFlight := s.store.inFlight.map fun f => f.countGrant r } }
    else s
  | none, none, none => s

/-- The row loader presents an array read (R74, R107). -/
def loaderArrayRead (r : GlyphRead) (s : State) : State :=
  arrayGrant { s with arrPort := { s.arrPort with loaderWait := some r } }

/-- A store read whose data STORE ABORT discarded is still in progress (R115). -/
def State.storeBusy (s : State) : Bool :=
  match s.arrPort.access with
  | some (.store (.read _) abandoned) => abandoned
  | _ => false

/-- The store engine presents a request, or puts it off to the completion of its own discarded read, since it has at most
one request waiting or in progress (R107, R115). -/
def storeRequest (r : StoreReq) (s : State) : State :=
  if s.storeBusy then { s with store := { s.store with deferred := some r } }
  else arrayGrant { s with arrPort := { s.arrPort with storeWait := some r } }

/-- Whether an array access belongs to the row loader. -/
def ArrAccess.isLoaders : ArrAccess → Bool
  | .loader _ _ => true
  | .store _ _ => false

/-- The row loader withdraws its request and abandons its access at the array port (R79, R81, R109). -/
def ArrayPort.loaderLeaves (p : ArrayPort) : ArrayPort :=
  { p with
    loaderWait := none
    access :=
      match p.access with
      | some (.loader r _) => some (.loader r true)
      | other => other }

end Sys2Proof.Machine
end

