-- ==== Sys2Proof/Machine/Descriptors.lean ====
section
/-! DEFINITION. Descriptors: their layout, the latch checks, the row instance a latched copy gives, the choice of the
instance that follows, and the marquee advance (R1 to R11, R20). -/

namespace Sys2Proof.Machine

/-- Descriptor `n` of a descriptor table (layout of space 2; R1). -/
def readDescriptor (m : Memory) (n : Nat) : Descriptor :=
  let v := fun k => m.read (16 * n + k)
  { next := (v 0).toNat
    mark := (v 1).getLsbD 0, markAll := (v 1).getLsbD 1, double := (v 1).getLsbD 2, force := (v 1).getLsbD 3
    marquee := (v 1).getLsbD 4, hide := (v 1).getLsbD 5, revRow := (v 1).getLsbD 6, underRow := (v 1).getLsbD 7
    base := (word16 (v 3) (v 2)).toNat
    width := (v 4).toNat
    first := (v 5).toNat % 16, count := (v 5).toNat / 16 + 1
    pan := (v 6).toNat % 8, wide := (v 6).getLsbD 3, repeats := (v 6).toNat / 16
    forceAttr := (v 7).toNat % 64
    ringBase := (word16 (v 9) (v 8)).toNat
    ringLen := (v 10).toNat, stepDots := (v 11).toNat, interval := (v 12).toNat
    posCell := (v 13).toNat, posDot := (v 14).toNat, fCount := (v 15).toNat }

/-- The height of an instance in lines (R5). -/
def Descriptor.height (d : Descriptor) : Nat := if d.double then 2 * d.count else d.count

/-- The checks made at a latch against the frame's CELLW (R10). -/
def Descriptor.passes (d : Descriptor) (cellw : Nat) : Bool :=
  decide (d.first + d.count ≤ 16) &&
    (d.hide ||
      (decide (1 ≤ d.width) && decide (d.width ≤ 64) &&
        (if d.marquee then
          decide (d.ringBase ≤ 4095) && decide (1 ≤ d.ringLen) && decide (1 ≤ d.stepDots) &&
            decide (d.stepDots ≤ cellw) && decide (1 ≤ d.interval)
        else decide (d.base ≤ 4095) && decide (d.pan < cellw))))

/-- The effective pan (R4, R7). -/
def Descriptor.effectivePan (d : Descriptor) (cellw : Nat) : Nat := if d.marquee then d.posDot % cellw else d.pan

/-- The effective first ring offset (R7). -/
def Descriptor.firstOffset (d : Descriptor) (cellw : Nat) : Nat := (d.posCell + d.posDot / cellw) % d.ringLen

/-- The cell address of entry `j` of instance `k` (R5, R7), modulo 4096. -/
def Descriptor.cellAddr (d : Descriptor) (cellw k j : Nat) : CellAddr :=
  if d.marquee then BitVec.ofNat 12 (d.ringBase + (d.firstOffset cellw + j) % d.ringLen)
  else BitVec.ofNat 12 (d.base + k * d.width + j)

/-- An entry on which no work has begun (R70). -/
def Entry.blank : Entry := { state := .empty, slices := [], flags := 0, uline := 0, sline := 0, mark := none }

/-- The row instance that a latched copy gives (R70, R73). A HIDE instance has no entries in use. -/
def instanceOf (d : Descriptor) (cellw index k : Nat) : RowInst :=
  { index := index, number := k, desc := d, pan := d.effectivePan cellw
    addrs := if d.hide then [] else (List.range d.width).map (d.cellAddr cellw k)
    entries := if d.hide then [] else List.replicate d.width Entry.blank }

/-- Which instance follows one whose latched copy is `d` (R9, R11). -/
inductive Following where
  /-- Instance `k` of descriptor `index`. -/
  | latch (index k : Nat)
  /-- NEXT is END: no instance follows. -/
  | ends
  /-- NEXT holds 48 to 254. -/
  | badLink
  deriving DecidableEq, Repr

/-- The choice of the instance after instance `k` of descriptor `index` (R9, R11). -/
def following (d : Descriptor) (index k : Nat) : Following :=
  if !d.marquee && decide (k < d.repeats) then .latch index (k + 1)
  else if d.next = 255 then .ends
  else if 48 ≤ d.next then .badLink
  else .latch d.next 0

/-- The marquee fields are valid for the advance (R20). -/
def Descriptor.advances (d : Descriptor) (cellw : Nat) : Bool :=
  d.marquee && decide (1 ≤ d.ringLen) && decide (1 ≤ d.stepDots) && decide (d.stepDots ≤ cellw) &&
    decide (1 ≤ d.interval)

/-- Step 3 of the advance: while POSDOT is at least CELLW, it decreases by CELLW and POSCELL becomes (POSCELL + 1) modulo
RINGLEN. The first argument bounds the rounds (R20). -/
def carryDots (cellw ringLen : Nat) : Nat → Nat → Nat → Nat × Nat
  | 0, posCell, posDot => (posCell, posDot)
  | n + 1, posCell, posDot =>
    if cellw ≤ posDot then carryDots cellw ringLen n ((posCell + 1) % ringLen) (posDot - cellw) else (posCell, posDot)

/-- The three position bytes after an advance: POSCELL, POSDOT, FCOUNT (R20). CELLW is at least 1, so POSDOT, at most 510
before step 3, needs fewer than 511 rounds. -/
def advancedPosition (d : Descriptor) (cellw : Nat) : Nat × Nat × Nat :=
  let count := d.fCount + 1
  let moved := decide (d.interval ≤ count)
  let carried := carryDots cellw d.ringLen 511 d.posCell (if moved then d.posDot + d.stepDots else d.posDot)
  (carried.1, carried.2, if moved then 0 else count)

/-- The table after the advance of descriptor `n`, written back in one access (R20). -/
def advanceOne (cellw : Nat) (m : Memory) (n : Nat) : Memory :=
  let d := readDescriptor m n
  if d.advances cellw then
    let p := advancedPosition d cellw
    ((m.write (16 * n + 13) (BitVec.ofNat 8 p.1)).write (16 * n + 14) (BitVec.ofNat 8 p.2.1)).write (16 * n + 15)
      (BitVec.ofNat 8 p.2.2)
  else m

/-- The marquee advance of every descriptor of the table, 0 to 47 (R20). -/
def advanceMarquees (cellw : Nat) (m : Memory) : Memory := (List.range 48).foldl (advanceOne cellw) m

end Sys2Proof.Machine
end

