-- ==== Sys2Proof/Machine/RowLoader.lean ====
section
/-! DEFINITION. The row buffers, the patch lookup and resolution order, the row loader, list faults and late rows (R8 to
R13, R70 to R81, R84, R91, R95, R97). -/

namespace Sys2Proof.Machine

/-- The loading buffer (R71). -/
def Rows.loading (r : Rows) : Option RowInst := if r.loadingIs1 then r.buf1 else r.buf0

/-- The displaying buffer (R71). -/
def Rows.displaying (r : Rows) : Option RowInst := if r.loadingIs1 then r.buf0 else r.buf1

/-- The row buffers with the loading buffer replaced. -/
def Rows.setLoading (r : Rows) (b : Option RowInst) : Rows :=
  if r.loadingIs1 then { r with buf1 := b } else { r with buf0 := b }

/-- The exchange of roles at a row start: the buffer that becomes the loading buffer is emptied (R31, R71). -/
def Rows.exchange (r : Rows) : Rows := { r with loadingIs1 := !r.loadingIs1 }.setLoading none

/-- The glyph code of a patch slot: ten bits of its first two bytes (R92). -/
def patchCode (m : Memory) (n : Nat) : Nat :=
  (m.read (18 * n)).toNat + 256 * ((m.read (18 * n + 1)).toNat % 4)

/-- The valid slot that holds a code, if there is one (R95). -/
def State.patchHolder (s : State) (code : Nat) : Option Nat :=
  (List.range 16).find? fun n => s.patchValid.getLsbD n && decide (patchCode s.patch n = code)

/-- Where a resolved code's slices come from (R74). -/
inductive GlyphSource where
  /-- A patch image or a blank glyph: the slices themselves. -/
  | slices (l : List Byte)
  /-- A glyph of the array. -/
  | stored (b : Bank) (g : Nat)
  deriving DecidableEq, Repr

/-- The resolution order (R97), for slices `first` to `first + count - 1`. -/
def State.resolveCode (s : State) (code first count : Nat) : GlyphSource :=
  match s.patchHolder code with
  | some n => .slices (s.patch.readBytes (18 * n + 2 + first) count)
  | none =>
    if h : code / 64 < 14 then
      if s.store.engine = .starting then .slices (List.replicate count 0)
      else .stored (s.scan.displayMap.get ⟨code / 64, h⟩) (code % 64)
    else .slices (List.replicate count 0)

/-- The style in CURSTY (layout of space 0). A style of 3 is never accepted (R84). -/
def cursorStyle (v : Byte) : CursorStyle :=
  match v.toNat % 4 with
  | 0 => .block
  | 1 => .line
  | _ => .bar

/-- The cursor mark of a cell (R74): set when VISIBLE is set and the address equals CURADR modulo 4096. -/
def State.cursorMarkAt (s : State) (a : CellAddr) : Option CursorMark :=
  if s.ctl.cursty.getLsbD 3 && decide (a = s.ctl.curadr.setWidth 12) then
    some { style := cursorStyle s.ctl.cursty, blink := s.ctl.cursty.getLsbD 2 }
  else none

/-- The index of the attribute entry of a cell word (R42, R74). -/
def attrIndex (d : Descriptor) (w : Word16) : Nat := if d.force then d.forceAttr else w.toNat / 1024

/-- The entry as a resolution samples it, less its slices (R74). -/
def State.sampledEntry (s : State) (d : Descriptor) (a : CellAddr) (w : Word16) : Entry :=
  { state := .filling, slices := []
    flags := s.attrs.read (2 * attrIndex d w)
    uline := (s.attrs.read (2 * attrIndex d w + 1)).toNat % 16
    sline := (s.attrs.read (2 * attrIndex d w + 1)).toNat / 16
    mark := s.cursorMarkAt a }

/-- The instance with one entry replaced. -/
def RowInst.putEntry (i : RowInst) (j : Nat) (e : Entry) : RowInst := { i with entries := i.entries.set j e }

/-- The instance with the state of one entry replaced. -/
def RowInst.setState (i : RowInst) (j : Nat) (st : EntryState) : RowInst :=
  i.putEntry j { i.entries.getD j Entry.blank with state := st }

/-- Whether an access granted to the row loader is still in progress at either port. -/
def State.loaderAccess (s : State) : Bool :=
  (match s.cellPort.access with
    | some acc => decide (acc.who = .rowLoader)
    | none => false) ||
  (match s.arrPort.access with
    | some acc => acc.isLoaders
    | none => false)

/-- The loader begins work on entry `j` of the instance in the loading buffer: the entry becomes FILLING and its cell's
read is presented (R73, R76), or is put off to the completion of an access of an abandoned load (R73). -/
def beginEntry (i : RowInst) (j : Nat) (s : State) : State :=
  let a := i.addrs.getD j 0
  let s1 := { s with
    rows := { s.rows.setLoading (some (i.setState j .filling)) with
      loader := .loading, work := some { entry := j, addr := a, phase := .cellRead } } }
  if s.loaderAccess then s1 else loaderCellRead a s1

/-- The loader has nothing to do: RESTING, with no working record (R72). -/
def loaderRests (s : State) : State := { s with rows := { s.rows with loader := .resting, work := none } }

/-- A load begins with the instance in the loading buffer (R73). -/
def beginLoad (i : RowInst) (s : State) : State :=
  if i.desc.hide then loaderRests { s with rows := s.rows.setLoading (some i) } else beginEntry i 0 s

/-- A list fault: LISTFLT takes the code and the index, LISTFAULT is set, and nothing is loaded (R12, R13, R73). -/
def listFault (c : ListCode) (index : Nat) (s : State) : State :=
  loaderRests (raise .listFault { s with scan := { s.scan with listCode := c, listIndex := BitVec.ofNat 8 index } })

/-- The latch of instance `k` of descriptor `index` into the empty loading buffer (R8, R10, R73). -/
def latchInst (index k : Nat) (s : State) : State :=
  let d := readDescriptor s.descs index
  if d.passes s.scan.cfg.cellw.toNat then beginLoad (instanceOf d s.scan.cfg.cellw.toNat index k) s
  else listFault .badField index s

/-- The latch of the first instance of a frame (R8, R14). -/
def latchFirst (s : State) : State :=
  if s.scan.headact = 0xFF then loaderRests s else latchInst s.scan.headact.toNat 0 s

/-- The first latch of a frame, when its frame start has left it to the next step, is made (R8, log entry 23). -/
def takeLatch (s : State) : State :=
  if s.scan.latchDue then arrayGrant (latchFirst { s with scan := { s.scan with latchDue := false } }) else s

/-- The latch that follows instance `i`, which begins at visible line `n`, when one is due (R8, R9, R11). -/
def latchFollowing (i : RowInst) (n : Nat) (s : State) : State :=
  if n + i.desc.height < s.scan.cfg.vislines.toNat then
    match following i.desc i.index i.number with
    | .latch index k => latchInst index k s
    | .ends => loaderRests s
    | .badLink => listFault .badLink i.index s
  else loaderRests s

/-- Entry `j` of the instance is complete; the loader moves on (R76). -/
def entryDone (i : RowInst) (j : Nat) (s : State) : State :=
  if j + 1 < i.desc.width then beginEntry i (j + 1) s
  else loaderRests { s with rows := s.rows.setLoading (some i) }

/-- The cell read of the entry in hand completes: its resolution (R74). -/
def resolveCell (w : Word16) (s : State) : State :=
  match s.rows.work, s.rows.loading with
  | some wk, some i =>
    let e := s.sampledEntry i.desc wk.addr w
    match s.resolveCode (w.toNat % 1024) i.desc.first i.desc.count with
    | .slices l => entryDone (i.putEntry wk.entry { e with state := .complete, slices := l }) wk.entry s
    | .stored b g =>
      loaderArrayRead { bank := b, glyph := g, first := i.desc.first, count := i.desc.count }
        { s with
          rows := { s.rows.setLoading (some (i.putEntry wk.entry e)) with
            work := some { wk with phase := .arrayRead } } }
  | _, _ => s

/-- The array read of the entry in hand completes: its slices are stored (R76). -/
def storeSlices (l : List Byte) (s : State) : State :=
  match s.rows.work, s.rows.loading with
  | some wk, some i =>
    entryDone (i.putEntry wk.entry { i.entries.getD wk.entry Entry.blank with state := .complete, slices := l })
      wk.entry s
  | _, _ => s

/-- The completion of an access of an abandoned load: its data is not stored, and a load that began meanwhile presents
its first request (R73, R79). -/
def loaderResumes (s : State) : State :=
  match s.rows.loader, s.rows.work with
  | .loading, some wk => loaderCellRead wk.addr s
  | _, _ => s

/-- The loader withdraws its waiting request and abandons a granted access (R47, R79, R81, R109). -/
def loaderLeaves (s : State) : State :=
  { s with
    cellPort := { s.cellPort with loaderWait := none }.abandon .rowLoader
    arrPort := s.arrPort.loaderLeaves
    rows := { s.rows with work := none } }

/-- LATECNT saturates at 255 (R80). -/
def stepLatecnt (v : Byte) : Byte := if v = 255 then 255 else v + 1

/-- A row start that finds the loader LOADING abandons the load, steps LATECNT and sets LATEROW (R78, R79). -/
def lateRow (s : State) : State :=
  if s.rows.loader = .loading then
    raise .lateRow (loaderLeaves { s with scan := { s.scan with latecnt := stepLatecnt s.scan.latecnt } })
  else s

/-- Disable, DISPLAY RESET and RESET# stop the loader and empty both buffers, buffer 0 loading (R24, R71, R81). -/
def loaderStops (s : State) : State :=
  { loaderLeaves s with
    rows := { loader := .stopped, work := none, buf0 := none, buf1 := none, loadingIs1 := false } }

end Sys2Proof.Machine
end

