-- ==== Sys2Proof/Machine/Compose.lean ====
section
/-! DEFINITION. Composition of a line: slice bytes, attributes, row effects, cursor, pan, widening and clipping (R83, R85
to R90). A dot is true when lit; lists of dots run from the left. -/

namespace Sys2Proof.Machine

/-- The leftmost CELLW dots of a slice byte, dot 0 from bit 7 (R86). -/
def sliceDots (cellw : Nat) (v : Byte) : List Bool := (List.range cellw).map fun c => v.getLsbD (7 - c)

/-- A step of the composition that a set condition applies and a clear one leaves out (R87). -/
def applyIf (c : Bool) (f : List Bool → List Bool) (l : List Bool) : List Bool := if c then f l else l

/-- Every dot dark. -/
def darken (l : List Bool) : List Bool := l.map fun _ => false

/-- Every dot lit. -/
def light (l : List Bool) : List Bool := l.map fun _ => true

/-- Every dot inverted. -/
def invert (l : List Bool) : List Bool := l.map fun d => !d

/-- Each lit dot also lights the dot to its right within the cell (R87). -/
def embolden (l : List Bool) : List Bool := List.zipWith (fun d left => d || left) l (false :: l)

/-- The first dot lit (R88). -/
def lightFirst : List Bool → List Bool
  | [] => []
  | _ :: rest => true :: rest

/-- The attribute effects, in their order (R87). Bits of the attribute byte stand as in the layout of space 3. -/
def attrEffects (e : Entry) (blinkOn : Bool) (slice : Nat) (l : List Bool) : List Bool :=
  applyIf (e.flags.getLsbD 0) invert
    (applyIf (e.flags.getLsbD 5) embolden
      (applyIf (e.flags.getLsbD 2 && decide (slice = e.sline)) light
        (applyIf (e.flags.getLsbD 1 && decide (slice = e.uline)) light
          (applyIf (e.flags.getLsbD 3 && !blinkOn) (if e.flags.getLsbD 6 then invert else darken)
            (applyIf (e.flags.getLsbD 4) darken l)))))

/-- The line shows the last displayed slice (R88). -/
def Descriptor.lastSlice (d : Descriptor) (slice : Nat) : Bool := decide (slice + 1 = d.first + d.count)

/-- The row effects REVROW and UNDERROW (R88). -/
def rowEffects (d : Descriptor) (slice : Nat) (l : List Bool) : List Bool :=
  applyIf (d.underRow && d.lastSlice slice) light (applyIf d.revRow invert l)

/-- The cursor (R85, R88). -/
def cursorEffect (d : Descriptor) (e : Entry) (blinkOn : Bool) (slice : Nat) (l : List Bool) : List Bool :=
  match e.mark with
  | none => l
  | some m =>
    if e.flags.getLsbD 7 || (m.blink && !blinkOn) then l
    else
      match m.style with
      | .block => invert l
      | .line => applyIf (d.lastSlice slice) light l
      | .bar => lightFirst l

/-- The dots of one cell on the line that shows `slice` (R86). -/
def cellDots (cellw : Nat) (d : Descriptor) (blinkOn : Bool) (slice : Nat) (e : Entry) : List Bool :=
  if e.state = .complete then
    cursorEffect d e blinkOn slice
      (rowEffects d slice
        (attrEffects e blinkOn slice (sliceDots cellw (byteAt e.slices (slice - d.first)))))
  else List.replicate cellw false

/-- The row's dot stream (R89). -/
def dotStream (cellw : Nat) (i : RowInst) (blinkOn : Bool) (slice : Nat) : List Bool :=
  i.entries.flatMap (cellDots cellw i.desc blinkOn slice)

/-- The PANELW dots of a line that shows `slice` of an instance (R86, R89). -/
def lineDots (cfg : FrameCfg) (blinkOn : Bool) (i : RowInst) (slice : Nat) : List Bool :=
  if i.desc.hide then List.replicate cfg.panelw.toNat false
  else
    let stream := dotStream cfg.cellw.toNat i blinkOn slice
    (List.range cfg.panelw.toNat).map fun x => stream.getD (i.pan + if i.desc.wide then x / 2 else x) false

/-- The slice shown `t` lines after the instance's row start (R30). -/
def Descriptor.sliceAt (d : Descriptor) (t : Nat) : Nat := d.first + if d.double then t / 2 else t

/-- The dots of a fill line (R34). -/
def fillDots (cfg : FrameCfg) : List Bool := List.replicate cfg.panelw.toNat false

end Sys2Proof.Machine
end

