-- ==== Sys2Proof/Machine/DisplayMap.lean ====
section
/-! DEFINITION. The copy of the store map into the display map and the notice that goes with it (R98 to R100). -/

namespace Sys2Proof.Machine

/-- At the notice a SPARE-DRAINING bank becomes SPARE-DIRTY (R100). -/
def releaseBank (e : BankEntry) : BankEntry := if e.role = .spareDraining then { e with role := .spareDirty } else e

/-- The bank role table with every draining spare released. -/
def releaseDraining (v : Vector BankEntry 16) : Vector BankEntry 16 := ⟨⟨v.toList.map releaseBank⟩, by simp⟩

/-- The copy of the store map into the display map, with its notice (R99, R100). -/
def copyStoreMap (s : State) : State :=
  { s with
    scan := { s.scan with displayMap := s.store.storeMap }
    store := { s.store with roles := releaseDraining s.store.roles } }

/-- A frame start, a disable and a DISPLAY RESET make the copy unless the store engine is STARTING (R99). -/
def copyUnlessStarting (s : State) : State := if s.store.engine = .starting then s else copyStoreMap s

end Sys2Proof.Machine
end

