-- ==== Sys2Proof/Machine/ScanEngine.lean ====
section
/-! DEFINITION. The scan engine's events: frame start, line start with its row start, the end of the active dots, enable
and disable, and the swap of the list heads (R15 to R18, R22 to R39). -/

namespace Sys2Proof.Machine

/-- The swap: HEADACT takes HEADPEND, swap pending clears and SWAP is set (R16 to R18). -/
def doSwap (s : State) : State :=
  raise .swap { s with scan := { s.scan with headact := s.scan.headpend, swapPending := false } }

/-- A pending swap is carried out; otherwise HEADACT keeps its value (R17, R18). -/
def swapIfPending (s : State) : State := if s.scan.swapPending then doSwap s else s

/-- SWAP LIST (R16). -/
def swapList (s : State) : State :=
  if s.scan.enabled then { s with scan := { s.scan with swapPending := true } } else doSwap s

/-- The configuration latch (R26). -/
def latchConfig (s : State) : State :=
  { s with
    scan := { s.scan with
      cfg :=
        { panelw := s.ctl.panelw, vislines := s.ctl.vislines, hblank := s.ctl.hblank, vblank := s.ctl.vblank
          cellw := s.ctl.cellw, blinkp := s.ctl.blinkp } } }

/-- The blink step against the BLINKP just latched (R28). -/
def blinkStep (s : State) : State :=
  if s.scan.blinkCount < s.scan.cfg.blinkp.toNat then
    { s with scan := { s.scan with blinkCount := s.scan.blinkCount + 1 } }
  else { s with scan := { s.scan with blinkCount := 1, blinkOn := !s.scan.blinkOn } }

/-- The marquee advance of the frame start, with the CELLW just latched (R20, R27). -/
def marqueeAdvance (s : State) : State := { s with descs := advanceMarquees s.scan.cfg.cellw.toNat s.descs }

/-- FRAMECNT increases by 1 and FRAME is set (R29). -/
def countFrame (s : State) : State := raise .frame { s with scan := { s.scan with framecnt := s.scan.framecnt + 1 } }

/-- The frame position at a frame start: blank line 0, with no row instance in progress and no dots (R25, R39). -/
def enterVblank (s : State) : State :=
  { s with scan := { s.scan with pos := .vblank 0, rowStart := none, part := .blankLine, dots := [] } }

/-- Everything that a frame start settles before the first latch (R26 to R29). -/
def frameSettings (s : State) : State :=
  enterVblank (countFrame (blinkStep (copyUnlessStarting (marqueeAdvance (swapIfPending (latchConfig s))))))

/-- A frame start (R26 to R29, R8). -/
def openFrame (s : State) : State := arrayGrant (latchFirst (frameSettings s))

/-- The frame start is due: the blank dots of the last visible line are being given (R25). -/
def State.frameDue (s : State) : Bool :=
  s.scan.enabled &&
    match s.scan.pos with
    | .visible n => decide (s.scan.part = .blankDots) && decide (s.scan.cfg.vislines.toNat ≤ n + 1)
    | _ => false

/-- FRAME_START, when it is due (R26). A free bit settles whether the first latch is made at once or left to the next step, so
that a host write of a descriptor byte can fall between the marquee advance and the latch (R21, log entry 23). -/
def frameStart (s : State) : State :=
  if s.frameDue then
    let s1 := { s with freeCount := s.freeCount + 1 }
    if (s.free 0).getLsbD 0 then openFrame s1 else { frameSettings s1 with scan.latchDue := true }
  else s

/-- The instance in progress on a visible line: it began at line `r` and its lines are not over (R30). -/
def State.instOn (s : State) (n : Nat) : Option (RowInst × Nat) :=
  match s.scan.rowStart, s.rows.displaying with
  | some r, some i => if n < r + i.desc.height then some (i, r) else none
  | _, _ => none

/-- ROWMARK at the row start of a marked instance (R32). -/
def markRow (i : RowInst) (s : State) : State :=
  if (i.desc.mark && decide (i.number = 0)) || i.desc.markAll then
    raise .rowmark { s with scan := { s.scan with rowmarkidx := BitVec.ofNat 8 i.index } }
  else s

/-- The row start at visible line `n` of the instance in the loading buffer (R31, R32, R78, R79, R8). -/
def startRow (i : RowInst) (n : Nat) (s : State) : State :=
  let s1 := lateRow s
  let s2 := { s1 with rows := s1.rows.exchange, scan := { s1.scan with rowStart := some n } }
  arrayGrant (latchFollowing i n (markRow i s2))

/-- The row start of a visible line, when one is due there; otherwise the instance in progress goes on, or the line is a
fill line (R30, R31, R34). -/
def rowEvents (n : Nat) (s : State) : State :=
  match s.instOn n with
  | some _ => s
  | none =>
    match s.rows.loading with
    | some i => startRow i n s
    | none => { s with scan := { s.scan with rowStart := none } }

/-- The dots that visible line `n` shows (R30, R34, R86 to R89). -/
def State.dotsOfLine (s : State) (n : Nat) : List Bool :=
  match s.instOn n with
  | some (i, r) => lineDots s.scan.cfg s.scan.blinkOn i (i.desc.sliceAt (n - r))
  | none => fillDots s.scan.cfg

/-- The line start of visible line `n`: LSEL takes its number, and its dots are composed and shifted (R30, R38). -/
def visibleLine (n : Nat) (s : State) : State :=
  let s1 := rowEvents n s
  { s1 with
    scan := { s1.scan with
      pos := .visible n, lsel := BitVec.ofNat 7 n, part := .activeDots, dots := s1.dotsOfLine n } }

/-- A line start (R25, R30, R39): the next blank line, visible line 0 after the last blank line, or the next visible line
after the blank dots of the line before. At any other time none is due (log entry 4). -/
def lineStart (s : State) : State :=
  match s.scan.pos with
  | .none => s
  | .vblank n =>
    if n + 1 < s.scan.cfg.vblank.toNat then { s with scan := { s.scan with pos := .vblank (n + 1) } }
    else visibleLine 0 s
  | .visible n =>
    if s.scan.part = .blankDots ∧ n + 1 < s.scan.cfg.vislines.toNat then visibleLine (n + 1) s else s

/-- The end of the active dots of a visible line: the LATCH pulse hands the line to the panel and BLANK# goes low (R38). -/
def endActiveDots (s : State) : State :=
  if s.scan.part = .activeDots then
    { s with
      scan := { s.scan with part := .blankDots, latched := some { line := s.scan.lsel, dots := s.scan.dots } } }
  else s

/-- Enable (R23): the loader rests, buffer 0 is loading, and a frame starts at once. -/
def enableDisplay (s : State) : State :=
  openFrame
    { s with
      scan := { s.scan with enabled := true }
      rows := { s.rows with loader := .resting, work := none, loadingIs1 := false } }

/-- What disable and DISPLAY RESET share (R24, R37): the frame ends, the loader stops, the buffers are emptied, the outputs
go to their disabled levels and the display map is copied. -/
def stopDisplay (s : State) : State :=
  let s1 := loaderStops s
  arrayGrant (copyUnlessStarting
    { s1 with
      scan := { s1.scan with enabled := false, pos := .none, rowStart := none, part := .off, lsel := 0, dots := [] } })

/-- Disable (R24): a pending swap is carried out (R18). -/
def disableDisplay (s : State) : State := stopDisplay (swapIfPending s)

/-- A write of DISPCTL (R23, R24): a write that changes nothing raises nothing. -/
def writeDispctl (v : Byte) (s : State) : State :=
  if v.getLsbD 0 then (if s.scan.enabled then s else enableDisplay s)
  else (if s.scan.enabled then disableDisplay s else s)

/-- The display side of DISPLAY RESET, less the window and the mover (R18, R37). -/
def resetDisplaySide (s : State) : State :=
  let s1 := stopDisplay s
  { s1 with
    scan := { s1.scan with
      headact := 0xFF, swapPending := false, framecnt := 0, latecnt := 0, rowmarkidx := 0, listCode := .none
      listIndex := 0, blinkCount := 0, blinkOn := true } }

end Sys2Proof.Machine
end

