-- ==== Sys2Proof/Machine/Operands.lean ====
section
/-! DEFINITION. The numeric codes of states, kinds and errors in the layout tables of chapter 11, and the forms in which a
store command and a service record give their operands (R119, R120, R158, R159). -/

namespace Sys2Proof.Machine

/-- The error codes of results and N replies. -/
def ErrCode.code : ErrCode → Byte
  | .none => 0x00 | .badKind => 0x01 | .badLogical => 0x02 | .badIndex => 0x03 | .badCode => 0x04
  | .stagingBusy => 0x05 | .noStaging => 0x06 | .cloneLate => 0x07 | .alreadyWritten => 0x08 | .noSpare => 0x09
  | .eraseFailed => 0x0A | .programFailed => 0x0B | .mapWriteFailed => 0x0C | .supplyLow => 0x0D
  | .badLength => 0x20 | .badCheck => 0x21 | .timeout => 0x22 | .queueFull => 0x23 | .queueHalted => 0x24
  | .stagingOpen => 0x25

/-- OUTCOME (layout of space 6). -/
def CmdOutcome.code : CmdOutcome → Byte
  | .done => 0 | .failed => 1 | .aborted => 2

/-- MVSTATE (layout of space 0). -/
def MvState.code : MvState → Byte
  | .idle => 0 | .running => 1 | .complete => 2 | .aborted => 3

/-- The code of LISTFLT (layout of space 0). -/
def ListCode.code : ListCode → Byte
  | .none => 0 | .badField => 1 | .badLink => 2

/-- A role in the low three bits of a bank entry's first byte (layout of space 7). -/
def Role.code : Role → Byte
  | .unset => 0 | .mapped _ => 1 | .spareClean => 2 | .spareDirty => 3 | .spareDraining => 4 | .staging => 5
  | .retired => 6

/-- The engine state (layout of space 7). -/
def Engine.code : Engine → Byte
  | .starting => 0 | .idle => 1 | .running => 2 | .waiting => 3 | .halted => 4

/-- The wait reason (layout of space 7). -/
def WaitReason.code : WaitReason → Byte
  | .none => 0 | .resultSpace => 1 | .draining => 2

/-- The loader state (layout of space 7). -/
def SvcState.code : SvcState → Byte
  | .sync => 0 | .confirm => 1 | .ready => 2 | .receiving => 3 | .executing => 4 | .closing => 5

/-- A map area (layout of space 7). -/
def Area.code : Area → Byte
  | .a => 0 | .b => 1

/-- The submitter bit (layout of space 6). -/
def Submitter.isLoader : Submitter → Bool
  | .host => false
  | .loader => true

/-- A bank number, or FFH for none. -/
def physCode : Option Bank → Byte
  | some b => BitVec.ofNat 8 b.val
  | none => 0xFF

/-- SKIPMASK from its eight bytes, least significant first (layout of space 5). -/
def skipMask (l : List Byte) : BitVec 64 := BitVec.ofNat 64 (natOfBytes (l.take 8))

/-- The bytes of the composition space from one place on. -/
def Store.compBytes (st : Store) (k n : Nat) : List Byte := (st.comp.toList.drop k).take n

/-- The fields that the composed command's kind uses, copied as they stand (R119, R120). -/
def Store.composed (st : Store) : CmdBody :=
  match (byteAt st.comp.toList 0).toNat with
  | 1 => .stageBank (byteAt st.comp.toList 1)
  | 2 => .clone (skipMask (st.compBytes 5 8))
  | 3 => .program (byteAt st.comp.toList 2) (st.compBytes 13 16)
  | 4 => .commit
  | 5 => .abandon
  | 6 => .scrub
  | 7 => .readGlyph (word16 (byteAt st.comp.toList 4) (byteAt st.comp.toList 3))
  | 8 => .check (byteAt st.comp.toList 1)
  | _ => .unknown

/-- The length of the payload of a record kind, for the seven kinds (R158). -/
def recordLength (kind : Byte) : Option Nat :=
  match kind.toNat with
  | 0x42 => some 1
  | 0x43 => some 8
  | 0x47 => some 17
  | 0x4D => some 0
  | 0x41 => some 0
  | 0x51 => some 0
  | 0x45 => some 0
  | _ => none

/-- The record that a kind and its payload make (R158); a kind that is none of the others is E. -/
def recordOf (kind : Byte) (payload : List Byte) : Record :=
  match kind.toNat with
  | 0x42 => .b (byteAt payload 0)
  | 0x43 => .c (skipMask payload)
  | 0x47 => .g (byteAt payload 0) (payload.drop 1)
  | 0x4D => .m
  | 0x41 => .a
  | 0x51 => .q
  | _ => .e

/-- The store command of a store record: KIND of the composition area, and the fields (R160). Q and E carry none. -/
def Record.command : Record → Option (Byte × CmdBody)
  | .b l => some (1, .stageBank l)
  | .c skip => some (2, .clone skip)
  | .g i image => some (3, .program i image)
  | .m => some (4, .commit)
  | .a => some (5, .abandon)
  | .q => none
  | .e => none

end Sys2Proof.Machine
end

