-- ==== Sys2Proof/Machine/Journal.lean ====
section
/-! DEFINITION. Map records, the classes of record slots, and what the start-up scan builds (R141, R142, R149 to R151). -/

namespace Sys2Proof.Machine

/-- The seven bytes of a map: the lower logical bank in the low four bits (layout of a map record slot). -/
def mapBytes (m : Vector Bank 14) : List Byte :=
  (List.range 7).map fun k =>
    BitVec.ofNat 8 ((m.toList.getD (2 * k) 0).val + 16 * (m.toList.getD (2 * k + 1) 0).val)

/-- The first twelve bytes of a record: generation, map, retired mask (R141). -/
def recordFields (r : MapRecord) : List Byte := bytesOf r.generation 3 ++ mapBytes r.map ++ bytesOf r.mask 2

/-- The sum, modulo 65,536, of bytes taken as numbers 0 to 255 (R141). -/
def checkSum (l : List Byte) : Word16 := BitVec.ofNat 16 ((l.map BitVec.toNat).foldl (· + ·) 0)

/-- The 16 bytes of a record with this completion marker. The check counts the pad as 255 and the marker as 0 (R141). -/
def recordBytes (r : MapRecord) (marker : Byte) : List Byte :=
  recordFields r ++ bytesOf (checkSum (recordFields r ++ [0xFF, 0x00])) 2 ++ [0xFF, marker]

/-- The map in the bytes of a slot (layout of a map record slot). -/
def mapOfSlot (l : List Byte) : Vector Bank 14 :=
  ⟨⟨(List.range 14).map fun i => Fin.ofNat 16 ((byteAt l (3 + i / 2)).toNat / (if i % 2 = 0 then 1 else 16))⟩, by simp⟩

/-- The record in the bytes of a slot. -/
def recordOfSlot (l : List Byte) : MapRecord :=
  { generation := BitVec.ofNat 24 (natOfBytes (l.take 3)), map := mapOfSlot l, mask := word16 (byteAt l 11) (byteAt l 10) }

/-- A slot's bytes read as a valid record (R142). -/
def slotValid (l : List Byte) : Bool :=
  let r := recordOfSlot l
  decide (byteAt l 15 = 0) && decide (byteAt l 14 = 0xFF) &&
    decide (word16 (byteAt l 13) (byteAt l 12) = checkSum (l.take 12 ++ (l.drop 14).take 2)) &&
    decide (r.generation ≠ 0) && decide r.map.toList.Nodup && r.map.toList.all fun b => !r.mask.getLsbD b.val

/-- The class of a slot (R142). -/
def classify (l : List Byte) : SlotClass :=
  if l.all fun v => decide (v = 0xFF) then .erased
  else if slotValid l then .valid (recordOfSlot l)
  else .spoiled

/-- The count of a valid header: its second pair of bytes holds the complement of its first (R104, R150). -/
def headerCount (l : List Byte) : Option Word16 :=
  let c := word16 (byteAt l 1) (byteAt l 0)
  if word16 (byteAt l 3) (byteAt l 2) = ~~~c then some c else none

/-- The four bytes of a header (R104). -/
def headerBytes (c : Word16) : List Byte := bytesOf c 2 ++ bytesOf (~~~c) 2

/-- The count a bank takes at a successful erase (R112). -/
def nextCount (c : Word16) : Word16 := if c = 65535 then 65535 else c + 1

/-- The valid record with the highest generation, with its place in reading order; of equals, the one read first (R149). -/
def bestRecord : Nat → List SlotClass → Option (Nat × MapRecord)
  | _, [] => none
  | n, c :: rest =>
    match c, bestRecord (n + 1) rest with
    | .valid r, some (m, q) => if r.generation < q.generation then some (m, q) else some (n, r)
    | .valid r, none => some (n, r)
    | _, found => found

/-- The area of a slot by its place in reading order: area A slots 0 to 7, then area B slots 0 to 7 (R149). -/
def areaOf (n : Nat) : Area := if n < 8 then .a else .b

/-- The first slot after the adopted one, in its area, that read as erased (R151). -/
def nextErased (slots : List SlotClass) (n : Nat) : Option (Fin 8) :=
  ((List.range 8).find? fun k =>
    decide (n % 8 < k) && decide (slots.getD (8 * (n / 8) + k) .spoiled = .erased)).map (Fin.ofNat 8)

/-- The identity map: logical bank i in physical bank i (R151). -/
def identityMap : Vector Bank 14 := ⟨⟨(List.range 14).map (Fin.ofNat 16)⟩, by simp⟩

/-- The logical bank that a map puts in a physical bank, if any. -/
def homeOf (m : Vector Bank 14) (b : Nat) : Option Logical :=
  ((List.range 14).find? fun l => decide ((m.toList.getD l 0).val = b)).map (Fin.ofNat 14)

/-- The role the scan gives a bank (R150). -/
def scannedRole (m : Vector Bank 14) (mask : Word16) (b : Nat) : Role :=
  match homeOf m b with
  | some l => .mapped l
  | none => if mask.getLsbD b then .retired else .spareDirty

/-- The largest count found in any valid header, 0 when there is none (R150). -/
def largestCount (headers : List (Option Word16)) : Word16 :=
  headers.foldl (fun best h => match h with
    | some c => if best < c then c else best
    | none => best) 0

/-- The bank role table that the scan builds (R150). -/
def scannedRoles (m : Vector Bank 14) (mask : Word16) (headers : List (Option Word16)) : Vector BankEntry 16 :=
  ⟨⟨(List.range 16).map fun b =>
    { role := scannedRole m mask b
      count := (headers.getD b none).getD (largestCount headers)
      estimated := (headers.getD b none).isNone }⟩, by simp⟩

/-- The record that the default stands for: the identity map, no bank retired, generation 0 (R151). -/
def defaultRecord : MapRecord := { generation := 0, map := identityMap, mask := 0 }

/-- The journal position that the scan sets (R151). -/
def scannedJournal (slots : List SlotClass) : Journal :=
  match bestRecord 0 slots with
  | some (n, r) =>
    { active := areaOf n, next := nextErased slots n, latest := some (areaOf n, Fin.ofNat 8 n)
      generation := r.generation, retiredMask := r.mask }
  | none => { active := .a, next := none, latest := none, generation := 0, retiredMask := 0 }

/-- The record that the scan adopts, or the default (R149, R151). -/
def adoptedRecord (slots : List SlotClass) : MapRecord :=
  match bestRecord 0 slots with
  | some (_, r) => r
  | none => defaultRecord

/-- What the scan reads next: the 16 record slots, then the 16 headers (R149, R150). -/
def ScanProgress.nextUnit (p : ScanProgress) : Option ArrUnit :=
  if p.slots.length < 16 then some (.slot (areaOf p.slots.length) (p.slots.length % 8))
  else if p.headers.length < 16 then some (.header (Fin.ofNat 16 p.headers.length))
  else none

/-- The scan takes the bytes of what it has just read. -/
def ScanProgress.take (p : ScanProgress) (l : List Byte) : ScanProgress :=
  if p.slots.length < 16 then { p with slots := p.slots ++ [classify l] }
  else { p with headers := p.headers ++ [headerCount l] }

/-- The slot after a slot, or NONE after slot 7 (R145, R146). -/
def slotAfter (n : Fin 8) : Option (Fin 8) := if n.val < 7 then some (Fin.ofNat 8 (n.val + 1)) else none

/-- The area that a map write erases when the active area has no slot left: the one that does not hold the latest record,
and area A when there is none (R144). -/
def Journal.areaToErase (j : Journal) : Area :=
  match j.latest with
  | some (.a, _) => .b
  | some (.b, _) => .a
  | none => .a

end Sys2Proof.Machine
end

