-- ==== Sys2Proof/Machine/Transmitter.lean ====
section
/-! DEFINITION. Replies and the transmitter of the service load port, and the acknowledgement of a halt (R137, R156, R160,
R163, R164). -/

namespace Sys2Proof.Machine

/-- ACK HALT: in HALTED the engine becomes IDLE, and in any other state nothing happens (R137). -/
def ackHalt (s : State) : State :=
  if s.store.engine = .halted then { s with store := { s.store with engine := .idle, wait := .none } } else s

/-- The flags byte of a reply (R163). -/
def replyFlags (dropped lost : Bool) : Byte := putBit (putBit 0 0 dropped) 1 lost

/-- The characters of a reply: 7EH, the letter, LENGTH, the payload with its flags byte, and the check byte that makes the
sum 00H (R163). -/
def replyBytes (letter : Byte) (payload : List Byte) (flags : Byte) : List Byte :=
  let full := payload ++ [flags]
  let len : Byte := BitVec.ofNat 8 full.length
  [0x7E, letter, len] ++ full ++ [0 - (letter + len + byteSum full)]

/-- The transmitter begins to send an item; a reply carries both notes and clears them (R156, R163). -/
def beginSend (it : TxItem) (v : Service) : Service :=
  match it with
  | .ready => { v with sending := some { item := it, bytes := [0x3C] } }
  | .reply letter payload _ _ =>
    { v with
      sending := some { item := it, bytes := replyBytes letter payload (replyFlags v.inputDropped v.replyLost) }
      inputDropped := false, replyLost := false }

/-- Whether the sending, or the dropping, of an item acknowledges the halt (R160). -/
def TxItem.acks : TxItem → Bool
  | .ready => false
  | .reply _ _ acksHalt _ => acksHalt

/-- Whether the sending of an item ends service mode (R164). -/
def TxItem.ends : TxItem → Bool
  | .ready => false
  | .reply _ _ _ closes => closes

/-- An item falls due: it begins at once, or waits, or is not sent and the reply-lost note is set (R156). An N reply that
is not sent acknowledges the halt at that moment (R160). -/
def queueItem (it : TxItem) (s : State) : State :=
  match s.svc.sending, s.svc.waiting with
  | none, _ => { s with svc := beginSend it s.svc }
  | some _, none => { s with svc := { s.svc with waiting := some it } }
  | some _, some _ =>
    let s1 := { s with svc := { s.svc with replyLost := true } }
    if it.acks then ackHalt s1 else s1

/-- An N reply falls due: its code is written into last error, whether or not it is then sent (R163). -/
def queueN (e : ErrCode) (acksHalt : Bool) (s : State) : State :=
  queueItem (.reply 0x4E [e.code] acksHalt false) { s with svc := { s.svc with lastError := e } }

/-- A K reply falls due (R163). -/
def queueK (payload : List Byte) (closes : Bool) (s : State) : State := queueItem (.reply 0x4B payload false closes) s

/-- The end of service mode (R164). -/
def endService (s : State) : State :=
  raise .service { s with part := { s.part with service := false }, store := { s.store with owner := .host } }

/-- What the end of an item does beyond freeing the transmitter (R157, R160, R164). The end of a ready
character in CONFIRM starts the confirm timer, unless another ready character still waits (log entry 11). That it may be the
character of an earlier CONFIRM, still sent after a byte ended that CONFIRM, and starts the timer of a later one whose own character
was lost, is the model's choice, on which R157 is silent (DESIGN CHOICE, log entry 25). -/
def itemSent (it : TxItem) (s : State) : State :=
  match it with
  | .ready =>
    if s.svc.state = .confirm ∧ s.svc.waiting ≠ some .ready then
      { s with svc := { s.svc with confirmTimer := true } }
    else s
  | .reply _ _ acksHalt closes =>
    let s1 := if acksHalt then ackHalt s else s
    if closes ∧ s1.svc.state = .closing then endService s1 else s1

/-- The transmitter takes up the reply that waits (R156). -/
def sendWaiting (s : State) : State :=
  match s.svc.waiting with
  | some it => { s with svc := beginSend it { s.svc with waiting := none } }
  | none => s

/-- The last stop bit of what was being sent has been sent (R156). -/
def transmissionEnd (s : State) : State :=
  match s.svc.sending with
  | none => s
  | some t => sendWaiting (itemSent t.item { s with svc := { s.svc with sending := none } })

/-- A break discards the reply that waits; an N reply so dropped acknowledges the halt at that moment (R160, R162). -/
def discardWaiting (s : State) : State :=
  match s.svc.waiting with
  | none => s
  | some it =>
    let s1 := { s with svc := { s.svc with waiting := none } }
    if it.acks then ackHalt s1 else s1

end Sys2Proof.Machine
end

