-- ==== Sys2Proof/Machine/StoreQueue.lean ====
section
/-! DEFINITION. The command queue and the results queue: submission, start, push, failure, abort, POP, and the removal of a
result by the loader (R118 to R124, R136 to R138, R160). -/

namespace Sys2Proof.Machine

/-- QSPACE is set when the queue held 4 entries and loses one or more (R121). -/
def qspaceFrom (old : List CmdEntry) (s : State) : State := if old.length = 4 then raise .qspace s else s

/-- A command entry as it starts: in flight, with its checks still to be made (R122). -/
def InFlight.ofEntry (e : CmdEntry) : InFlight :=
  { entry := e, stage := .fresh, prog := none, erase := none, mapw := none }

/-- A moment at which a start is made (R122): the head command starts when the results queue has a free place; with none
the engine waits for RESULT_SPACE, and with an empty queue it is IDLE. Nothing starts while a command is in flight. -/
def startHead (s : State) : State :=
  match s.store.inFlight, s.store.queue with
  | some _, _ => s
  | none, [] => { s with store := { s.store with engine := .idle, wait := .none } }
  | none, e :: rest =>
    if s.store.results.length < 4 then
      qspaceFrom s.store.queue
        { s with
          store := { s.store with
            engine := .running, wait := .none, queue := rest, inFlight := some (InFlight.ofEntry e) } }
    else { s with store := { s.store with engine := .waiting, wait := .resultSpace } }

/-- A start is due in the engine states IDLE and WAITING for RESULT_SPACE (R120, R122, R124). -/
def State.startDue (s : State) : Bool :=
  s.store.engine = .idle || (s.store.engine = .waiting && s.store.wait = .resultSpace)

/-- The start of the head command when one is due (R122). -/
def startIfDue (s : State) : State := if s.startDue then startHead s else s

/-- Why a submission is refused, in the order of the checks (R120). -/
def State.submitRefusal (s : State) (who : Submitter) : Option WinFault :=
  if s.store.owner ≠ who then some .portOwned
  else if s.store.engine = .halted then some .queueHalted
  else if 4 ≤ s.store.queue.length then some .queueFull
  else none

/-- An accepted submission: a command entry at the tail of the queue, the sequence counter stepped, SEQ shown to the host,
and the head started when that is due (R120, R122). -/
def enqueue (who : Submitter) (kind : Byte) (body : CmdBody) (s : State) : State :=
  startIfDue
    { s with
      store := { s.store with
        queue := s.store.queue ++ [{ kind := kind, seq := s.store.seq, submitter := who, body := body }]
        seq := s.store.seq + 1
        compSeq := if who = .host then s.store.seq else s.store.compSeq } }

/-- SUBMIT (R120): a refusal records its code in WINFAULT and changes nothing of the store engine. -/
def hostSubmit (s : State) : State :=
  match s.submitRefusal .host with
  | some c => refuse c s
  | none => enqueue .host (byteAt s.store.comp.toList 0) s.store.composed s

/-- POP RESULT (R124). -/
def popResult (s : State) : State :=
  match s.store.results with
  | [] => refuse .resultEmpty s
  | _ :: rest => startIfDue { s with store := { s.store with results := rest } }

/-- The entry of a bank in the bank role table. -/
def State.bankEntry (s : State) (b : Bank) : BankEntry := s.store.roles.get b

/-- The result record of the command in flight (R123). -/
def makeResult (s : State) (f : InFlight) (o : CmdOutcome) (e : ErrCode) (phys : Option Bank) (discarded : Nat)
    (detail checkval : Word16) (image : List Byte) : ResultRec :=
  { seq := f.entry.seq, kind := f.entry.kind, outcome := o, error := e, phys := phys, discarded := discarded
    detail := detail, checkval := checkval, generation := s.store.journal.generation
    eraseCount :=
      match phys with
      | some b => (s.bankEntry b).count
      | none => 0
    submitter := f.entry.submitter
    estimated :=
      match phys with
      | some b => (s.bankEntry b).estimated
      | none => false
    image := image }

/-- An IMAGE of 16 bytes of 00H (R123). -/
def noImage : List Byte := List.replicate 16 0

/-- A push: the record goes to the tail of the results queue, the held place is cleared and RESULT is set (R123). -/
def pushResult (r : ResultRec) (s : State) : State :=
  raise .result { s with store := { s.store with results := s.store.results ++ [r], inFlight := none } }

/-- The queue is discarded without results (R136, R138). -/
def discardQueue (s : State) : State := qspaceFrom s.store.queue { s with store := { s.store with queue := [] } }

/-- At the push of its outstanding command's result the loader removes the result and replies, or says nothing when the
command is SILENT; a SILENT failure acknowledges the halt at once (R160, R162). -/
def loaderTakes (r : ResultRec) (s : State) : State :=
  match s.svc.outstanding with
  | none => s
  | some (q, m) =>
    if r.submitter = .loader ∧ q = r.seq then
      let s1 := startIfDue
        { s with
          store := { s.store with results := s.store.results.dropLast }, svc := { s.svc with outstanding := none } }
      match m, r.outcome with
      | .silent, .failed => ackHalt s1
      | .silent, _ => s1
      | .reply, .done => queueK [] false { s1 with svc := { s1.svc with state := .ready } }
      | .reply, .failed => queueN r.error true { s1 with svc := { s1.svc with state := .ready } }
      | .reply, .aborted => { s1 with svc := { s1.svc with state := .ready } }
    else s

/-- The command in flight completes DONE (R122, R123). -/
def endDone (phys : Option Bank) (detail checkval : Word16) (image : List Byte) (s : State) : State :=
  match s.store.inFlight with
  | none => s
  | some f =>
    let r := makeResult s f .done .none phys 0 detail checkval image
    loaderTakes r (startHead (pushResult r s))

/-- The command in flight fails: its result is pushed, the queue is discarded and the engine halts (R123, R136). -/
def endFailed (e : ErrCode) (phys : Option Bank) (detail : Word16) (s : State) : State :=
  match s.store.inFlight with
  | none => s
  | some f =>
    let r := makeResult s f .failed e phys s.store.queue.length detail 0 noImage
    let s1 := discardQueue (pushResult r s)
    loaderTakes r (raise .halt { s1 with store := { s1.store with engine := .halted, wait := .none } })

/-- The command in flight ends ABORTED: its result is pushed, the queue is discarded and the engine becomes IDLE (R123,
R138). -/
def endAborted (phys : Option Bank) (s : State) : State :=
  match s.store.inFlight with
  | none => s
  | some f =>
    let r := makeResult s f .aborted .none phys s.store.queue.length 0 0 noImage
    let s1 := discardQueue (pushResult r s)
    { s1 with store := { s1.store with engine := .idle, wait := .none } }

end Sys2Proof.Machine
end

