-- ==== Sys2Proof/Machine/StoreOps.lean ====
section
/-! DEFINITION. The work of the store engine at the array port: program operations, erases, map writes, retirement, and
what a cut leaves (R110 to R115, R126 to R130, R138, R139, R144 to R148). -/

namespace Sys2Proof.Machine

/-- The state with the command in flight changed. -/
def State.withFlight (s : State) (f : InFlight → InFlight) : State :=
  { s with store := { s.store with inFlight := s.store.inFlight.map f } }

/-- The state with one bank's role changed. -/
def State.setRole (s : State) (b : Bank) (r : Role) : State :=
  { s with store := { s.store with roles := s.store.roles.set b.val { s.store.roles.get b with role := r } b.isLt } }

/-- The staging closes and its bank takes this role (R128, R129, R132, R138). -/
def closeStaging (r : Role) (s : State) : State :=
  match s.store.staging with
  | none => s
  | some g =>
    let s1 := s.setRole g.bank r
    { s1 with store := { s1.store with staging := none } }

/-- The physical bank of the open staging, if one is open. -/
def State.stagingBank (s : State) : Option Bank := s.store.staging.map Staging.bank

/-- The bank that the operation of a command in flight concerns (R123). -/
def State.concernedBank (s : State) : CmdStage → Option Bank
  | .fresh => none
  | .draining => none
  | .erasing b => some b
  | .retiring b _ => some b
  | .cloning _ _ => s.stagingBank
  | .programming => s.stagingBank
  | .committing => s.stagingBank
  | .reading b => some b
  | .summing b _ _ => some b

/-- The next slot moves past the slot that the map write is trying (R146). -/
def passSlot (m : MapOp) (s : State) : State :=
  { s with store := { s.store with journal := { s.store.journal with next := slotAfter m.slot } } }

/-- What a cut leaves of the journal: a slot on which a pulse has been given is spoiled and passed over; an area being
erased, or a slot on which no pulse has been given, changes nothing (R147, log entry 9). The bytes are left as the pulses
left them. A cut that falls after a completed pulse has moved the whole marker, in its verify read, leaves a slot that R147
calls spoiled and that R142 classes as valid; a later start-up goes by R142 (DESIGN CHOICE, log entry 22). -/
def cutMapWrite (f : InFlight) (s : State) : State :=
  match f.mapw, f.prog with
  | some m, some p => if m.stage ≠ .areaErase ∧ 1 ≤ p.pulses then passSlot m s else s
  | _, _ => s

/-- What a cut leaves of the banks, the staging and the journal, by what the command was doing (R138, R139). -/
def cutEffects (f : InFlight) (s : State) : State :=
  match f.stage with
  | .cloning _ _ => closeStaging .spareDirty s
  | .programming => closeStaging .spareDirty s
  | .committing => cutMapWrite f s
  | .retiring _ _ => cutMapWrite f s
  | .fresh => s
  | .draining => s
  | .erasing _ => s
  | .reading _ => s
  | .summing _ _ _ => s

/-- The low byte of DETAIL in the low byte and this high byte (R127, R130). -/
def detailOf (hi lo : Byte) : Word16 := word16 hi lo

/-- The operation in flight is cut by supply: the command fails with SUPPLY_LOW, or keeps ERASE_FAILED when a retirement's
map write was cut (R127, R139). -/
def cutBySupply (s : State) : State :=
  match s.store.inFlight with
  | none => s
  | some f =>
    match f.stage with
    | .retiring b cause => endFailed .eraseFailed (some b) (detailOf 1 cause) (cutEffects f s)
    | stage => endFailed .supplyLow (s.concernedBank stage) 0 (cutEffects f s)

/-- The point of presenting a pulse or sub-pulse: while LOWV# is asserted the operation is cut there (R114). -/
def presentPulse (r : StoreReq) (s : State) : State := if s.part.lowv then cutBySupply s else storeRequest r s

/-- The request that was put off is presented once the discarded read has completed (R107). -/
def presentDeferred (s : State) : State :=
  match s.store.deferred with
  | none => s
  | some r =>
    let s1 := { s with store := { s.store with deferred := none } }
    match r with
    | .read _ => storeRequest r s1
    | .pulse _ | .subPulse _ => presentPulse r s1

/-- The places of the bytes whose raw value differs from the target (R110). -/
def differing (raw target : List Byte) : List Nat :=
  (List.range target.length).filter fun k => decide (byteAt raw k ≠ byteAt target k)

/-- The bytes that a program operation begins with: those whose target is not FFH raw (R110). -/
def firstSet (target : List Byte) : List Nat := differing (List.replicate target.length 0xFF) target

/-- A program operation begins, with the pulses already used (R110, R145). Its set is not empty. With the twelve pulses used
up already it has reached its limit. -/
def startProg (u : ArrUnit) (target : List Byte) (pulses : Nat) (s : State) : State :=
  let p : ProgOp := { place := u, target := target, set := firstSet target, pulses := pulses, phase := .pulsing }
  if 12 ≤ pulses then s.withFlight fun f => { f with prog := some { p with phase := .limit } }
  else presentPulse (.pulse u) (s.withFlight fun f => { f with prog := some p })

/-- The program operations of a prewrite (R111): 64 glyphs and the header of a bank, or 8 slots of an area. -/
def EraseUnit.prewrites : EraseUnit → Nat
  | .bank _ => 65
  | .area _ => 8

/-- The unit of the prewrite's operation `k` (R111). -/
def EraseUnit.prewriteUnit : EraseUnit → Nat → ArrUnit
  | .bank b, k => if k < 64 then .glyph b k else .header b
  | .area ar, k => .slot ar k

/-- The prewrite's operation `k`: every byte's target is raw 00H (R111). -/
def startPrewrite (u : EraseUnit) (k : Nat) (s : State) : State :=
  startProg (u.prewriteUnit k) (List.replicate (u.prewriteUnit k).size 0) 0
    (s.withFlight fun f => { f with
      erase := some { target := u, stage := .prewrite k, pace := 0, given := 0 } })

/-- The sub-pulses of an erase of the latched PACE (R111, R113). -/
def budgetOf (pace : Byte) : Nat :=
  match pace.toNat with
  | 0 => 3200
  | 1 => 1600
  | 2 => 800
  | _ => 400

/-- The erase presents a sub-pulse (R111). -/
def startSubPulse (e : EraseOp) (s : State) : State :=
  presentPulse (.subPulse e.target) (s.withFlight fun f => { f with erase := some { e with stage := .subPulsing } })

/-- The erase enters its sub-pulse phase and latches PACE (R111, R113). -/
def enterSubPulses (e : EraseOp) (s : State) : State := startSubPulse { e with pace := s.ctl.pace, given := 0 } s

/-- The first operation of a slot: the whole record with the completion marker left at FFH (R145). -/
def startSlot (m : MapOp) (ar : Area) (n : Fin 8) (s : State) : State :=
  startProg (.slot ar n.val) (recordBytes { generation := m.generation, map := m.map, mask := m.mask } 0xFF) 0
    (s.withFlight fun f => { f with
      erase := none, mapw := some { m with stage := .body, area := ar, slot := n } })

/-- The second operation of a slot, with the pulse count the first left (R145). -/
def startMarker (m : MapOp) (pulses : Nat) (s : State) : State :=
  startProg (.slot m.area m.slot.val) (recordBytes { generation := m.generation, map := m.map, mask := m.mask } 0x00)
    pulses (s.withFlight fun f => { f with mapw := some { m with stage := .marker } })

/-- A map write ends as failed (R127, R130, R146). -/
def mapFails (detail : Word16) (s : State) : State :=
  match s.store.inFlight with
  | none => s
  | some f =>
    match f.stage with
    | .retiring b cause => endFailed .eraseFailed (some b) (detailOf 1 cause) s
    | _ => endFailed .mapWriteFailed s.stagingBank detail s

/-- The choice of a slot, which erases a map area first when the active area has none left (R144). -/
def chooseSlot (m : MapOp) (s : State) : State :=
  match s.store.journal.next with
  | some n => startSlot m s.store.journal.active n s
  | none =>
    let ar := s.store.journal.areaToErase
    startPrewrite (.area ar) 0
      (s.withFlight fun f => { f with mapw := some { m with stage := .areaErase, area := ar } })

/-- A map write begins, with the generation plus 1 (R144). It fails before any access when the generation cannot rise. -/
def startMapWrite (map : Vector Bank 14) (mask : Word16) (s : State) : State :=
  if s.store.journal.generation = 0xFFFFFF then mapFails 0xFFFF s
  else
    chooseSlot
      { stage := .body, area := .a, slot := 0, second := false, generation := s.store.journal.generation + 1
        map := map, mask := mask } s

/-- A slot failed: it is passed over, and one further slot is tried, or the map write fails (R146). -/
def slotFails (m : MapOp) (s : State) : State :=
  let s1 := passSlot m s
  if m.second then mapFails (detailOf m.area.code (BitVec.ofNat 8 m.slot.val)) s1
  else chooseSlot { m with second := true } (s1.withFlight fun f => { f with prog := none })

/-- What a successful COMMIT changes in one step (R130). The old bank drains while the display is enabled. With the display
disabled the store map is copied at the change (R99). -/
def commitChanges (g : Staging) (s : State) : State :=
  let old := s.store.storeMap.get g.target
  let s1 := (s.setRole old (if s.scan.enabled then .spareDraining else .spareDirty)).setRole g.bank (.mapped g.target)
  let s2 := { s1 with
    store := { s1.store with
      storeMap := s1.store.storeMap.set g.target.val g.bank g.target.isLt, staging := none } }
  if s.scan.enabled then s2 else copyStoreMap s2

/-- The journal after a successful map write (R145). -/
def Journal.written (j : Journal) (m : MapOp) : Journal :=
  { j with
    latest := some (m.area, m.slot), next := slotAfter m.slot, generation := m.generation, retiredMask := m.mask }

/-- A map write succeeds, and the caller makes its own changes (R127, R130, R145, R148). -/
def mapSucceeds (m : MapOp) (s : State) : State :=
  let s1 := { s with store := { s.store with journal := s.store.journal.written m } }
  match s.store.inFlight, s.store.staging with
  | some f, g =>
    match f.stage, g with
    | .retiring b cause, _ => endFailed .eraseFailed (some b) (detailOf 0 cause) s1
    | _, some g => endDone (some g.bank) (detailOf m.area.code (BitVec.ofNat 8 m.slot.val)) 0 noImage (commitChanges g s1)
    | _, none => s1
  | none, _ => s1

/-- The erase of a spare failed: the bank is retired, RETIRE is set, and a retirement's map write is made (R127, R148). -/
def retireBank (b : Bank) (cause : Byte) (s : State) : State :=
  let s1 := raise .retire (s.setRole b .retired)
  startMapWrite s.store.storeMap (setBit s.store.journal.retiredMask b.val)
    (s1.withFlight fun f => { f with stage := .retiring b cause, prog := none, erase := none })

/-- An erase fails (R111): a spare's leads to its retirement (R127), and a map area's ends the map write as failed, with
slot FFH (R146). `cause` is the low byte of DETAIL. -/
def eraseFails (e : EraseOp) (cause : Byte) (s : State) : State :=
  match e.target with
  | .bank b => retireBank b cause s
  | .area ar => mapFails (detailOf ar.code 0xFF) s

/-- BEGIN's bank becomes STAGING and the command completes; `pulses` is the number of sub-pulses its erase took (R126). -/
def openStaging (b : Bank) (l : Logical) (pulses : Nat) (s : State) : State :=
  let s1 := s.setRole b .staging
  endDone (some b) (BitVec.ofNat 16 pulses) 0 noImage
    { s1 with store := { s1.store with staging := some { bank := b, target := l, filling := false, written := 0 } } }

/-- The bank role table's entry takes the new count and its estimated mark clears (R112). -/
def countErase (b : Bank) (s : State) : State :=
  { s with
    store := { s.store with
      roles := s.store.roles.set b.val
        { s.store.roles.get b with count := nextCount (s.store.roles.get b).count, estimated := false } b.isLt } }

/-- The logical bank that a BEGIN names, when it is in range (R126). -/
def logicalOf (v : Byte) : Option Logical := if v.toNat ≤ 13 then some (Fin.ofNat 14 v.toNat) else none

/-- The erase of a spare is done: a BEGIN's bank becomes STAGING, a SCRUB's SPARE-CLEAN (R126, R133). -/
def bankErased (b : Bank) (e : EraseOp) (s : State) : State :=
  let s1 := countErase b s
  match s.store.inFlight with
  | none => s1
  | some f =>
    match f.entry.body with
    | .stageBank l =>
      match logicalOf l with
      | some t => openStaging b t e.given s1
      | none => s1
    | _ => endDone (some b) (BitVec.ofNat 16 e.given) 0 noImage (s1.setRole b .spareClean)

/-- The erase of a map area is done: it becomes the active area, and its slot 0 is chosen (R144). -/
def areaErased (ar : Area) (s : State) : State :=
  match s.store.inFlight.bind InFlight.mapw with
  | none => s
  | some m =>
    startSlot m ar 0
      { s with store := { s.store with journal := { s.store.journal with active := ar, next := some 0 } } }

/-- The erase verify of the whole unit completes (R111, R112). -/
def eraseVerified (e : EraseOp) (raw : List Byte) (s : State) : State :=
  if raw.all fun v => decide (v = 0xFF) then
    match e.target with
    | .bank b =>
      startProg (.header b) (headerBytes (nextCount (s.bankEntry b).count)) 0
        (s.withFlight fun f => { f with erase := some { e with stage := .header } })
    | .area ar => areaErased ar s
  else if e.given < budgetOf e.pace then startSubPulse e s
  else s.withFlight fun f => { f with erase := some { e with stage := .spent } }

/-- The first glyph index from `i` on that a mask does not skip (R128). -/
def nextUnskipped (skip : BitVec 64) (i : Nat) : Option Nat :=
  (List.range 64).find? fun k => decide (i ≤ k) && !skip.getLsbD k

/-- The mask of the CLONE in flight. -/
def InFlight.skip (f : InFlight) : BitVec 64 :=
  match f.entry.body with
  | .clone skip => skip
  | _ => 0

/-- CLONE goes on with the next index from `i` on, or completes when none is left (R128). -/
def cloneFrom (i total : Nat) (s : State) : State :=
  match s.store.inFlight, s.store.staging with
  | some f, some g =>
    match nextUnskipped f.skip i with
    | some k =>
      storeRequest (.read (.glyph (s.store.storeMap.get g.target) k))
        (s.withFlight fun f => { f with stage := .cloning k total, prog := none })
    | none => endDone (some g.bank) (BitVec.ofNat 16 total) 0 noImage s
  | _, _ => s

/-- A glyph index joins WRITTEN (R125). -/
def joinWritten (i : Nat) (s : State) : State :=
  { s with
    store := { s.store with staging := s.store.staging.map fun g => { g with written := setBit g.written i } } }

/-- A glyph of CLONE is done (R128). -/
def cloneDone (i total pulses : Nat) (s : State) : State := cloneFrom (i + 1) (total + pulses) (joinWritten i s)

/-- The glyph that PROGRAM writes. -/
def InFlight.index (f : InFlight) : Nat :=
  match f.entry.body with
  | .program i _ => i.toNat
  | _ => 0

/-- PROGRAM's operation is done (R129). -/
def programDone (pulses : Nat) (s : State) : State :=
  match s.store.inFlight with
  | none => s
  | some f => endDone s.stagingBank (BitVec.ofNat 16 pulses) 0 noImage (joinWritten f.index s)

/-- The writing of one glyph of the staging bank: a blank image is done with no pulse (R110, R128, R129). -/
def writeGlyph (b : Bank) (g : Nat) (raw : List Byte) (ifBlank : State → State) (s : State) : State :=
  if firstSet raw = [] then ifBlank s else startProg (.glyph b g) raw 0 s

/-- The read of a source glyph of CLONE completes: the image is programmed into the staging bank (R128). -/
def cloneProgram (i total : Nat) (raw : List Byte) (s : State) : State :=
  match s.store.staging with
  | none => s
  | some g => writeGlyph g.bank i raw (cloneDone i total 0) s

/-- A program operation of an erase is done (R111, R112). -/
def eraseProgDone (e : EraseOp) (s : State) : State :=
  match e.stage with
  | .prewrite k =>
    if k + 1 < e.target.prewrites then startPrewrite e.target (k + 1) s else enterSubPulses e s
  | .header =>
    match e.target with
    | .bank b => bankErased b e s
    | .area _ => s
  | .subPulsing => s
  | .verifying => s
  | .spent => s

/-- A program operation is done, and its caller goes on (R110). -/
def progDone (f : InFlight) (p : ProgOp) (s : State) : State :=
  let s1 := s.withFlight fun f => { f with prog := none }
  match f.erase, f.mapw with
  | some e, _ => eraseProgDone e s1
  | none, some m => if m.stage = .body then startMarker m p.pulses s1 else mapSucceeds m s1
  | none, none =>
    match f.stage with
    | .cloning i total => cloneDone i total p.pulses s1
    | _ => programDone p.pulses s1

/-- The verify read of a program operation completes (R110). -/
def progVerified (f : InFlight) (p : ProgOp) (raw : List Byte) (s : State) : State :=
  let left := differing raw p.target
  if left = [] then progDone f p s
  else if p.pulses < 12 then
    presentPulse (.pulse p.place)
      (s.withFlight fun f => { f with prog := some { p with set := left, phase := .pulsing } })
  else s.withFlight fun f => { f with prog := some { p with set := left, phase := .limit } }

/-- A program operation of an erase fails: `cause` names the glyph index, or 64 for the header (R111, R112, R127). -/
def eraseProgFails (e : EraseOp) (s : State) : State :=
  match e.stage with
  | .prewrite k => eraseFails e (BitVec.ofNat 8 k) s
  | .header => eraseFails e 64 s
  | .subPulsing => s
  | .verifying => s
  | .spent => s

/-- A program operation has failed at its pulse limit, and its caller deals with it (R110, R111, R128, R129, R146). -/
def progFails (f : InFlight) (s : State) : State :=
  match f.erase, f.mapw with
  | some e, _ => eraseProgFails e s
  | none, some m => slotFails m s
  | none, none =>
    match f.stage with
    | .cloning i _ => endFailed .programFailed s.stagingBank (BitVec.ofNat 16 i) (closeStaging .spareDirty s)
    | _ => endFailed .programFailed s.stagingBank (BitVec.ofNat 16 f.index) (closeStaging .spareDirty s)

end Sys2Proof.Machine
end

