-- ==== Sys2Proof/Machine/StoreCommands.lean ====
section
/-! DEFINITION. The store commands from their start, the completions that move them on, STORE ABORT, LOWV#, and the
start-up scan (R106, R110, R111, R114, R115, R117, R126 to R135, R138, R139, R149 to R152). -/

namespace Sys2Proof.Machine

/-! ## The choice of a spare -/

/-- The banks in ascending number. -/
def allBanks : List Bank := (List.range 16).map (Fin.ofNat 16)

/-- Of the banks with this role, the one with the lowest erase count, and of equals the lowest number (R117). -/
def lowestWith (v : Vector BankEntry 16) (r : Role) : Option Bank :=
  allBanks.foldl (fun best b =>
    if (v.get b).role = r then
      match best with
      | none => some b
      | some c => if (v.get b).count < (v.get c).count then some b else best
    else best) none

/-- Whether some bank is SPARE-DRAINING (R117). -/
def anyDraining (v : Vector BankEntry 16) : Bool := v.toList.any fun e => decide (e.role = .spareDraining)

/-- The outcomes of BEGIN's choice (R117, R126). -/
inductive SpareChoice where
  | clean (b : Bank)
  | dirty (b : Bank)
  | wait
  | noSpare
  deriving DecidableEq, Repr

/-- BEGIN's choice: a SPARE-CLEAN bank before a SPARE-DIRTY one (R117). -/
def chooseSpare (v : Vector BankEntry 16) : SpareChoice :=
  match lowestWith v .spareClean, lowestWith v .spareDirty with
  | some b, _ => .clean b
  | none, some b => .dirty b
  | none, none => if anyDraining v then .wait else .noSpare

/-! ## The commands -/

/-- The state with the engine's state and wait reason set. -/
def State.setEngine (s : State) (e : Engine) (w : WaitReason) : State :=
  { s with store := { s.store with engine := e, wait := w } }

/-- The erase of a chosen spare begins (R111, R126, R133). -/
def eraseSpare (b : Bank) (s : State) : State :=
  startPrewrite (.bank b) 0 (s.withFlight fun f => { f with stage := .erasing b })

/-- BEGIN's choice and what follows from it (R126). -/
def beginChoice (l : Logical) (s : State) : State :=
  match chooseSpare s.store.roles with
  | .clean b => openStaging b l 0 (s.setEngine .running .none)
  | .dirty b => eraseSpare b (s.setEngine .running .none)
  | .wait => (s.setEngine .waiting .draining).withFlight fun f => { f with stage := .draining }
  | .noSpare => endFailed .noSpare none 0 s

/-- The body of the command in flight that has started and not made its checks. -/
def State.freshBody (s : State) : Option CmdBody :=
  match s.store.inFlight with
  | some f => if f.stage = .fresh then some f.entry.body else none
  | none => none

/-- BEGIN (R126). -/
def stepBegin (s : State) : State :=
  match s.freshBody with
  | some (.stageBank v) =>
    match logicalOf v with
    | none => endFailed .badLogical none 0 s
    | some l => if s.store.staging.isSome then endFailed .stagingBusy none 0 s else beginChoice l s
  | _ => s

/-- The BEGIN that waits with reason DRAINING chooses again (R117, R126). -/
def stepChooseAgain (s : State) : State :=
  match s.store.inFlight with
  | some f =>
    match f.stage, f.entry.body with
    | .draining, .stageBank v =>
      match logicalOf v with
      | none => s
      | some l => beginChoice l s
    | _, _ => s
  | none => s

/-- The staging record with STATE FILLING (R128, R129). -/
def startFilling (s : State) : State :=
  { s with store := { s.store with staging := s.store.staging.map fun g => { g with filling := true } } }

/-- CLONE (R128). -/
def stepClone (s : State) : State :=
  match s.freshBody with
  | some (.clone _) =>
    match s.store.staging with
    | none => endFailed .noStaging none 0 s
    | some g => if g.filling then endFailed .cloneLate none 0 s else cloneFrom 0 0 (startFilling s)
  | _ => s

/-- The raw bytes that hold an image given in host polarity (R105). -/
def rawImage (image : List Byte) : List Byte := (List.range 16).map fun k => ~~~(byteAt image k)

/-- PROGRAM (R129). -/
def stepProgram (s : State) : State :=
  match s.freshBody with
  | some (.program i image) =>
    if 63 < i.toNat then endFailed .badIndex none 0 s
    else
      match s.store.staging with
      | none => endFailed .noStaging none 0 s
      | some g =>
        if g.written.getLsbD i.toNat then endFailed .alreadyWritten none 0 s
        else
          writeGlyph g.bank i.toNat (rawImage image) (programDone 0)
            ((startFilling s).withFlight fun f => { f with stage := .programming })
  | _ => s

/-- COMMIT (R130). -/
def stepCommit (s : State) : State :=
  match s.freshBody with
  | some .commit =>
    match s.store.staging with
    | none => endFailed .noStaging none 0 s
    | some g =>
      startMapWrite (s.store.storeMap.set g.target.val g.bank g.target.isLt) s.store.journal.retiredMask
        (s.withFlight fun f => { f with stage := .committing })
  | _ => s

/-- ABANDON (R132). -/
def stepAbandon (s : State) : State :=
  match s.freshBody with
  | some .abandon =>
    match s.store.staging with
    | none => endFailed .noStaging none 0 s
    | some g =>
      endDone (some g.bank) 0 0 noImage (closeStaging (if g.filling then .spareDirty else .spareClean) s)
  | _ => s

/-- SCRUB (R133). -/
def stepScrub (s : State) : State :=
  match s.freshBody with
  | some .scrub =>
    match lowestWith s.store.roles .spareDirty with
    | none => endDone none 0 0 noImage s
    | some b => eraseSpare b s
  | _ => s

/-- READGLYPH (R134). -/
def stepReadglyph (s : State) : State :=
  match s.freshBody with
  | some (.readGlyph code) =>
    if h : code.toNat / 64 < 14 then
      let b := s.store.storeMap.get ⟨code.toNat / 64, h⟩
      storeRequest (.read (.glyph b (code.toNat % 64))) (s.withFlight fun f => { f with stage := .reading b })
    else endFailed .badCode none 0 s
  | _ => s

/-- CHECK (R135). -/
def stepCheck (s : State) : State :=
  match s.freshBody with
  | some (.check v) =>
    match logicalOf v with
    | none => endFailed .badLogical none 0 s
    | some l =>
      let b := s.store.storeMap.get l
      storeRequest (.read (.glyph b 0)) (s.withFlight fun f => { f with stage := .summing b 0 0 })
  | _ => s

/-- A command of unknown KIND fails when it runs (R120). -/
def stepBadKind (s : State) : State :=
  match s.freshBody with
  | some .unknown => endFailed .badKind none 0 s
  | _ => s

/-! ## Completions at the array port -/

/-- The sum of bytes as little-endian 16-bit words, modulo 65,536 (R135). -/
def wordSum : List Byte → Word16
  | lo :: hi :: rest => word16 hi lo + wordSum rest
  | _ => 0

/-- A glyph read of CHECK completes (R135). -/
def checkRead (b : Bank) (i : Nat) (sum : Word16) (raw : List Byte) (s : State) : State :=
  let total := sum + wordSum (raw.map fun v => ~~~v)
  if i + 1 < 64 then
    storeRequest (.read (.glyph b (i + 1))) (s.withFlight fun f => { f with stage := .summing b (i + 1) total })
  else endDone (some b) 0 total noImage s

/-- A read of the command in flight completes (R106). -/
def flightRead (f : InFlight) (raw : List Byte) (s : State) : State :=
  match f.prog, f.erase, f.stage with
  | some p, _, _ => if p.phase = .verifying then progVerified f p raw s else s
  | none, some e, _ => if e.stage = .verifying then eraseVerified e raw s else s
  | none, none, .cloning i total => cloneProgram i total raw s
  | none, none, .reading b => endDone (some b) 0 0 (raw.map fun v => ~~~v) s
  | none, none, .summing b i sum => checkRead b i sum raw s
  | none, none, _ => s

/-- A read of the start-up scan completes, and the scan presents its next read (R149, R150). -/
def scanRead (p : ScanProgress) (raw : List Byte) (s : State) : State :=
  let q := p.take raw
  let s1 := { s with store := { s.store with scan := some q } }
  match q.nextUnit with
  | some u => storeRequest (.read u) s1
  | none => s1

/-- A store engine read completes and is delivered (R106). -/
def storeReadDone (raw : List Byte) (s : State) : State :=
  match s.store.scan, s.store.inFlight with
  | some p, _ => scanRead p raw s
  | none, some f => flightRead f raw s
  | none, none => s

/-- The read in progress at the array port completes and is delivered to its claimant; the arbiter makes the next grant
(R106, R108). A claimant that no longer wants it presents the request it had put off (R73, R107). -/
def arrayReadComplete (s : State) : State :=
  match s.arrPort.access with
  | some (.loader r abandoned) =>
    arrayGrant
      (if abandoned then loaderResumes (freeArrayPort s)
      else storeSlices (s.glyphSlices r.bank r.glyph r.first r.count) (freeArrayPort s))
  | some (.store (.read u) abandoned) =>
    arrayGrant (if abandoned then presentDeferred (freeArrayPort s) else storeReadDone (s.rawBytes u) (freeArrayPort s))
  | _ => s

/-- The program pulse in progress ends: its effect is complete, and a read of the whole unit is presented (R105, R110). -/
def programPulseComplete (s : State) : State :=
  match s.arrPort.access, s.progOp with
  | some (.store (.pulse u) _), some p =>
    storeRequest (.read u)
      ((freeArrayPort (pulseArray p s)).withFlight fun f => { f with prog := some { p with phase := .verifying } })
  | _, _ => s

/-- The erase operation of the command in flight, if one is running. -/
def State.eraseOp (s : State) : Option EraseOp := s.store.inFlight.bind InFlight.erase

/-- The sub-pulse in progress ends: its effect is complete, and an erase verify is presented (R105, R111). -/
def eraseSubpulseComplete (s : State) : State :=
  match s.arrPort.access, s.eraseOp with
  | some (.store (.subPulse u) _), some e =>
    storeRequest (.read (.whole u))
      ((freeArrayPort (subPulseArray u s)).withFlight fun f => { f with erase := some { e with stage := .verifying } })
  | _, _ => s

/-- The twelfth verify left bytes in the set, so the program operation fails (R110). -/
def pulseLimitReached (s : State) : State :=
  match s.store.inFlight with
  | some f =>
    match f.prog with
    | some p => if p.phase = .limit then progFails f s else s
    | none => s
  | none => s

/-- The verify after the whole budget found unerased bytes, so the erase fails (R111). -/
def subpulseBudgetSpent (s : State) : State :=
  match s.eraseOp with
  | some e => if e.stage = .spent then eraseFails e 0xFF s else s
  | none => s

/-! ## STORE ABORT and LOWV# -/

/-- The array port after STORE ABORT: a waiting store request is withdrawn, and a store read in progress completes with
its data discarded (R115). -/
def ArrayPort.storeLeaves (p : ArrayPort) : ArrayPort :=
  { p with
    storeWait := none
    access :=
      match p.access with
      | some (.store r _) => some (.store r true)
      | other => other }

/-- The command in flight is cut and pushed as ABORTED (R115, R138). -/
def abortFlight (s : State) : State :=
  let s1 := cutPulse s
  let s2 := { s1 with arrPort := s1.arrPort.storeLeaves, store := { s1.store with deferred := none } }
  match s2.store.inFlight with
  | none => (discardQueue s2).setEngine .idle .none
  | some f => endAborted (s.concernedBank f.stage) (cutEffects f s2)

/-- STORE ABORT (R138). -/
def storeAbort (s : State) : State :=
  match s.store.engine with
  | .starting => discardQueue s
  | .idle => s
  | .halted => s
  | .running => arrayGrant (abortFlight s)
  | .waiting =>
    match s.store.wait with
    | .draining => arrayGrant (abortFlight s)
    | _ => (discardQueue s).setEngine .idle .none

/-- The store engine's pulse or sub-pulse is in progress. -/
def State.pulseInProgress (s : State) : Bool :=
  match s.arrPort.access with
  | some (.store (.pulse _) _) => true
  | some (.store (.subPulse _) _) => true
  | _ => false

/-- A request is for a pulse or sub-pulse. -/
def StoreReq.isPulse : StoreReq → Bool
  | .read _ => false
  | .pulse _ => true
  | .subPulse _ => true

/-- The store engine's pulse or sub-pulse is waiting, at the arbiter or for the completion of a discarded read. -/
def State.pulseWaiting (s : State) : Bool :=
  s.arrPort.storeWait.any StoreReq.isPulse || s.store.deferred.any StoreReq.isPulse

/-- LOWV# becomes asserted (R114, R139). While RESET# is held the flag is left to the release (log entry 4). -/
def lowvAsserted (s : State) : State :=
  if s.part.lowv then s
  else
    let s1 := { s with part := { s.part with lowv := true } }
    if s.part.resetHeld then s1
    else
      let s2 := raise .lowv s1
      if s.pulseInProgress then arrayGrant (cutBySupply (cutPulse s2))
      else if s.pulseWaiting then
        cutBySupply { s2 with
          arrPort := { s2.arrPort with storeWait := none }, store := { s2.store with deferred := none } }
      else s2

/-- LOWV# returns high (R114). -/
def lowvReleased (s : State) : State := { s with part := { s.part with lowv := false } }

/-! ## The start-up scan -/

/-- The start-up scan begins with the read of its first slot (R149). -/
def beginScan (s : State) : State :=
  storeRequest (.read (.slot .a 0)) { s with store := { s.store with scan := some { slots := [], headers := [] } } }

/-- Everything that the scan has built takes effect, the display map is copied, and the engine leaves STARTING (R152). -/
def finishScan (p : ScanProgress) (s : State) : State :=
  let r := adoptedRecord p.slots
  let s1 := copyStoreMap
    { s with
      store := { s.store with
        storeMap := r.map, roles := scannedRoles r.map r.mask p.headers, journal := scannedJournal p.slots
        staging := none, scan := none, engine := .idle, wait := .none } }
  let s2 := raise .startDone (startHead s1)
  match bestRecord 0 p.slots with
  | some _ => s2
  | none => raise .mapDefault s2

/-- The scan when every slot and every header has been read. -/
def State.scanOver (s : State) : Option ScanProgress :=
  match s.store.scan with
  | some p => if p.nextUnit = none then some p else none
  | none => none

end Sys2Proof.Machine
end

