-- ==== Sys2Proof/Machine/ServicePort.lean ====
section
/-! DEFINITION. The service load port: measuring, receiving, judging and acting on records, breaks and timeouts (R153 to
R164). -/

namespace Sys2Proof.Machine

/-- The state with the service load port changed. -/
def State.withSvc (s : State) (f : Service → Service) : State := { s with svc := f s.svc }

/-- A low run qualifies as a sync character (R155). -/
def runQualifies (n : Nat) : Bool := decide (695 ≤ n) && decide (n ≤ 33333)

/-- Two runs differ by no more than one sixteenth of the first (R155). -/
def runsMatch (m n : Nat) : Bool := decide (16 * (n - m) ≤ m) && decide (16 * (m - n) ≤ m)

/-- A low run has been measured; only SYNC measures (R155). -/
def lowRun (n : Nat) (s : State) : State :=
  if s.svc.state = .sync then
    if runQualifies n then
      match s.svc.firstRun with
      | none => s.withSvc fun v => { v with firstRun := some n }
      | some m =>
        if runsMatch m n then
          queueItem .ready
            (s.withSvc fun v => { v with divisor := (m + n) / 10, firstRun := none, state := .confirm, confirmTimer := false })
        else s.withSvc fun v => { v with firstRun := some n }
    else s.withSvc fun v => { v with firstRun := none }
  else s

/-- The loader returns from CONFIRM to SYNC (R157). A ready character that still waits stays at the transmitter and is sent from
SYNC, which is the model's choice (DESIGN CHOICE, log entry 25). -/
def backToSync (s : State) : State := s.withSvc fun v => { v with state := .sync, confirmTimer := false }

/-- A record is refused: an N reply, the count of records refused, and READY (R158, R159). -/
def refuseRecord (e : ErrCode) (s : State) : State :=
  queueN e false
    (s.withSvc fun v => { v with state := .ready, byteTimer := false, buffer := [], refused := v.refused + 1 })

/-- A record is accepted: it is counted, EXECUTING is entered, and the record is to be acted on, or held behind a SILENT
command (R159, R160). -/
def acceptRecord (r : Record) (s : State) : State :=
  s.withSvc fun v =>
    let w := { v with state := .executing, byteTimer := false, buffer := [], accepted := v.accepted + 1 }
    match v.outstanding with
    | some (_, .silent) => { w with held := some r }
    | _ => { w with due := some r }

/-- The checks of a complete record, in their order (R159). `l` is KIND, LENGTH, payload, CHECK. -/
def judgeRecord (l : List Byte) (s : State) : State :=
  if byteSum l ≠ 0 then refuseRecord .badCheck s
  else
    match recordLength (byteAt l 0) with
    | none => refuseRecord .badKind s
    | some n =>
      if (byteAt l 1).toNat = n then acceptRecord (recordOf (byteAt l 0) ((l.drop 2).take n)) s
      else refuseRecord .badLength s

/-- A byte received in RECEIVING is stored in turn (R158). -/
def storeByte (b : Byte) (s : State) : State :=
  let l := s.svc.buffer ++ [b]
  let s1 := s.withSvc fun v => { v with buffer := l, byteTimer := true }
  if l.length = 2 ∧ 17 < b.toNat then refuseRecord .badLength s1
  else if 2 ≤ l.length ∧ l.length = (byteAt l 1).toNat + 3 then judgeRecord l s1
  else s1

/-- A received byte, taken by the loader's state (R156 to R158, R161). SYNC and CLOSING receive no characters. In EXECUTING every
discarded byte sets the input-dropped note. R161 sets it at the first such byte; that a later byte of the same EXECUTING sets it
again, when a reply that waited has begun and cleared it, is the model's choice (DESIGN CHOICE, log entry 24). -/
def byteReceived (b : Byte) (s : State) : State :=
  match s.svc.state with
  | .sync => s
  | .closing => s
  | .confirm =>
    if s.svc.confirmTimer ∧ b = 0xA5 then
      raise .service (s.withSvc fun v => { v with state := .ready, confirmTimer := false })
    else backToSync s
  | .ready =>
    if b = 0x7E then s.withSvc fun v => { v with state := .receiving, buffer := [], byteTimer := true } else s
  | .receiving => storeByte b s
  | .executing => s.withSvc fun v => { v with inputDropped := true }

/-- A framing error: in CONFIRM the loader returns to SYNC, elsewhere the character is discarded (R156, R157, R161). -/
def framingError (s : State) : State := if s.svc.state = .confirm then backToSync s else s

/-- The inter-byte timer reaches 100 ms (R158). -/
def interByteTimeout (s : State) : State :=
  if s.svc.state = .receiving ∧ s.svc.byteTimer then refuseRecord .timeout s else s

/-- The confirm timer reaches 1 s (R157). -/
def confirmTimeout (s : State) : State :=
  if s.svc.state = .confirm ∧ s.svc.confirmTimer then backToSync s else s

/-- How many banks have a role. -/
def countRole (v : Vector BankEntry 16) (r : Role) : Nat := (v.toList.filter fun e => decide (e.role = r)).length

/-- The mask of banks whose role is RETIRED (R163). -/
def retiredRoles (v : Vector BankEntry 16) : Word16 :=
  (List.range 16).foldl
    (fun m b => if (v.get (Fin.ofNat 16 b)).role = .retired then setBit m b else m) (0 : Word16)

/-- The code of the staging STATE: 0 NONE, 1 ERASED, 2 FILLING (layout of space 7). -/
def stagingCode : Option Staging → Byte
  | none => 0
  | some g => if g.filling then 2 else 1

/-- TARGET, or FFH with STATE NONE (R125). -/
def targetCode : Option Staging → Byte
  | none => 0xFF
  | some g => BitVec.ofNat 8 g.target.val

/-- The status payload of a Q reply, less its flags byte (R163). -/
def statusPayload (st : Store) : List Byte :=
  bytesOf st.journal.generation 3 ++
    [BitVec.ofNat 8 (countRole st.roles .spareClean), BitVec.ofNat 8 (countRole st.roles .spareDirty)] ++
    bytesOf (retiredRoles st.roles) 2 ++ [stagingCode st.staging, targetCode st.staging]

/-- The loader is in READY. -/
def toReady (s : State) : State := s.withSvc fun v => { v with state := .ready }

/-- The answer to a Q record (R160, R163). -/
def answerQ (s : State) : State := queueK (statusPayload s.store) false (toReady s)

/-- The answer to an E record (R160, R164). -/
def answerE (s : State) : State :=
  if s.store.staging.isSome then queueN .stagingOpen false (toReady s)
  else queueK [] true (s.withSvc fun v => { v with state := .closing })

/-- A store record submits its command as the loader (R120, R160). -/
def submitRecord (kind : Byte) (body : CmdBody) (s : State) : State :=
  match s.submitRefusal .loader with
  | none => enqueue .loader kind body (s.withSvc fun v => { v with outstanding := some (s.store.seq, .reply) })
  | some .queueFull => queueN .queueFull false (toReady s)
  | some .queueHalted => queueN .queueHalted false (toReady s)
  | some _ => toReady s

/-- An accepted record is acted on (R160). Q and E wait for the end of start-up. -/
def actRecord (r : Record) (s : State) : State :=
  match r.command with
  | some (kind, body) => submitRecord kind body s
  | none =>
    if s.store.engine = .starting then s.withSvc fun v => { v with startupWait := some r }
    else
      match r with
      | .q => answerQ s
      | _ => answerE s

/-- The accepted record is acted on when it is of the kind that a row names (R160). -/
def actDue (isKind : Record → Bool) (s : State) : State :=
  match s.svc.due with
  | some r => if isKind r then actRecord r (s.withSvc fun v => { v with due := none }) else s
  | none => s

/-- Which records are B records. -/
def Record.isB : Record → Bool
  | .b _ => true
  | _ => false

/-- Which records are C records. -/
def Record.isC : Record → Bool
  | .c _ => true
  | _ => false

/-- Which records are G records. -/
def Record.isG : Record → Bool
  | .g _ _ => true
  | _ => false

/-- The held record is acted on once the result of the SILENT command has been removed (R160, R162). -/
def actHeld (s : State) : State :=
  match s.svc.held, s.svc.outstanding with
  | some r, none => actRecord r (s.withSvc fun v => { v with held := none })
  | _, _ => s

/-- At the end of start-up a waiting Q or E record is answered (R160). -/
def actStartupWait (s : State) : State :=
  match s.svc.startupWait with
  | some r => actRecord r (s.withSvc fun v => { v with startupWait := none })
  | none => s

/-- The start-up scan ends (R152, R160). -/
def startUpScanEnd (s : State) : State :=
  match s.scanOver with
  | some p => actStartupWait (finishScan p s)
  | none => s

/-- A reply being sent no longer ends service mode (R162). -/
def TxSending.keepOpen (t : TxSending) : TxSending :=
  match t.item with
  | .ready => t
  | .reply letter payload acksHalt _ => { t with item := .reply letter payload acksHalt false }

/-- What a break does to the loader's own state (R162). -/
def Service.onBreak (v : Service) : Service :=
  let w := { v with
    state := .sync, firstRun := none, buffer := [], byteTimer := false, confirmTimer := false, due := none
    startupWait := none, held := none, sending := v.sending.map TxSending.keepOpen }
  match v.outstanding with
  | some (q, .reply) => { w with outstanding := some (q, .silent), inputDropped := false }
  | _ => w

/-- The states in which a break is recognised (R162). -/
def State.watchesBreak (s : State) : Bool :=
  match s.svc.state with
  | .sync => false
  | .closing => s.part.service
  | .confirm => true
  | .ready => true
  | .receiving => true
  | .executing => true

/-- BREAK (R162). -/
def serviceBreak (s : State) : State := if s.watchesBreak then (discardWaiting s).withSvc Service.onBreak else s

/-- The loader's state at the release of RESET# (R153, R154). -/
def Service.atRelease (v : Service) (load : Bool) : Service := { v with state := if load then .sync else .closing }

end Sys2Proof.Machine
end

