-- ==== Sys2Proof/Machine/Window.lean ====
section
/-! DEFINITION. The host window: what each space reads and how each location is written, the two cell latches, the
captures, the commands, service mode, and accesses held behind WAIT# (R15, R29, R35, R36, R49 to R56, R59, R63, R82, R84,
R92 to R94, R113, R119, R153, R165 to R174). -/

namespace Sys2Proof.Machine

/-- After every DATA access the window address increases by 1, from 65,535 to 0 (R168). -/
def stepAddr (s : State) : State := { s with win := { s.win with addr := s.win.addr + 1 } }

/-- A byte is driven onto D7 to D0. -/
def drive (v : Byte) (s : State) : State := { s with win := { s.win with dataOut := v } }

/-- The size of each space in bytes (R167). -/
def spaceSize (space : BitVec 3) : Nat :=
  match space.toNat with
  | 0 => 64
  | 1 => 8192
  | 2 => 768
  | 3 => 128
  | 4 => 288
  | 5 => 30
  | 6 => 32
  | _ => 95

/-! ## Reads -/

/-- A byte of the control block (layout of space 0); bytes that hold no register read 00H (R167). The high bytes of
FRAMECNT and MVDONE come from a capture that holds a count (R29, R63). -/
def State.controlByte (s : State) (a : Nat) : Byte :=
  match a with
  | 0 => putBit 0 0 s.scan.enabled
  | 1 => byteOf s.ctl.panelw 0
  | 2 => byteOf s.ctl.panelw 1
  | 3 => s.ctl.vislines
  | 4 => s.ctl.hblank
  | 5 => s.ctl.vblank
  | 6 => s.ctl.cellw
  | 7 => s.ctl.blinkp
  | 8 => s.ctl.pace
  | 9 => byteOf s.ctl.curadr 0
  | 10 => byteOf s.ctl.curadr 1
  | 11 => s.ctl.cursty
  | 12 => s.scan.headact
  | 13 => s.scan.headpend
  | 14 => s.irq.ien0
  | 15 => s.irq.ien1
  | 16 => s.scan.latecnt
  | 17 => byteOf s.scan.framecnt 0
  | 18 => byteOf (s.win.framecntCapture.getD s.scan.framecnt) 1
  | 19 => s.scan.listCode.code
  | 20 => s.scan.listIndex
  | 21 => s.scan.rowmarkidx
  | 22 => s.mover.mvkind
  | 23 => byteOf s.mover.mvsrc 0
  | 24 => byteOf s.mover.mvsrc 1
  | 25 => byteOf s.mover.mvdst 0
  | 26 => byteOf s.mover.mvdst 1
  | 27 => byteOf s.mover.mvcnt 0
  | 28 => byteOf s.mover.mvcnt 1
  | 29 => byteOf s.mover.mvval 0
  | 30 => byteOf s.mover.mvval 1
  | 31 => byteOf s.mover.mvdone 0
  | 32 => byteOf (s.win.mvdoneCapture.getD s.mover.mvdone) 1
  | 33 => s.mover.mvstate.code
  | _ => 0

/-- What a read of the control block does to the captures: a low byte captures the whole count, and the high byte empties
the capture (R29, R63). -/
def captureRead (a : Nat) (s : State) : State :=
  match a with
  | 17 => { s with win := { s.win with framecntCapture := some s.scan.framecnt } }
  | 18 => { s with win := { s.win with framecntCapture := none } }
  | 31 => { s with win := { s.win with mvdoneCapture := some s.mover.mvdone } }
  | 32 => { s with win := { s.win with mvdoneCapture := none } }
  | _ => s

/-- A byte of the patch table, VALID in bit 7 of a slot's second byte (R92, R93). -/
def State.patchByte (s : State) (a : Nat) : Byte :=
  if a % 18 = 1 then putBit (s.patch.read a) 7 (s.patchValid.getLsbD (a / 18)) else s.patch.read a

/-- A byte of the composition space (layout of space 5). -/
def State.compByte (s : State) (a : Nat) : Byte := if a = 29 then s.store.compSeq else byteAt s.store.comp.toList a

/-- The bytes of a result record (layout of space 6). -/
def ResultRec.bytes (r : ResultRec) : List Byte :=
  [r.seq, r.kind, r.outcome.code, r.error.code, physCode r.phys, BitVec.ofNat 8 r.discarded] ++ bytesOf r.detail 2 ++
    bytesOf r.checkval 2 ++ bytesOf r.generation 3 ++ bytesOf r.eraseCount 2 ++
    [putBit (putBit 0 0 r.submitter.isLoader) 1 r.estimated] ++ r.image

/-- A byte of the head result; with no result every byte reads 00H (R123). -/
def State.resultByte (s : State) (a : Nat) : Byte :=
  match s.store.results with
  | [] => 0
  | r :: _ => byteAt r.bytes a

/-- The logical bank number that the host reads for a bank: L for MAPPED(L), TARGET for STAGING, FFH otherwise (R116). -/
def Store.logicalByte (st : Store) (r : Role) : Byte :=
  match r with
  | .mapped l => BitVec.ofNat 8 l.val
  | .staging => targetCode st.staging
  | _ => 0xFF

/-- The four bytes of a bank in the status space (layout of space 7). -/
def Store.bankBytesOf (st : Store) (e : BankEntry) : List Byte :=
  [putBit e.role.code 7 e.estimated, st.logicalByte e.role] ++ bytesOf e.count 2

/-- The latest record in the status space: bit 3 area, bits 2 to 0 slot, FFH for none. -/
def latestCode : Option (Area × Fin 8) → Byte
  | some (ar, n) => BitVec.ofNat 8 (8 * ar.code.toNat + n.val)
  | none => 0xFF

/-- The next slot in the status space. -/
def nextCode : Option (Fin 8) → Byte
  | some n => BitVec.ofNat 8 n.val
  | none => 0xFF

/-- STAGE, or FFH with STATE NONE. -/
def stageCode : Option Staging → Byte
  | some g => BitVec.ofNat 8 g.bank.val
  | none => 0xFF

/-- WRITTEN, empty with STATE NONE. -/
def writtenOf : Option Staging → BitVec 64
  | some g => g.written
  | none => 0

/-- The outstanding command's SEQ, 00H for none (R165). -/
def outstandingSeq : Option (Byte × SvcMark) → Byte
  | some (q, _) => q
  | none => 0

/-- The outstanding mark: 0 none, 1 REPLY, 2 SILENT. -/
def outstandingMark : Option (Byte × SvcMark) → Byte
  | some (_, .reply) => 1
  | some (_, .silent) => 2
  | none => 0

/-- The status of the store engine in bytes 0 to 84 of space 7. -/
def Store.statusBytes (st : Store) : List Byte :=
  st.roles.toList.flatMap st.bankBytesOf ++ bytesOf st.journal.generation 3 ++
    [st.journal.active.code, nextCode st.journal.next, latestCode st.journal.latest, stagingCode st.staging,
      stageCode st.staging, targetCode st.staging] ++
    bytesOf (writtenOf st.staging) 8 ++ [st.engine.code, st.wait.code] ++ bytesOf st.journal.retiredMask 2

/-- The status of the loader in bytes 85 to 94 of space 7 (R165). -/
def Service.statusBytes (v : Service) : List Byte :=
  [v.state.code] ++ bytesOf (BitVec.ofNat 16 v.divisor) 2 ++ [v.lastError.code] ++ bytesOf v.accepted 2 ++
    bytesOf v.refused 2 ++ [outstandingSeq v.outstanding, outstandingMark v.outstanding]

/-- A byte of the store and loader status (layout of space 7). -/
def State.statusByte (s : State) (a : Nat) : Byte := byteAt (s.store.statusBytes ++ s.svc.statusBytes) a

/-- A byte of a space other than space 1, as it stands at the read (R169). -/
def State.spaceByte (s : State) (space : BitVec 3) (a : Nat) : Byte :=
  match space.toNat with
  | 0 => s.controlByte a
  | 2 => s.descs.read a
  | 3 => s.attrs.read a
  | 4 => s.patchByte a
  | 5 => s.compByte a
  | 6 => s.resultByte a
  | _ => s.statusByte a

/-! ## Cells -/

/-- The cell that a byte address of space 1 concerns (R49). -/
def cellOfAddr (a : Word16) : CellAddr := BitVec.ofNat 12 (a.toNat / 2)

/-- A host write to an even byte address of space 1 loads the cell assembly latch; a byte held for another cell is lost,
with PAIR (R50). -/
def cellLowWrite (v : Byte) (s : State) : State :=
  let c := cellOfAddr s.win.addr
  let s1 := { s with win := { s.win with assembly := some (c, v) } }
  match s.win.assembly with
  | some (d, _) => stepAddr (if d = c then s1 else refuse .pair s1)
  | none => stepAddr s1

/-- A host write to an odd byte address of space 1 presents the whole cell when the assembly latch holds it, and is refused
with PAIR otherwise (R51). The address steps at the completion of the write (R168). -/
def cellHighWrite (v : Byte) (s : State) : State :=
  let c := cellOfAddr s.win.addr
  match s.win.assembly with
  | some (d, lo) =>
    if d = c then hostCellRequest .write (.write c (word16 v lo)) s else stepAddr (refuse .pair s)
  | none => stepAddr (refuse .pair s)

/-- A host read of an even byte address of space 1 presents a read of the cell (R52). -/
def cellLowRead (s : State) : State := hostCellRequest .readLow (.read (cellOfAddr s.win.addr)) s

/-- A host read of an odd byte address of space 1 is served from the read latch when that holds the cell, and presents a
read otherwise (R53). -/
def cellHighRead (s : State) : State :=
  let c := cellOfAddr s.win.addr
  match s.win.readLatch with
  | some (d, w) => if d = c then stepAddr (drive (byteOf w 1) s) else hostCellRequest .readHigh (.read c) s
  | none => hostCellRequest .readHigh (.read c) s

/-- A host write of a cell changes the read latch when that holds the cell (R54). -/
def refreshLatch (a : CellAddr) (w : Word16) : Option (CellAddr × Word16) → Option (CellAddr × Word16)
  | some (d, old) => some (d, if d = a then w else old)
  | none => none

/-- The completion of the window's cell request (R51 to R55, R168). `w` is the word read or written. -/
def hostCellDone (a : CellAddr) (w : Word16) (s : State) : State :=
  match s.win.cellOp with
  | some .write =>
    stepAddr { s with
      win := { s.win with assembly := none, readLatch := refreshLatch a w s.win.readLatch, cellOp := none } }
  | some .readLow =>
    stepAddr (drive (byteOf w 0) { s with win := { s.win with readLatch := some (a, w), cellOp := none } })
  | some .readHigh =>
    stepAddr (drive (byteOf w 1) { s with win := { s.win with readLatch := some (a, w), cellOp := none } })
  | none => s

/-- The completion of a cell access is delivered to its claimant (R43). -/
def deliverCell (acc : CellAccess) (a : CellAddr) (w : Word16) (s : State) : State :=
  match acc.who with
  | .rowLoader => if acc.abandoned then loaderResumes s else resolveCell w s
  | .host => hostCellDone a w s
  | .mover =>
    if acc.abandoned then moverAbandonedDone s
    else
      match acc.req with
      | .read _ => moverReadDone w s
      | .write _ _ => moverWriteDone s

/-- The cell port with nothing in progress. -/
def freeCellPort (s : State) : State := { s with cellPort := { s.cellPort with access := none } }

/-- The access in progress at the cell port completes, is delivered, and the arbiter makes the next grant (R43, R46). A
load that ends here may also let a waiting pulse run (R108). -/
def cellPortComplete (s : State) : State :=
  match s.cellPort.access with
  | none => s
  | some acc =>
    arrayGrant (cellGrant
      (match acc.req with
      | .read a => deliverCell acc a (s.cell a) (freeCellPort s)
      | .write a w => deliverCell acc a w { freeCellPort s with cells := s.cells.writeCell a w }))

/-! ## Writes -/

/-- A register takes a value that is in range, and refuses any other with BAD_VALUE (R35, R113). -/
def acceptIf (c : Bool) (f : Control → Control) (s : State) : State :=
  if c then { s with ctl := f s.ctl } else refuse .badValue s

/-- A write of the high byte of PANELW: the value formed is accepted or refused as a whole, and the hold is emptied
(R36). -/
def panelwHighWrite (v : Byte) (s : State) : State :=
  let w := word16 v (s.ctl.panelwHold.getD (byteOf s.ctl.panelw 0))
  let s1 := { s with ctl := { s.ctl with panelwHold := none } }
  acceptIf (decide (8 ≤ w.toNat) && decide (w.toNat ≤ 512)) (fun c => { c with panelw := w }) s1

/-- HEADPEND accepts 0 to 47 and END (R15). -/
def headpendWrite (v : Byte) (s : State) : State :=
  if v.toNat ≤ 47 ∨ v = 0xFF then { s with scan := { s.scan with headpend := v } } else refuse .badValue s

/-- A write within range to the control block (layout of space 0). -/
def controlWrite (a : Nat) (v : Byte) (s : State) : State :=
  match a with
  | 0 => writeDispctl v s
  | 1 => { s with ctl := { s.ctl with panelwHold := some v } }
  | 2 => panelwHighWrite v s
  | 3 => acceptIf (decide (1 ≤ v.toNat) && decide (v.toNat ≤ 128)) (fun c => { c with vislines := v }) s
  | 4 => acceptIf (decide (8 ≤ v.toNat)) (fun c => { c with hblank := v }) s
  | 5 => acceptIf (decide (1 ≤ v.toNat) && decide (v.toNat ≤ 32)) (fun c => { c with vblank := v }) s
  | 6 => acceptIf (decide (5 ≤ v.toNat) && decide (v.toNat ≤ 8)) (fun c => { c with cellw := v }) s
  | 7 => acceptIf (decide (1 ≤ v.toNat) && decide (v.toNat ≤ 63)) (fun c => { c with blinkp := v }) s
  | 8 => acceptIf (decide (v.toNat ≤ 3)) (fun c => { c with pace := v }) s
  | 9 => { s with ctl := { s.ctl with curadr := setLow s.ctl.curadr v } }
  | 10 => { s with ctl := { s.ctl with curadr := setHigh s.ctl.curadr v } }
  | 11 => acceptIf (decide (v.toNat % 4 ≠ 3)) (fun c => { c with cursty := v }) s
  | 13 => headpendWrite v s
  | 14 => { s with irq := { s.irq with ien0 := v } }
  | 15 => { s with irq := { s.irq with ien1 := v &&& 0x7F } }
  | 22 => { s with mover := { s.mover with mvkind := v } }
  | 23 => { s with mover := { s.mover with mvsrc := setLow s.mover.mvsrc v } }
  | 24 => { s with mover := { s.mover with mvsrc := setHigh s.mover.mvsrc v } }
  | 25 => { s with mover := { s.mover with mvdst := setLow s.mover.mvdst v } }
  | 26 => { s with mover := { s.mover with mvdst := setHigh s.mover.mvdst v } }
  | 27 => { s with mover := { s.mover with mvcnt := setLow s.mover.mvcnt v } }
  | 28 => { s with mover := { s.mover with mvcnt := setHigh s.mover.mvcnt v } }
  | 29 => { s with mover := { s.mover with mvval := setLow s.mover.mvval v } }
  | 30 => { s with mover := { s.mover with mvval := setHigh s.mover.mvval v } }
  | _ => refuse .readOnly s

/-- A byte of the descriptor table is written (R1, R19, R21). -/
def descriptorWrite (a : Nat) (v : Byte) (s : State) : State := { s with descs := s.descs.write a v }

/-- A byte of the attribute table is written (R82). -/
def attributeWrite (a : Nat) (v : Byte) (s : State) : State := { s with attrs := s.attrs.write a v }

/-- The VALID that a slot would hold after a write of one of its first two bytes (R94). -/
def State.validAfter (s : State) (n place : Nat) (v : Byte) : Bool :=
  if place = 0 then s.patchValid.getLsbD n else v.getLsbD 7

/-- The CODE that a slot would hold after a write of one of its first two bytes (R94). -/
def State.codeAfter (s : State) (n place : Nat) (v : Byte) : Nat :=
  if place = 0 then v.toNat + 256 * ((s.patch.read (18 * n + 1)).toNat % 4)
  else (s.patch.read (18 * n)).toNat + 256 * (v.toNat % 4)

/-- Another slot, itself valid, holds a code (R94). -/
def State.codeTaken (s : State) (n code : Nat) : Bool :=
  (List.range 16).any fun m => decide (m ≠ n) && s.patchValid.getLsbD m && decide (patchCode s.patch m = code)

/-- The valid bits with one of them set or cleared. -/
def putValid (w : Word16) (n : Nat) (b : Bool) : Word16 :=
  if b then w ||| (1#16 <<< n) else w &&& ~~~(1#16 <<< n)

/-- A byte of the patch table is written: an IMAGE byte at once, and one of a slot's first two bytes after the PATCH_DUP
check (R93, R94). VALID is kept apart from the other bits of the second byte. -/
def patchWrite (a : Nat) (v : Byte) (s : State) : State :=
  let n := a / 18
  let place := a % 18
  if 2 ≤ place then { s with patch := s.patch.write a v }
  else if s.validAfter n place v && s.codeTaken n (s.codeAfter n place v) then refuse .patchDup s
  else if place = 0 then { s with patch := s.patch.write a v }
  else { s with patch := s.patch.write a (putBit v 7 false), patchValid := putValid s.patchValid n (v.getLsbD 7) }

/-- A byte of the composition space is written; SEQ is read-only (R119). -/
def compWrite (a : Nat) (v : Byte) (s : State) : State :=
  if a = 29 then refuse .readOnly s
  else { s with store := { s.store with comp := s.store.comp.setIfInBounds a v } }

/-- A DATA write within range, and its address step (R167, R168). -/
def spaceWrite (v : Byte) (s : State) : State :=
  let a := s.win.addr.toNat
  match s.win.space.toNat with
  | 0 => stepAddr (controlWrite a v s)
  | 1 => if a % 2 = 0 then cellLowWrite v s else cellHighWrite v s
  | 2 => stepAddr (descriptorWrite a v s)
  | 3 => stepAddr (attributeWrite a v s)
  | 4 => stepAddr (patchWrite a v s)
  | 5 => stepAddr (compWrite a v s)
  | _ => stepAddr (refuse .readOnly s)

/-- A DATA write (R153, R167): service mode is judged first, then the range. -/
def dataWrite (v : Byte) (s : State) : State :=
  if s.part.service then stepAddr (refuse .serviceMode s)
  else if spaceSize s.win.space ≤ s.win.addr.toNat then stepAddr (refuse .range s)
  else spaceWrite v s

/-- A DATA read within range, and its address step (R168, R169). -/
def spaceRead (s : State) : State :=
  let a := s.win.addr.toNat
  match s.win.space.toNat with
  | 0 => stepAddr (captureRead a (drive (s.controlByte a) s))
  | 1 => if a % 2 = 0 then cellLowRead s else cellHighRead s
  | _ => stepAddr (drive (s.spaceByte s.win.space a) s)

/-- A DATA read (R153, R167): in service mode only space 7 is read; a refused read returns 00H. -/
def dataRead (s : State) : State :=
  if s.part.service ∧ s.win.space ≠ 7 then stepAddr (drive 0 (refuse .serviceMode s))
  else if spaceSize s.win.space ≤ s.win.addr.toNat then stepAddr (drive 0 (refuse .range s))
  else spaceRead s

/-! ## Commands -/

/-- DISPLAY RESET (R37, R69, R172, R175). -/
def displayReset (s : State) : State :=
  let s1 := clearDisplayFlags (moverStop (resetDisplaySide s))
  { s1 with
    win := { s1.win with
      assembly := none, readLatch := none, framecntCapture := none, mvdoneCapture := none, winfault := .none } }

/-- A command written to port 0 in normal mode (R171). -/
def command (code : Byte) (s : State) : State :=
  match code.toNat with
  | 1 => displayReset s
  | 2 => hostSubmit s
  | 3 => popResult s
  | 4 => ackHalt s
  | 5 => storeAbort s
  | 6 => moverStart s
  | 7 => moverAbort s
  | 8 => swapList s
  | _ => refuse .badCommand s

/-! ## The ports -/

/-- An access that service mode refuses (R153). -/
def unlessService (f : State → State) (s : State) : State := if s.part.service then refuse .serviceMode s else f s

/-- A write of SPACE (R153, R166). -/
def spaceSelect (v : Byte) (s : State) : State :=
  if s.part.service ∧ v ≠ 7 then refuse .serviceMode s
  else if v.toNat < 8 then { s with win := { s.win with space := v.setWidth 3 } }
  else refuse .badValue s

/-- A write strobe is taken (R166). -/
def takeWrite (port : PortNo) (v : Byte) (s : State) : State :=
  match port.toNat with
  | 0 => unlessService (command v) s
  | 1 => spaceSelect v s
  | 2 => { s with win := { s.win with addr := setLow s.win.addr v } }
  | 3 => { s with win := { s.win with addr := setHigh s.win.addr v } }
  | 4 => dataWrite v s
  | 5 => unlessService (clearFlags false v) s
  | 6 => unlessService (clearFlags true (v &&& 0x7F)) s
  | _ => { s with win := { s.win with winfault := .none } }

/-- A read of an interrupt flag register; in service mode it is refused and returns 00H (R153, R173). -/
def flagRead (v : Byte) (s : State) : State :=
  if s.part.service then drive 0 (refuse .serviceMode s) else drive v s

/-- A read strobe is taken (R166). -/
def takeRead (port : PortNo) (s : State) : State :=
  match port.toNat with
  | 0 => drive s.status s
  | 1 => drive (s.win.space.setWidth 8) s
  | 2 => drive (byteOf s.win.addr 0) s
  | 3 => drive (byteOf s.win.addr 1) s
  | 4 => dataRead s
  | 5 => flagRead s.irq.iflag0 s
  | 6 => flagRead s.irq.iflag1 s
  | _ => drive s.win.winfault.code s

/-- A window access is taken (R166). -/
def takeAccess (x : Access) (s : State) : State :=
  match x with
  | .read port => takeRead port s
  | .write port v => takeWrite port v s

/-- A strobe at the window: it is taken at once, or held while an earlier access is held by WAIT# (R55, R166, R171). -/
def strobe (x : Access) (s : State) : State :=
  if s.waitLow then { s with win := { s.win with held := s.win.held ++ [x] } } else takeAccess x s

/-- The oldest held access is taken once the earlier one has completed, as at its strobe (R55, R166). -/
def heldAccess (s : State) : State :=
  match s.win.cellOp, s.win.held with
  | none, x :: rest => takeAccess x { s with win := { s.win with held := rest } }
  | _, _ => s

/-! ## Steps -/

/-- A step of the part, which does not come about while RESET# holds it (log entry 4). A first latch that its frame start left
to the next step is made before it (log entry 23). -/
def occur (f : State → State) (s : State) : Host.Outcome State Fault Refusal :=
  .next (if s.part.resetHeld then s else f (takeLatch s))

/-- This access, taken now, is a host write of a descriptor byte (R19, R153, R167). -/
def State.writesDescriptor (s : State) (x : Access) : Bool :=
  match x with
  | .write port _ =>
    decide (port = 4) && !s.part.service && decide (s.win.space = 2) && decide (s.win.addr.toNat < 768)
  | .read _ => false

/-- The access that a strobe of `x` takes now, if it takes one: its own, unless WAIT# is low (R55). -/
def State.takesNow (s : State) (x : Access) : Option Access := if s.waitLow then none else some x

/-- The access that HELD_WINDOW_ACCESS takes now, if it takes one: the oldest held one (R55). -/
def State.oldestReady (s : State) : Option Access := if s.win.cellOp.isSome then none else s.win.held.head?

/-- A step of the host window that takes the access `x`. A host write of a descriptor byte is taken before a first latch that is
still to be made, and every other access after it (R21, log entry 23). -/
def occurAccess (x : Option Access) (f : State → State) (s : State) : Host.Outcome State Fault Refusal :=
  if x.any s.writesDescriptor then .next (if s.part.resetHeld then s else takeLatch (f s)) else occur f s

/-- A strobe as a step of the part. -/
def occurStrobe (x : Access) (s : State) : Host.Outcome State Fault Refusal :=
  occurAccess (s.takesNow x) (strobe x) s

end Sys2Proof.Machine
end

