-- ==== Sys2Proof/Machine/ExecDisplay.lean ====
section
/-! DEFINITION. The meanings of the scan engine events and of the host writes that enable, disable, reset and swap the display. -/

namespace Sys2Proof.Machine

/-- FRAME_START (R26): the scan engine opens a frame when the last one has run out; at any other time none is due. -/
def execFrameStart (s : State) : Host.Outcome State Fault Refusal :=
  occur frameStart s

/-- LINE_START (R30): the next scan line begins. -/
def execLineStart (s : State) : Host.Outcome State Fault Refusal :=
  occur lineStart s

/-- END_OF_THE_ACTIVE_DOTS (R38): the LATCH pulse is given and BLANK# goes low. -/
def execEndOfTheActiveDots (s : State) : Host.Outcome State Fault Refusal :=
  occur endActiveDots s

/-- DISPLAY_ENABLE (R23): a DATA write; at DISPCTL, with ENABLE set in `v`, it enables the display. -/
def execDisplayEnable (v : Byte) (s : State) : Host.Outcome State Fault Refusal :=
  occurStrobe (.write 4 v) s

/-- DISPLAY_DISABLE (R24): a DATA write; at DISPCTL, with ENABLE clear in `v`, it disables the display. -/
def execDisplayDisable (v : Byte) (s : State) : Host.Outcome State Fault Refusal :=
  occurStrobe (.write 4 v) s

/-- DISPLAY_RESET (R37): command 01H. -/
def execDisplayReset (s : State) : Host.Outcome State Fault Refusal :=
  occurStrobe (.write 0 1) s

/-- SWAP_LIST (R16): command 08H. -/
def execSwapList (s : State) : Host.Outcome State Fault Refusal :=
  occurStrobe (.write 0 8) s

end Sys2Proof.Machine
end

