-- ==== Sys2Proof/Machine/Resets.lean ====
section
/-! DEFINITION. RESET#, power-on and the release of RESET# (R22, R35, R41, R44, R56, R58, R68, R71, R72, R81, R84, R92, R98,
R107, R115, R118, R119, R140, R143, R153, R154, R174, R175). -/

namespace Sys2Proof.Machine

/-- The latched configuration after RESET# is not defined until the first frame start (R22): free bytes. -/
def State.freeConfig (s : State) : FrameCfg :=
  { panelw := word16 (s.free 1) (s.free 2), vislines := s.free 3, hblank := s.free 4, vblank := s.free 5
    cellw := s.free 6, blinkp := s.free 7 }

/-- The display map after RESET# is not defined until the end of start-up (R98): free bank numbers. -/
def State.freeMap (s : State) : Vector Bank 14 :=
  ⟨⟨(List.range 14).map fun i => Fin.ofNat 16 (s.free (16 + i)).toNat⟩, by simp⟩

/-- The cell store after RESET#: a write in progress leaves its cell with its old word or with the new one, whole in either
case (R41). -/
def State.cellsAfterReset (s : State) : Memory :=
  match s.cellPort.access with
  | some ⟨_, .write a w, _⟩ => if (s.free 0).getLsbD 0 then s.cells.writeCell a w else s.cells
  | _ => s.cells

/-- The mover after RESET#: the parameters and MVDONE keep their values (R59, R63, R68). -/
def Mover.afterReset (m : Mover) : Mover := { m.finish .idle with tail := false }

/-- The scan engine after RESET# (R18, R22, R39). -/
def State.scanAfterReset (s : State) : Scan :=
  { State.reset.scan with cfg := s.freeConfig, displayMap := s.freeMap, latched := s.scan.latched }

/-- The store engine after RESET#, before the release: STARTING, with no scan begun yet (R118, R140). -/
def storeAfterReset : Store := { State.reset.store with scan := none }

/-- The array port after RESET# (R107). -/
def arrayPortAfterReset : ArrayPort := { State.reset.arrPort with access := none }

/-- What RESET# and power-on share. A pulse or sub-pulse in progress is cut first (R115). The part is then held until the
release. -/
def resetPart (s : State) : State :=
  let s1 := cutPulse s
  { s1 with
    part := { s1.part with resetHeld := true, service := false }
    irq := State.reset.irq
    win := { State.reset.win with dataOut := s1.win.dataOut }
    ctl := State.reset.ctl
    cells := s1.cellsAfterReset
    cellPort := State.reset.cellPort
    mover := s1.mover.afterReset
    patchValid := 0
    scan := s1.scanAfterReset
    rows := State.reset.rows
    arrPort := arrayPortAfterReset
    store := storeAfterReset
    svc := State.reset.svc
    freeCount := s1.freeCount + 1 }

/-- A memory whose contents are undefined, from the free values of one event. -/
def undefinedMemory (event : Nat) : Memory := { fill := .undefined event, cells := [] }

/-- Power is applied (R1, R41, R58, R82, R92, R175): the reset values, the mover's power-on values, and undefined contents in
the cell store, the descriptor table, the attribute table and the patch table. The glyph array keeps its contents (R104). -/
def powerOn (s : State) : State :=
  let s1 := resetPart s
  { s1 with
    cells := undefinedMemory s1.freeCount
    descs := undefinedMemory (s1.freeCount + 1)
    attrs := undefinedMemory (s1.freeCount + 2)
    patch := undefinedMemory (s1.freeCount + 3)
    mover := State.reset.mover
    scan := { s1.scan with latched := none }
    freeCount := s1.freeCount + 4 }

/-- The release of RESET# with LOAD at this level: normal or service mode, the LOWV flag when LOWV# is asserted, and the
beginning of the start-up scan (R114, R118, R149, R153, R154). -/
def releaseReset (load : Bool) (s : State) : State :=
  if s.part.resetHeld then
    let s1 := { s with
      part := { s.part with resetHeld := false, service := load }
      store := { s.store with owner := if load then .loader else .host }
      svc := s.svc.atRelease load }
    beginScan (if s.part.lowv then raise .lowv s1 else s1)
  else s

end Sys2Proof.Machine
end

