-- ==== Sys2Proof/Machine/ExecPart.lean ====
section
/-! DEFINITION. The meanings of the power, reset and supply events. -/

namespace Sys2Proof.Machine

/-- POWER_ON (R175): every block takes its power-on values and the store engine enters STARTING. -/
def execPowerOn (s : State) : Host.Outcome State Fault Refusal :=
  .next (powerOn s)

/-- RESET (R140): work at both ports is cut and every block takes its reset values. -/
def execReset (s : State) : Host.Outcome State Fault Refusal :=
  .next (resetPart s)

/-- RESET_RELEASE (R153): LOAD is sampled and the start-up scan begins. -/
def execResetRelease (load : Bool) (s : State) : Host.Outcome State Fault Refusal :=
  .next (releaseReset load s)

/-- LOWV_ASSERTED (R114): the LOWV flag is set, and a pulse in progress or waiting ends with its operation. -/
def execLowvAsserted (s : State) : Host.Outcome State Fault Refusal :=
  .next (lowvAsserted s)

/-- LOWV_RELEASED (R114): pulses may be presented again. -/
def execLowvReleased (s : State) : Host.Outcome State Fault Refusal :=
  .next (lowvReleased s)

end Sys2Proof.Machine
end

