-- ==== Sys2Proof/Machine/ExecPorts.lean ====
section
/-! DEFINITION. The meanings of the completions at the cell port and the array port, and of the limits they run into. -/

namespace Sys2Proof.Machine

/-- CELL_PORT_COMPLETE (R43). -/
def execCellPortComplete (s : State) : Host.Outcome State Fault Refusal :=
  occur cellPortComplete s

/-- ARRAY_READ_COMPLETE (R106). -/
def execArrayReadComplete (s : State) : Host.Outcome State Fault Refusal :=
  occur arrayReadComplete s

/-- PROGRAM_PULSE_COMPLETE (R110). -/
def execProgramPulseComplete (s : State) : Host.Outcome State Fault Refusal :=
  occur programPulseComplete s

/-- PULSE_LIMIT_REACHED (R110). -/
def execPulseLimitReached (s : State) : Host.Outcome State Fault Refusal :=
  occur pulseLimitReached s

/-- ERASE_SUBPULSE_COMPLETE (R111). -/
def execEraseSubpulseComplete (s : State) : Host.Outcome State Fault Refusal :=
  occur eraseSubpulseComplete s

/-- SUBPULSE_BUDGET_SPENT (R111). -/
def execSubpulseBudgetSpent (s : State) : Host.Outcome State Fault Refusal :=
  occur subpulseBudgetSpent s

end Sys2Proof.Machine
end

