-- ==== Sys2Proof/Machine/ExecService.lean ====
section
/-! DEFINITION. The meanings of the service load port events. -/

namespace Sys2Proof.Machine

/-- LOW_RUN (R155). -/
def execLowRun (n : Nat) (s : State) : Host.Outcome State Fault Refusal :=
  occur (lowRun n) s

/-- BYTE_RECEIVED (R156). -/
def execByteReceived (b : Byte) (s : State) : Host.Outcome State Fault Refusal :=
  occur (byteReceived b) s

/-- FRAMING_ERROR (R156). -/
def execFramingError (s : State) : Host.Outcome State Fault Refusal :=
  occur framingError s

/-- BREAK (R162). -/
def execServiceBreak (s : State) : Host.Outcome State Fault Refusal :=
  occur serviceBreak s

/-- INTER_BYTE_TIMEOUT (R158). -/
def execInterByteTimeout (s : State) : Host.Outcome State Fault Refusal :=
  occur interByteTimeout s

/-- CONFIRM_TIMEOUT (R157). -/
def execConfirmTimeout (s : State) : Host.Outcome State Fault Refusal :=
  occur confirmTimeout s

/-- B_RECORD (R160). -/
def execBRecord (s : State) : Host.Outcome State Fault Refusal :=
  occur (actDue Record.isB) s

/-- C_RECORD (R160). -/
def execCRecord (s : State) : Host.Outcome State Fault Refusal :=
  occur (actDue Record.isC) s

/-- G_RECORD (R160). -/
def execGRecord (s : State) : Host.Outcome State Fault Refusal :=
  occur (actDue Record.isG) s

/-- M_RECORD (R160). -/
def execMRecord (s : State) : Host.Outcome State Fault Refusal :=
  occur (actDue fun r => decide (r = .m)) s

/-- A_RECORD (R160). -/
def execARecord (s : State) : Host.Outcome State Fault Refusal :=
  occur (actDue fun r => decide (r = .a)) s

/-- Q_RECORD (R160). -/
def execQRecord (s : State) : Host.Outcome State Fault Refusal :=
  occur (actDue fun r => decide (r = .q)) s

/-- E_RECORD (R160). -/
def execERecord (s : State) : Host.Outcome State Fault Refusal :=
  occur (actDue fun r => decide (r = .e)) s

/-- HELD_RECORD (R160). -/
def execHeldRecord (s : State) : Host.Outcome State Fault Refusal :=
  occur actHeld s

/-- TRANSMISSION_END (R156). -/
def execTransmissionEnd (s : State) : Host.Outcome State Fault Refusal :=
  occur transmissionEnd s

end Sys2Proof.Machine
end

