-- ==== Sys2Proof/Machine/ExecStore.lean ====
section
/-! DEFINITION. The meanings of the store engine steps. -/

namespace Sys2Proof.Machine

/-- STORE_COMMAND_START (R122): the head command starts when a start is due (log entry 6). -/
def execStoreCommandStart (s : State) : Host.Outcome State Fault Refusal :=
  occur startIfDue s

/-- BEGIN (R126). -/
def execCmdBegin (s : State) : Host.Outcome State Fault Refusal :=
  occur stepBegin s

/-- BEGIN_CHOOSE_AGAIN (R126). -/
def execBeginChooseAgain (s : State) : Host.Outcome State Fault Refusal :=
  occur stepChooseAgain s

/-- CLONE (R128). -/
def execCmdClone (s : State) : Host.Outcome State Fault Refusal :=
  occur stepClone s

/-- PROGRAM (R129). -/
def execCmdProgram (s : State) : Host.Outcome State Fault Refusal :=
  occur stepProgram s

/-- COMMIT (R130). -/
def execCmdCommit (s : State) : Host.Outcome State Fault Refusal :=
  occur stepCommit s

/-- ABANDON (R132). -/
def execCmdAbandon (s : State) : Host.Outcome State Fault Refusal :=
  occur stepAbandon s

/-- SCRUB (R133). -/
def execCmdScrub (s : State) : Host.Outcome State Fault Refusal :=
  occur stepScrub s

/-- READGLYPH (R134). -/
def execCmdReadglyph (s : State) : Host.Outcome State Fault Refusal :=
  occur stepReadglyph s

/-- CHECK (R135). -/
def execCmdCheck (s : State) : Host.Outcome State Fault Refusal :=
  occur stepCheck s

/-- BAD_KIND (R120). -/
def execBadKind (s : State) : Host.Outcome State Fault Refusal :=
  occur stepBadKind s

/-- START_UP_SCAN_END (R152). -/
def execStartUpScanEnd (s : State) : Host.Outcome State Fault Refusal :=
  occur startUpScanEnd s

end Sys2Proof.Machine
end

