-- ==== Sys2Proof/Machine/ExecWindow.lean ====
section
/-! DEFINITION. The meanings of the host window accesses. A strobe does what its port, SPACE and the window address make it do (log entry 5). -/

namespace Sys2Proof.Machine

/-- SUBMIT (R120): command 02H. -/
def execSubmit (s : State) : Host.Outcome State Fault Refusal :=
  occurStrobe (.write 0 2) s

/-- POP_RESULT (R124): command 03H. -/
def execPopResult (s : State) : Host.Outcome State Fault Refusal :=
  occurStrobe (.write 0 3) s

/-- ACK_HALT (R137): command 04H. -/
def execAckHalt (s : State) : Host.Outcome State Fault Refusal :=
  occurStrobe (.write 0 4) s

/-- STORE_ABORT (R138): command 05H. -/
def execStoreAbort (s : State) : Host.Outcome State Fault Refusal :=
  occurStrobe (.write 0 5) s

/-- MOVER_START (R60): command 06H. -/
def execMoverStart (s : State) : Host.Outcome State Fault Refusal :=
  occurStrobe (.write 0 6) s

/-- MOVER_ABORT (R65): command 07H. -/
def execMoverAbort (s : State) : Host.Outcome State Fault Refusal :=
  occurStrobe (.write 0 7) s

/-- BAD_COMMAND (R171): a write to port 0 of a code that is none of the eight. -/
def execBadCommand (code : Byte) (s : State) : Host.Outcome State Fault Refusal :=
  occurStrobe (.write 0 code) s

/-- REGISTER_WRITE (R167): a write to SPACE, ADDRL, ADDRH or DATA. -/
def execRegisterWrite (port : PortNo) (v : Byte) (s : State) : Host.Outcome State Fault Refusal :=
  occurStrobe (.write port v) s

/-- PANELW_LOW_BYTE_WRITE (R36): a DATA write; at offset 1 of space 0 the byte is held. -/
def execPanelwLowByteWrite (v : Byte) (s : State) : Host.Outcome State Fault Refusal :=
  occurStrobe (.write 4 v) s

/-- PANELW_HIGH_BYTE_WRITE (R36): a DATA write; at offset 2 of space 0 a value is formed and judged whole. -/
def execPanelwHighByteWrite (v : Byte) (s : State) : Host.Outcome State Fault Refusal :=
  occurStrobe (.write 4 v) s

/-- FRAMECNT_LOW_BYTE_READ (R29): a DATA read; at offset 17 of space 0 the count is captured. -/
def execFramecntLowByteRead (s : State) : Host.Outcome State Fault Refusal :=
  occurStrobe (.read 4) s

/-- FRAMECNT_HIGH_BYTE_READ (R29): a DATA read; at offset 18 of space 0 the capture is used and emptied. -/
def execFramecntHighByteRead (s : State) : Host.Outcome State Fault Refusal :=
  occurStrobe (.read 4) s

/-- MVDONE_LOW_BYTE_READ (R63): a DATA read; at offset 31 of space 0 the count is captured. -/
def execMvdoneLowByteRead (s : State) : Host.Outcome State Fault Refusal :=
  occurStrobe (.read 4) s

/-- MVDONE_HIGH_BYTE_READ (R63): a DATA read; at offset 32 of space 0 the capture is used and emptied. -/
def execMvdoneHighByteRead (s : State) : Host.Outcome State Fault Refusal :=
  occurStrobe (.read 4) s

/-- CELL_LOW_BYTE_WRITE (R50): a DATA write; at an even address of space 1 it loads the assembly latch. -/
def execCellLowByteWrite (v : Byte) (s : State) : Host.Outcome State Fault Refusal :=
  occurStrobe (.write 4 v) s

/-- CELL_HIGH_BYTE_WRITE (R51): a DATA write; at an odd address of space 1 it presents the whole cell. -/
def execCellHighByteWrite (v : Byte) (s : State) : Host.Outcome State Fault Refusal :=
  occurStrobe (.write 4 v) s

/-- CELL_LOW_BYTE_READ (R52): a DATA read; at an even address of space 1 it fetches the cell. -/
def execCellLowByteRead (s : State) : Host.Outcome State Fault Refusal :=
  occurStrobe (.read 4) s

/-- CELL_HIGH_BYTE_READ (R53): a DATA read; at an odd address of space 1 it is served from the read latch or fetches. -/
def execCellHighByteRead (s : State) : Host.Outcome State Fault Refusal :=
  occurStrobe (.read 4) s

/-- DESCRIPTOR_BYTE_WRITE (R19, R21): a DATA write; in space 2 it replaces one descriptor byte. -/
def execDescriptorByteWrite (v : Byte) (s : State) : Host.Outcome State Fault Refusal :=
  occurStrobe (.write 4 v) s

/-- ATTRIBUTE_BYTE_WRITE (R82): a DATA write; in space 3 it replaces one attribute byte. -/
def execAttributeByteWrite (v : Byte) (s : State) : Host.Outcome State Fault Refusal :=
  occurStrobe (.write 4 v) s

/-- PATCH_SLOT_WRITE (R94): a DATA write; in space 4 it replaces a patch byte after the PATCH_DUP check. -/
def execPatchSlotWrite (v : Byte) (s : State) : Host.Outcome State Fault Refusal :=
  occurStrobe (.write 4 v) s

/-- IFLAG_CLEAR (R173): a write to port 5 or 6. -/
def execIflagClear (port : PortNo) (v : Byte) (s : State) : Host.Outcome State Fault Refusal :=
  occurStrobe (.write port v) s

/-- WINFAULT_CLEAR (R172): a write to port 7. -/
def execWinfaultClear (v : Byte) (s : State) : Host.Outcome State Fault Refusal :=
  occurStrobe (.write 7 v) s

/-- HELD_WINDOW_ACCESS (R55): the oldest held access is taken. -/
def execHeldWindowAccess (s : State) : Host.Outcome State Fault Refusal :=
  occurAccess s.oldestReady heldAccess s

/-- DATA_READ (R168): a DATA read. -/
def execDataRead (s : State) : Host.Outcome State Fault Refusal :=
  occurStrobe (.read 4) s

/-- IFLAG_READ (R173): a read of port 5 or 6, or of another port by its number (R166). -/
def execIflagRead (port : PortNo) (s : State) : Host.Outcome State Fault Refusal :=
  occurStrobe (.read port) s

end Sys2Proof.Machine
end

