-- ==== Sys2Proof/Machine/Dispatch.lean ====
section
/-! DEFINITION. One arm for each command. -/

namespace Sys2Proof.Machine

/-- The effect of one command on everything but the queue of waiting commands. -/
def exec (i : Instr) (s : State) : Host.Outcome State Fault Refusal :=
  match i with
  | .powerOn => Sys2Proof.Machine.execPowerOn s
  | .reset => Sys2Proof.Machine.execReset s
  | .resetRelease load => Sys2Proof.Machine.execResetRelease load s
  | .lowvAsserted => Sys2Proof.Machine.execLowvAsserted s
  | .lowvReleased => Sys2Proof.Machine.execLowvReleased s
  | .frameStart => Sys2Proof.Machine.execFrameStart s
  | .lineStart => Sys2Proof.Machine.execLineStart s
  | .endOfTheActiveDots => Sys2Proof.Machine.execEndOfTheActiveDots s
  | .displayEnable v => Sys2Proof.Machine.execDisplayEnable v s
  | .displayDisable v => Sys2Proof.Machine.execDisplayDisable v s
  | .displayReset => Sys2Proof.Machine.execDisplayReset s
  | .swapList => Sys2Proof.Machine.execSwapList s
  | .submit => Sys2Proof.Machine.execSubmit s
  | .popResult => Sys2Proof.Machine.execPopResult s
  | .ackHalt => Sys2Proof.Machine.execAckHalt s
  | .storeAbort => Sys2Proof.Machine.execStoreAbort s
  | .moverStart => Sys2Proof.Machine.execMoverStart s
  | .moverAbort => Sys2Proof.Machine.execMoverAbort s
  | .badCommand code => Sys2Proof.Machine.execBadCommand code s
  | .registerWrite port v => Sys2Proof.Machine.execRegisterWrite port v s
  | .panelwLowByteWrite v => Sys2Proof.Machine.execPanelwLowByteWrite v s
  | .panelwHighByteWrite v => Sys2Proof.Machine.execPanelwHighByteWrite v s
  | .framecntLowByteRead => Sys2Proof.Machine.execFramecntLowByteRead s
  | .framecntHighByteRead => Sys2Proof.Machine.execFramecntHighByteRead s
  | .mvdoneLowByteRead => Sys2Proof.Machine.execMvdoneLowByteRead s
  | .mvdoneHighByteRead => Sys2Proof.Machine.execMvdoneHighByteRead s
  | .cellLowByteWrite v => Sys2Proof.Machine.execCellLowByteWrite v s
  | .cellHighByteWrite v => Sys2Proof.Machine.execCellHighByteWrite v s
  | .cellLowByteRead => Sys2Proof.Machine.execCellLowByteRead s
  | .cellHighByteRead => Sys2Proof.Machine.execCellHighByteRead s
  | .descriptorByteWrite v => Sys2Proof.Machine.execDescriptorByteWrite v s
  | .attributeByteWrite v => Sys2Proof.Machine.execAttributeByteWrite v s
  | .patchSlotWrite v => Sys2Proof.Machine.execPatchSlotWrite v s
  | .iflagClear port v => Sys2Proof.Machine.execIflagClear port v s
  | .winfaultClear v => Sys2Proof.Machine.execWinfaultClear v s
  | .heldWindowAccess => Sys2Proof.Machine.execHeldWindowAccess s
  | .cellPortComplete => Sys2Proof.Machine.execCellPortComplete s
  | .arrayReadComplete => Sys2Proof.Machine.execArrayReadComplete s
  | .programPulseComplete => Sys2Proof.Machine.execProgramPulseComplete s
  | .pulseLimitReached => Sys2Proof.Machine.execPulseLimitReached s
  | .eraseSubpulseComplete => Sys2Proof.Machine.execEraseSubpulseComplete s
  | .subpulseBudgetSpent => Sys2Proof.Machine.execSubpulseBudgetSpent s
  | .storeCommandStart => Sys2Proof.Machine.execStoreCommandStart s
  | .cmdBegin => Sys2Proof.Machine.execCmdBegin s
  | .beginChooseAgain => Sys2Proof.Machine.execBeginChooseAgain s
  | .cmdClone => Sys2Proof.Machine.execCmdClone s
  | .cmdProgram => Sys2Proof.Machine.execCmdProgram s
  | .cmdCommit => Sys2Proof.Machine.execCmdCommit s
  | .cmdAbandon => Sys2Proof.Machine.execCmdAbandon s
  | .cmdScrub => Sys2Proof.Machine.execCmdScrub s
  | .cmdReadglyph => Sys2Proof.Machine.execCmdReadglyph s
  | .cmdCheck => Sys2Proof.Machine.execCmdCheck s
  | .badKind => Sys2Proof.Machine.execBadKind s
  | .startUpScanEnd => Sys2Proof.Machine.execStartUpScanEnd s
  | .lowRun n => Sys2Proof.Machine.execLowRun n s
  | .byteReceived b => Sys2Proof.Machine.execByteReceived b s
  | .framingError => Sys2Proof.Machine.execFramingError s
  | .serviceBreak => Sys2Proof.Machine.execServiceBreak s
  | .interByteTimeout => Sys2Proof.Machine.execInterByteTimeout s
  | .confirmTimeout => Sys2Proof.Machine.execConfirmTimeout s
  | .bRecord => Sys2Proof.Machine.execBRecord s
  | .cRecord => Sys2Proof.Machine.execCRecord s
  | .gRecord => Sys2Proof.Machine.execGRecord s
  | .mRecord => Sys2Proof.Machine.execMRecord s
  | .aRecord => Sys2Proof.Machine.execARecord s
  | .qRecord => Sys2Proof.Machine.execQRecord s
  | .eRecord => Sys2Proof.Machine.execERecord s
  | .heldRecord => Sys2Proof.Machine.execHeldRecord s
  | .transmissionEnd => Sys2Proof.Machine.execTransmissionEnd s
  | .dataRead => Sys2Proof.Machine.execDataRead s
  | .iflagRead port => Sys2Proof.Machine.execIflagRead port s

end Sys2Proof.Machine
end

