-- ==== Sys2Proof/Safety.lean ====
section
/-! DEFINITION. What counts as a safe run, the conditions under which a command finds its effect, and the invariants of the
machine, in the terms that the statements use. -/

namespace Sys2Proof.Machine

/-- A step from this state answers a next state: it neither faults nor is refused. -/
def State.advances (s : State) : Prop := ∃ t, step s = .next t

/-- Reachability by steps that answer a next state, with commands arriving at the end of the queue at any time. -/
inductive Reaches : State → State → Prop where
  | refl (s : State) : Reaches s s
  | arrive (s t : State) (c : Instr) : Reaches s t → Reaches s { t with pending := t.pending ++ [c] }
  | step (s t u : State) : Reaches s t → step t = .next u → Reaches s u

/-! ## Conditions -/

/-- RESET# does not hold the part, and no first latch of a frame is left to the next step: a command has its own effect and no
other (log entries 4 and 23). -/
abbrev State.released (s : State) : Prop := s.part.resetHeld = false ∧ s.scan.latchDue = false

/-- A host strobe is taken at once: the part is released and no earlier access is held by WAIT# (R55). -/
abbrev State.windowFree (s : State) : Prop := s.released ∧ s.waitLow = false

/-- A host strobe is taken at once under the window's normal rules (R55, R153). -/
abbrev State.hostOpen (s : State) : Prop := s.windowFree ∧ s.part.service = false

/-- A DATA strobe is taken at once, and falls at byte address `a` of a space, in normal mode (R166). -/
abbrev State.dataAt (s : State) (space : BitVec 3) (a : Nat) : Prop :=
  s.hostOpen ∧ s.win.space = space ∧ s.win.addr.toNat = a

/-- The command in flight has started, has made no check yet, and is of this kind (R122). -/
abbrev State.started (s : State) (f : InFlight) (body : CmdBody) : Prop :=
  s.released ∧ s.store.inFlight = some f ∧ f.stage = .fresh ∧ f.entry.body = body

/-- The program operation that pulses are being given for, and no erase and no map write around it. -/
abbrev InFlight.plainProg (f : InFlight) (p : ProgOp) : Prop := f.prog = some p ∧ f.erase = none ∧ f.mapw = none

/-! ## What events leave -/

/-- What RESET# leaves in every block, whatever stood before: the part is held in it, in normal mode; the interrupt unit, the
window, the control block, the cell port, the mover's progress, the scan engine, the row loader, the patch table's VALID bits,
the array port, the store engine and the service port stand at their reset values. -/
def State.atReset (t : State) : Prop :=
  t.part.resetHeld = true ∧ t.part.service = false ∧
  t.irq = { iflag0 := 0, iflag1 := 0, ien0 := 0, ien1 := 0 } ∧
  t.win.space = 0 ∧ t.win.addr = 0 ∧ t.win.assembly = none ∧ t.win.readLatch = none ∧
  t.win.framecntCapture = none ∧ t.win.mvdoneCapture = none ∧ t.win.winfault = .none ∧ t.waitLow = false ∧
  t.ctl = { panelw := 256, panelwHold := none, vislines := 32, hblank := 16, vblank := 4, cellw := 6, blinkp := 30,
            pace := 1, curadr := 0, cursty := 0 } ∧
  t.cellPort = { loaderWait := none, hostWait := none, moverWait := none, access := none, turn := .mover } ∧
  t.mover.mvstate = .idle ∧ t.mover.op = none ∧ t.mover.transfer = none ∧ t.mover.aborting = false ∧
  t.mover.tail = false ∧
  t.scan.enabled = false ∧ t.scan.pos = .none ∧ t.scan.part = .off ∧ t.scan.lsel = 0 ∧ t.scan.rowStart = none ∧
  t.scan.dots = [] ∧ t.scan.headact = 0xFF ∧ t.scan.headpend = 0xFF ∧ t.scan.swapPending = false ∧
  t.scan.blinkCount = 0 ∧ t.scan.blinkOn = true ∧ t.scan.framecnt = 0 ∧ t.scan.latecnt = 0 ∧ t.scan.rowmarkidx = 0 ∧
  t.scan.listCode = .none ∧ t.scan.listIndex = 0 ∧
  t.rows = { loader := .stopped, work := none, buf0 := none, buf1 := none, loadingIs1 := false } ∧
  t.patchValid = 0 ∧ t.arrPort = { loaderWait := none, storeWait := none, access := none } ∧
  t.store.engine = .starting ∧ t.store.wait = .none ∧ t.store.queue = [] ∧ t.store.inFlight = none ∧
  t.store.results = [] ∧ t.store.seq = 0 ∧ t.store.owner = .host ∧ t.store.staging = none ∧ t.store.deferred = none ∧
  t.store.scan = none ∧
  t.store.journal = { active := .a, next := some 0, latest := none, generation := 0, retiredMask := 0 } ∧
  (∀ b : Bank, t.store.roles.get b = { role := .unset, count := 0, estimated := false }) ∧
  (∀ k, t.compByte k = 0) ∧
  t.svc.divisor = 0 ∧ t.svc.firstRun = none ∧ t.svc.buffer = [] ∧ t.svc.byteTimer = false ∧
  t.svc.confirmTimer = false ∧ t.svc.outstanding = none ∧ t.svc.due = none ∧ t.svc.startupWait = none ∧
  t.svc.held = none ∧ t.svc.inputDropped = false ∧ t.svc.replyLost = false ∧ t.svc.sending = none ∧
  t.svc.waiting = none ∧ t.svc.lastError = .none ∧ t.svc.accepted = 0 ∧ t.svc.refused = 0

/-- What a cut leaves in the array, from the state `s` before it to the state `t` after it. With no pulse in progress nothing
changes. A cut program pulse may have cleared bits of its set whose target is 0, and no other bit, and the unit does not come
to hold its target. A cut sub-pulse may have set bits of its unit, and no other bit, and the unit does not come to be erased
(R105, R115). -/
def State.cutLeaves (s t : State) : Prop :=
  (s.pulseInProgress = false → t.array = s.array) ∧
  (∀ u ab p, s.arrPort.access = some (.store (.pulse u) ab) → s.progOp = some p →
    (∀ a k, (t.array.read a).getLsbD k = true → (s.array.read a).getLsbD k = true) ∧
      (∀ a, (∀ j, j ∈ p.set → a ≠ p.place.base + j) → t.array.read a = s.array.read a) ∧
      (∀ j k, j ∈ p.set → (byteAt p.target j).getLsbD k = true →
        (t.array.read (p.place.base + j)).getLsbD k = (s.array.read (p.place.base + j)).getLsbD k) ∧
      (s.rawBytes p.place ≠ p.target → t.rawBytes p.place ≠ p.target)) ∧
  ∀ u ab, s.arrPort.access = some (.store (.subPulse u) ab) →
    (∀ a k, (s.array.read a).getLsbD k = true → (t.array.read a).getLsbD k = true) ∧
      (∀ a, a < u.base ∨ u.base + u.size ≤ a → t.array.read a = s.array.read a) ∧
      ((∃ k, k < u.size ∧ s.array.read (u.base + k) ≠ 0xFF) → ∃ k, k < u.size ∧ t.array.read (u.base + k) ≠ 0xFF)

/-- What a cut during the programming of a record slot leaves there: a slot whose completion marker was being programmed is
spoiled, and one whose body was being programmed is not valid (R115, R142, R147). -/
def State.cutSlots (s t : State) : Prop :=
  ∀ u ab p ar n r, s.arrPort.access = some (.store (.pulse u) ab) → s.progOp = some p → p.place = .slot ar n →
    (∀ m, m ≠ 0 → p.target = recordBytes r 0 → s.rawBytes (.slot ar n) = recordBytes r m →
      classify (t.rawBytes (.slot ar n)) = .spoiled) ∧
    (p.target = recordBytes r 0xFF → byteAt (s.rawBytes (.slot ar n)) 15 ≠ 0 →
      ∀ q, classify (t.rawBytes (.slot ar n)) ≠ .valid q)

/-- What a frame start settles before the first latch, but for the marquee advance, from the state `s` before it to the state
`t` after it (R17, R26 to R29, R99, R100). -/
def State.frameOpened (s t : State) : Prop :=
  t.scan.cfg = { panelw := s.ctl.panelw, vislines := s.ctl.vislines, hblank := s.ctl.hblank, vblank := s.ctl.vblank,
                 cellw := s.ctl.cellw, blinkp := s.ctl.blinkp } ∧
  t.scan.headact = (if s.scan.swapPending then s.scan.headpend else s.scan.headact) ∧ t.scan.swapPending = false ∧
  (s.scan.swapPending = true → t.irq.isSet .swap = true) ∧
  (s.store.engine ≠ .starting → t.scan.displayMap = s.store.storeMap ∧
    ∀ b : Bank, (t.store.roles.get b).role =
      if (s.store.roles.get b).role = .spareDraining then .spareDirty else (s.store.roles.get b).role) ∧
  (s.store.engine = .starting → t.scan.displayMap = s.scan.displayMap ∧ t.store.roles = s.store.roles) ∧
  (s.scan.blinkCount < s.ctl.blinkp.toNat →
    t.scan.blinkCount = s.scan.blinkCount + 1 ∧ t.scan.blinkOn = s.scan.blinkOn) ∧
  (s.ctl.blinkp.toNat ≤ s.scan.blinkCount → t.scan.blinkCount = 1 ∧ t.scan.blinkOn = !s.scan.blinkOn) ∧
  t.scan.framecnt = s.scan.framecnt + 1 ∧ t.irq.isSet .frame = true ∧ t.scan.pos = .vblank 0 ∧
  t.scan.enabled = true ∧ t.scan.latecnt = s.scan.latecnt ∧ t.scan.lsel = s.scan.lsel ∧
  t.ctl = s.ctl ∧ t.cells = s.cells ∧ t.attrs = s.attrs ∧ t.patch = s.patch ∧ t.patchValid = s.patchValid ∧
  t.array = s.array ∧ t.mover = s.mover ∧ t.svc = s.svc ∧ t.store.queue = s.store.queue ∧
  t.store.results = s.store.results ∧ t.store.storeMap = s.store.storeMap ∧ t.store.staging = s.store.staging

/-- What a frame start settles before the first latch, the marquee advance included (R17, R20, R26 to R29, R99, R100). -/
def State.frameSettled (s t : State) : Prop :=
  s.frameOpened t ∧ t.descs = advanceMarquees s.ctl.cellw.toNat s.descs

/-- The checks that a latch makes against the frame's CELLW (R10). -/
def Descriptor.latchOk (d : Descriptor) (cellw : Nat) : Prop :=
  d.first + d.count ≤ 16 ∧
    (d.hide = false →
      1 ≤ d.width ∧ d.width ≤ 64 ∧
        (d.marquee = false → d.base ≤ 4095 ∧ d.pan < cellw) ∧
        (d.marquee = true →
          d.ringBase ≤ 4095 ∧ 1 ≤ d.ringLen ∧ 1 ≤ d.stepDots ∧ d.stepDots ≤ cellw ∧ 1 ≤ d.interval))

/-- The cell that entry `j` of instance `k` shows: a run of the cell store, or the ring from the effective position on (R5,
R7). -/
def Descriptor.shownCell (d : Descriptor) (cellw k j : Nat) : CellAddr :=
  BitVec.ofNat 12
    (if d.marquee then d.ringBase + (d.posCell + d.posDot / cellw + j) % d.ringLen else d.base + k * d.width + j)

/-- What the latch of instance `k` of descriptor `index` of table `m` into the empty loading buffer leaves, with the frame's
CELLW and the cell port `p` as it stood at the latch. A copy that fails its checks is the list fault BAD_FIELD. A HIDE instance
is complete at once. Any other begins to load: entry 0 is FILLING, and the read of its cell is presented, or put off while an
access of an abandoned load is still in progress (R5, R7, R8, R10, R12, R13, R70, R73). -/
def State.latches (s t : State) (p : CellPort) (m : Memory) (cellw index k : Nat) : Prop :=
  let d := readDescriptor m index
  (¬d.latchOk cellw →
    t.irq.isSet .listFault = true ∧ t.scan.listCode = .badField ∧ t.scan.listIndex = BitVec.ofNat 8 index ∧
      t.rows.loader = .resting ∧ t.rows.work = none ∧ t.rows.loading = none ∧ t.cellPort = p) ∧
  (d.latchOk cellw →
    t.scan.listCode = s.scan.listCode ∧ t.scan.listIndex = s.scan.listIndex ∧
      t.irq.isSet .listFault = s.irq.isSet .listFault ∧
      ∃ i, t.rows.loading = some i ∧ i.index = index ∧ i.number = k ∧ i.desc = d ∧
        (d.hide = true → i.entries = [] ∧ t.rows.loader = .resting ∧ t.rows.work = none ∧ t.cellPort = p) ∧
        (d.hide = false →
          i.pan = (if d.marquee then d.posDot % cellw else d.pan) ∧
            i.entries.map Entry.state = .filling :: List.replicate (d.width - 1) .empty ∧
            i.addrs = (List.range d.width).map (d.shownCell cellw k) ∧ t.rows.loader = .loading ∧
            t.rows.work = some { entry := 0, addr := d.shownCell cellw k 0, phase := .cellRead } ∧
            t.cellPort = if s.loaderAccess then p else { p with loaderWait := some (d.shownCell cellw k 0) }.grant))

/-- The first latch of a frame, when the head is not END (R8). -/
def State.latchesHead (s t : State) : Prop :=
  t.scan.headact ≠ 0xFF → s.latches t s.cellPort t.descs t.scan.cfg.cellw.toNat t.scan.headact.toNat 0

/-- LISTFLT and the LISTFAULT flag are as they were. -/
def State.noListFault (s t : State) : Prop :=
  t.scan.listCode = s.scan.listCode ∧ t.scan.listIndex = s.scan.listIndex ∧
    t.irq.isSet .listFault = s.irq.isSet .listFault

/-- The first latch of a frame has been made: with END at the head nothing is latched, and otherwise the head's descriptor is
latched as the table then stands (R8, R14). -/
def State.headLatched (s t : State) : Prop :=
  t.scan.latchDue = false ∧
    (t.scan.headact = 0xFF →
      t.rows = { s.rows with loader := .resting, work := none } ∧ t.cellPort = s.cellPort ∧ s.noListFault t) ∧
    (s.rows.loading = none → s.latchesHead t)

/-- The rows of the table that take a write strobe at port 4, and so may write a descriptor byte (R166). -/
def mayWriteData : Instr → Bool
  | .registerWrite port _ => decide (port = 4)
  | .iflagClear port _ => decide (port = 4)
  | .displayEnable _ => true
  | .displayDisable _ => true
  | .panelwLowByteWrite _ => true
  | .panelwHighByteWrite _ => true
  | .cellLowByteWrite _ => true
  | .cellHighByteWrite _ => true
  | .descriptorByteWrite _ => true
  | .attributeByteWrite _ => true
  | .patchSlotWrite _ => true
  | .heldWindowAccess => true
  | _ => false

/-- The rows of the pins of power, reset and supply. -/
def isPinEvent : Instr → Bool
  | .powerOn => true
  | .reset => true
  | .resetRelease _ => true
  | .lowvAsserted => true
  | .lowvReleased => true
  | _ => false

/-- The slot after a slot of an area, NONE after slot 7 (R145, R146). -/
def afterSlot (n : Fin 8) : Option (Fin 8) := if h : n.val + 1 < 8 then some ⟨n.val + 1, h⟩ else none

/-- The map area that does not hold the latest record, area A when there is none: the one to erase (R144). -/
def Journal.spareArea (j : Journal) : Area :=
  match j.latest with
  | some (.a, _) => .b
  | some (.b, _) => .a
  | none => .a

/-- What the engine has put off after it has come to the point of presenting request `r` (R107). -/
def State.putsOff (s : State) (r : StoreReq) : Option StoreReq := if s.storeBusy then some r else s.store.deferred

/-- The port that a request of the store engine leaves, as the arbiter decides it at the request: it is put off while a
discarded read of the engine is still in progress; it waits behind any other access in progress and behind a waiting read of
the loader; and a pulse or sub-pulse waits while the loader is LOADING (R107, R108). -/
def State.presents (s t : State) (r : StoreReq) : Prop :=
  t.store.deferred = s.putsOff r ∧ (s.storeBusy = true → t.arrPort = s.arrPort) ∧
    (∀ acc, s.storeBusy = false → s.arrPort.access = some acc → t.arrPort = { s.arrPort with storeWait := some r }) ∧
    (∀ g, s.arrPort.access = none → s.arrPort.loaderWait = some g →
      t.arrPort = { loaderWait := none, storeWait := some r, access := some (.loader g false) }) ∧
    (s.arrPort.access = none → s.arrPort.loaderWait = none → ((∃ u, r = .read u) ∨ s.rows.loader ≠ .loading) →
      t.arrPort = { loaderWait := none, storeWait := none, access := some (.store r false) }) ∧
    (s.arrPort.access = none → s.arrPort.loaderWait = none → (∀ u, r ≠ .read u) → s.rows.loader = .loading →
      t.arrPort = { loaderWait := none, storeWait := some r, access := none })

/-- The arbiter's choice among what waits in `p`, a port with no access in progress: a read of the loader first; a store read
that waits alone; a pulse or sub-pulse that waits alone while the loader is not LOADING, which its operation counts; and nothing
otherwise (R108, R110, R111). The loader's state is that of `t`. -/
def State.arbitrates (s t : State) (p : ArrayPort) : Prop :=
  (∀ g, p.loaderWait = some g →
    t.arrPort = { p with loaderWait := none, access := some (.loader g false) } ∧
      t.store.inFlight = s.store.inFlight) ∧
  (∀ r, p.loaderWait = none → p.storeWait = some r → ((∃ u, r = .read u) ∨ t.rows.loader ≠ .loading) →
    t.arrPort = { p with storeWait := none, access := some (.store r false) } ∧
      ((∃ u, r = .read u) → t.store.inFlight = s.store.inFlight) ∧
      (∀ u f q, r = .pulse u → s.store.inFlight = some f → f.prog = some q →
        t.store.inFlight = some { f with prog := some { q with pulses := q.pulses + 1 } }) ∧
      ∀ u f e, r = .subPulse u → s.store.inFlight = some f → f.erase = some e →
        t.store.inFlight = some { f with erase := some { e with given := e.given + 1 } }) ∧
  (∀ r, p.loaderWait = none → p.storeWait = some r → (∀ u, r ≠ .read u) → t.rows.loader = .loading →
    t.arrPort = p ∧ t.store.inFlight = s.store.inFlight) ∧
  (p.loaderWait = none → p.storeWait = none → t.arrPort = p ∧ t.store.inFlight = s.store.inFlight)

/-- What the row loader leaves at the array port at a late row, a disable or a DISPLAY RESET: its waiting read is withdrawn, a
read of it in progress is abandoned, and with no access in progress the arbiter chooses among what remains, which may be a pulse
that the load had held back (R79, R81, R108, R109). -/
def State.loaderQuits (s t : State) : Prop :=
  (∀ g ab, s.arrPort.access = some (.loader g ab) →
    t.arrPort = { s.arrPort with loaderWait := none, access := some (.loader g true) }) ∧
  (∀ r ab, s.arrPort.access = some (.store r ab) → t.arrPort = { s.arrPort with loaderWait := none }) ∧
  (s.arrPort.access = none → s.arbitrates t { s.arrPort with loaderWait := none })

/-- The cell port after the loader has withdrawn its waiting request and abandoned its access (R24, R47, R79, R81). -/
def CellPort.withoutLoader (p : CellPort) : CellPort :=
  { p with
    loaderWait := none
    access := p.access.map fun acc => if acc.who = .rowLoader then { acc with abandoned := true } else acc }

/-- The command in flight `f` ends with the record `r` pushed: RESULT is set, and the record carries what identifies the
command and the bank concerned (R123). -/
def State.pushed (s t : State) (f : InFlight) (r : ResultRec) : Prop :=
  t.store.results = s.store.results ++ [r] ∧ t.irq.isSet .result = true ∧ r.seq = f.entry.seq ∧ r.kind = f.entry.kind ∧
    r.submitter = f.entry.submitter ∧ r.generation = t.store.journal.generation ∧
    (∀ b, r.phys = some b → r.eraseCount = (t.store.roles.get b).count ∧ r.estimated = (t.store.roles.get b).estimated) ∧
    (r.phys = none → r.eraseCount = 0 ∧ r.estimated = false)

/-- The command in flight completes DONE, and the head of the queue starts if it can (R122, R123). -/
def State.completes (s t : State) (f : InFlight) (phys : Option Bank) (detail checkval : Word16) (image : List Byte) :
    Prop :=
  (∃ r, s.pushed t f r ∧ r.outcome = .done ∧ r.error = .none ∧ r.phys = phys ∧ r.discarded = 0 ∧ r.detail = detail ∧
      r.checkval = checkval ∧ r.image = image) ∧
    (s.store.queue = [] → t.store.engine = .idle ∧ t.store.wait = .none ∧ t.store.inFlight = none ∧ t.store.queue = []) ∧
    (∀ e q, s.store.queue = e :: q → s.store.results.length < 3 →
      t.store.engine = .running ∧ t.store.wait = .none ∧ t.store.queue = q ∧
        t.store.inFlight = some { entry := e, stage := .fresh, prog := none, erase := none, mapw := none }) ∧
    (s.store.queue ≠ [] → 3 ≤ s.store.results.length →
      t.store.engine = .waiting ∧ t.store.wait = .resultSpace ∧ t.store.inFlight = none ∧ t.store.queue = s.store.queue)

/-- The command in flight fails: its record is pushed, the queue is discarded, and the engine halts (R123, R136). -/
def State.halts (s t : State) (f : InFlight) (e : ErrCode) (phys : Option Bank) (detail : Word16) : Prop :=
  (∃ r, s.pushed t f r ∧ r.outcome = .failed ∧ r.error = e ∧ r.phys = phys ∧ r.discarded = s.store.queue.length ∧
      r.detail = detail ∧ r.checkval = 0 ∧ r.image = List.replicate 16 0) ∧
    t.store.engine = .halted ∧ t.store.wait = .none ∧ t.store.queue = [] ∧ t.store.inFlight = none ∧
    t.irq.isSet .halt = true ∧ (s.store.queue.length = 4 → t.irq.isSet .qspace = true)

/-- Exactly the role of bank `b` changes, to `r`; every erase count and estimated mark stays (R116). -/
def State.onlyRole (s t : State) (b : Bank) (r : Role) : Prop :=
  ∀ c : Bank, t.store.roles.get c = if c = b then { s.store.roles.get c with role := r } else s.store.roles.get c

/-- What a cut of the command in flight `f` leaves of the maps, the roles, the staging and the journal (second table of R138;
R127, R139, R147). A CLONE or PROGRAM loses its staging, and its bank becomes SPARE-DIRTY. A map write on whose slot a pulse has
been given passes that slot over. Nothing else changes. -/
def State.cutOutcome (s t : State) (f : InFlight) : Prop :=
  let filling := (∃ i total, f.stage = .cloning i total) ∨ f.stage = .programming
  let slotCut := fun m : MapOp => (f.stage = .committing ∨ ∃ b cause, f.stage = .retiring b cause) ∧ f.mapw = some m ∧
    m.stage ≠ .areaErase ∧ ∃ p, f.prog = some p ∧ 1 ≤ p.pulses
  t.store.storeMap = s.store.storeMap ∧ t.store.journal.generation = s.store.journal.generation ∧
    t.store.journal.latest = s.store.journal.latest ∧ t.store.journal.retiredMask = s.store.journal.retiredMask ∧
    t.store.journal.active = s.store.journal.active ∧
    (filling → t.store.staging = none ∧ ∀ g, s.store.staging = some g → s.onlyRole t g.bank .spareDirty) ∧
    (¬filling → t.store.staging = s.store.staging ∧ t.store.roles = s.store.roles) ∧
    (∀ m, slotCut m → t.store.journal.next = afterSlot m.slot) ∧
    ((∀ m, ¬slotCut m) → t.store.journal.next = s.store.journal.next)

/-- The bank that a record of a cut names: the staging bank of a CLONE, PROGRAM or COMMIT, and the bank being erased, retired
or read back (R123). -/
def State.cutNames (s : State) (f : InFlight) (phys : Option Bank) : Prop :=
  ((∃ i total, f.stage = .cloning i total) ∨ f.stage = .programming ∨ f.stage = .committing →
      phys = s.store.staging.map Staging.bank) ∧
    (∀ b, f.stage = .erasing b ∨ (∃ cause, f.stage = .retiring b cause) ∨ f.stage = .reading b ∨
      (∃ i sum, f.stage = .summing b i sum) → phys = some b) ∧
    (f.stage = .fresh ∨ f.stage = .draining → phys = none)

/-- The command in flight `f` is ended by supply: it fails with SUPPLY_LOW, or keeps ERASE_FAILED when it was making a
retirement's map write; the queue is discarded and the engine halts; and the banks, the staging and the journal are left as for an
abort at the same point (R114, R123, R127, R136, R139). -/
def State.endsBySupply (s t : State) (f : InFlight) : Prop :=
  (∃ r, s.pushed t f r ∧ r.outcome = .failed ∧ r.discarded = s.store.queue.length ∧
    (∀ b cause, f.stage = .retiring b cause →
      r.error = .eraseFailed ∧ r.phys = some b ∧ r.detail = word16 1 cause) ∧
    ((∀ b cause, f.stage ≠ .retiring b cause) → r.error = .supplyLow ∧ r.detail = 0 ∧ s.cutNames f r.phys)) ∧
    s.cutOutcome t f ∧ t.store.engine = .halted ∧ t.store.wait = .none ∧ t.store.queue = [] ∧
    t.store.inFlight = none ∧ t.irq.isSet .halt = true

/-- CLONE goes on after index `i` has joined WRITTEN: the next index that its mask does not skip is read from the target's
present bank, or the command completes with the pulses of all its glyphs (R128). `s` is the state with the port free. -/
def State.cloneGoesOn (s t : State) (f : InFlight) (g : Staging) (skip : BitVec 64) (i total : Nat) : Prop :=
  t.store.staging = some { g with written := g.written ||| (1#64 <<< i) } ∧ t.array = s.array ∧
    (∀ k, i < k → k < 64 → skip.getLsbD k = false → (∀ j, i < j → j < k → skip.getLsbD j = true) →
      s.presents t (.read (.glyph (s.store.storeMap.get g.target) k)) ∧
        t.store.inFlight = some { f with stage := .cloning k total, prog := none } ∧
        t.store.results = s.store.results) ∧
    ((∀ k, i < k → k < 64 → skip.getLsbD k = true) →
      s.completes t f (some g.bank) (BitVec.ofNat 16 total) 0 (List.replicate 16 0))

/-- The state with no access in progress at the array port, as it stands when the arbiter looks at what waits (R108). -/
def State.portFree (s : State) : State := { s with arrPort := { s.arrPort with access := none } }

/-- The program unit of the prewrite's operation `k`: the glyphs of a bank and then its header, or the slots of an area
(R111). -/
def prewriteTarget (u : EraseUnit) (k : Nat) : ArrUnit :=
  match u with
  | .bank b => if k < 64 then .glyph b k else .header b
  | .area ar => .slot ar k

/-- The bytes of a prewrite's operation `k` (R104, R111). -/
def prewriteSize (u : EraseUnit) (k : Nat) : Nat :=
  match u with
  | .bank _ => if k < 64 then 16 else 4
  | .area _ => 16

/-- The program operation of a prewrite: every byte of its unit is to become raw 00H (R110, R111). -/
def prewriteOp (u : EraseUnit) (k pulses : Nat) : ProgOp :=
  { place := prewriteTarget u k, target := List.replicate (prewriteSize u k) 0, set := List.range (prewriteSize u k)
    pulses := pulses, phase := .pulsing }

/-- The places of the bytes of a target that are not FFH raw, which a program operation begins with (R110). -/
def pulsedPlaces (target : List Byte) : List Nat :=
  (List.range target.length).filter fun k => decide (byteAt target k ≠ 0xFF)

/-- A pulse count after its request: one more when the pulse was granted at once (R110, R111). -/
def State.countsGrant (t : State) (r : StoreReq) (before n : Nat) : Prop :=
  n = if t.arrPort.access = some (.store r false) ∧ t.arrPort.storeWait = none then before + 1 else before

/-- A map write begins with the erase of an area: the first operation of the prewrite is presented (R110, R111, R144). `m` is
the map write. -/
def State.erasesArea (s t : State) (f : InFlight) (m : MapOp) : Prop :=
  let ar := s.store.journal.spareArea
  s.presents t (.pulse (.slot ar 0)) ∧
    ∃ n, t.countsGrant (.pulse (.slot ar 0)) 0 n ∧
      t.store.inFlight = some { f with
        prog := some (prewriteOp (.area ar) 0 n)
        erase := some { target := .area ar, stage := .prewrite 0, pace := 0, given := 0 }
        mapw := some { m with stage := .areaErase, area := ar } }

/-- The fields that the kind in the composition space uses, copied as they stand (table of R120, layout of space 5). -/
def State.copies (s : State) (body : CmdBody) : Prop :=
  let kind := (s.compByte 0).toNat
  (kind = 1 → body = .stageBank (s.compByte 1)) ∧
    (kind = 2 → ∃ skip : BitVec 64, body = .clone skip ∧
      ∀ i, i < 64 → skip.getLsbD i = (s.compByte (5 + i / 8)).getLsbD (i % 8)) ∧
    (kind = 3 → body = .program (s.compByte 2) ((List.range 16).map fun k => s.compByte (13 + k))) ∧
    (kind = 4 → body = .commit) ∧ (kind = 5 → body = .abandon) ∧ (kind = 6 → body = .scrub) ∧
    (kind = 7 → body = .readGlyph (word16 (s.compByte 4) (s.compByte 3))) ∧
    (kind = 8 → body = .check (s.compByte 1)) ∧ (kind = 0 ∨ 8 < kind → body = .unknown)

/-- The error codes of results and N replies (error code table of chapter 11). -/
def errorCodes : List (ErrCode × Byte) :=
  [(.none, 0x00), (.badKind, 0x01), (.badLogical, 0x02), (.badIndex, 0x03), (.badCode, 0x04), (.stagingBusy, 0x05),
    (.noStaging, 0x06), (.cloneLate, 0x07), (.alreadyWritten, 0x08), (.noSpare, 0x09), (.eraseFailed, 0x0A),
    (.programFailed, 0x0B), (.mapWriteFailed, 0x0C), (.supplyLow, 0x0D), (.badLength, 0x20), (.badCheck, 0x21),
    (.timeout, 0x22), (.queueFull, 0x23), (.queueHalted, 0x24), (.stagingOpen, 0x25)]

/-- The fault codes of WINFAULT (table of R172). -/
def faultCodes : List (WinFault × Byte) :=
  [(.none, 0x00), (.badCommand, 0x01), (.range, 0x02), (.readOnly, 0x03), (.badValue, 0x04), (.pair, 0x05),
    (.patchDup, 0x06), (.moverBusy, 0x07), (.queueFull, 0x08), (.queueHalted, 0x09), (.portOwned, 0x0A),
    (.resultEmpty, 0x0B), (.serviceMode, 0x0C)]

/-- The place of each interrupt flag: in IFLAG1 or in IFLAG0, and its bit there (table of R173). -/
def flagPlaces : List (Flag × Bool × Nat) :=
  [(.frame, false, 0), (.rowmark, false, 1), (.swap, false, 2), (.listFault, false, 3), (.lateRow, false, 4),
    (.mover, false, 5), (.winFault, false, 6), (.startDone, false, 7), (.result, true, 0), (.halt, true, 1),
    (.qspace, true, 2), (.lowv, true, 3), (.service, true, 4), (.retire, true, 5), (.mapDefault, true, 6)]

/-- A DATA read drives the byte `b`, steps the window address and changes nothing else (R168, R169). -/
def State.drives (s : State) (b : Byte) : Prop :=
  exec .dataRead s = .next { s with win := { s.win with addr := s.win.addr + 1, dataOut := b } }

/-- A DATA strobe is taken at once and falls at byte `a` of space 7, in either mode (R153, R166). -/
abbrev State.statusAt (s : State) (a : Nat) : Prop := s.windowFree ∧ s.win.space = 7 ∧ s.win.addr.toNat = a

/-- A started command with this body, taken up by its row, fails its checks with this error (R120, R126, R128 to R130, R132,
R134, R135). -/
inductive State.FailsCheck (s : State) : Instr → CmdBody → ErrCode → Prop where
  | unknown : s.FailsCheck .badKind .unknown .badKind
  | beginLogical (v : Byte) : 13 < v.toNat → s.FailsCheck .cmdBegin (.stageBank v) .badLogical
  | beginBusy (v : Byte) : v.toNat ≤ 13 → s.store.staging.isSome = true →
      s.FailsCheck .cmdBegin (.stageBank v) .stagingBusy
  | beginNoSpare (v : Byte) : v.toNat ≤ 13 → s.store.staging = none →
      (∀ b : Bank, (s.store.roles.get b).role ≠ .spareClean ∧ (s.store.roles.get b).role ≠ .spareDirty ∧
        (s.store.roles.get b).role ≠ .spareDraining) →
      s.FailsCheck .cmdBegin (.stageBank v) .noSpare
  | cloneNone (skip : BitVec 64) : s.store.staging = none → s.FailsCheck .cmdClone (.clone skip) .noStaging
  | cloneLate (skip : BitVec 64) (g : Staging) : s.store.staging = some g → g.filling = true →
      s.FailsCheck .cmdClone (.clone skip) .cloneLate
  | programIndex (i : Byte) (image : List Byte) : 63 < i.toNat → s.FailsCheck .cmdProgram (.program i image) .badIndex
  | programNone (i : Byte) (image : List Byte) : i.toNat ≤ 63 → s.store.staging = none →
      s.FailsCheck .cmdProgram (.program i image) .noStaging
  | programWritten (i : Byte) (image : List Byte) (g : Staging) : i.toNat ≤ 63 → s.store.staging = some g →
      g.written.getLsbD i.toNat = true → s.FailsCheck .cmdProgram (.program i image) .alreadyWritten
  | commitNone : s.store.staging = none → s.FailsCheck .cmdCommit .commit .noStaging
  | abandonNone : s.store.staging = none → s.FailsCheck .cmdAbandon .abandon .noStaging
  | badCode (code : Word16) : 14 ≤ code.toNat / 64 → s.FailsCheck .cmdReadglyph (.readGlyph code) .badCode
  | checkLogical (v : Byte) : 13 < v.toNat → s.FailsCheck .cmdCheck (.check v) .badLogical

/-- Of the banks with role `r`, bank `b` has the lowest erase count, and of equals the lowest number (R117). -/
def State.lowestOf (s : State) (r : Role) (b : Bank) : Prop :=
  (s.store.roles.get b).role = r ∧ ∀ c : Bank, (s.store.roles.get c).role = r →
    (s.store.roles.get b).count.toNat < (s.store.roles.get c).count.toNat ∨
      ((s.store.roles.get b).count = (s.store.roles.get c).count ∧ b.val ≤ c.val)

/-- No bank has role `r`. -/
def State.noBank (s : State) (r : Role) : Prop := ∀ b : Bank, (s.store.roles.get b).role ≠ r

/-- The state in which the erase of spare `b` has presented the first pulse of its prewrite, for the command `f` in flight
(R110, R111). A pulse that is granted at once has been counted. -/
def State.erasesSpare (s t : State) (f : InFlight) (b : Bank) : Prop :=
  s.presents t (.pulse (.glyph b 0)) ∧
    ∃ n, t.store.inFlight = some { f with
      stage := .erasing b
      erase := some { target := .bank b, stage := .prewrite 0, pace := 0, given := 0 }
      prog := some { place := .glyph b 0, target := List.replicate 16 0, set := List.range 16, pulses := n
                     phase := .pulsing } } ∧
      (n = if t.arrPort.access = some (.store (.pulse (.glyph b 0)) false) ∧ t.arrPort.storeWait = none then 1 else 0)

/-- The record of a valid slot with the highest generation stands at place `n` of the reading order, and no slot read
before it has that generation (R149). -/
def adoptedAt (slots : List SlotClass) (n : Nat) (r : MapRecord) : Prop :=
  slots[n]? = some (.valid r) ∧
    ∀ m q, slots[m]? = some (.valid q) →
      q.generation.toNat < r.generation.toNat ∨ (q.generation = r.generation ∧ n ≤ m)

/-- KIND, LENGTH and payload of a record as a station sends it (R158). -/
def Record.wire : Record → List Byte
  | .b l => [0x42, 1, l]
  | .c skip => [0x43, 8] ++ bytesOf skip 8
  | .g i image => [0x47, 17, i] ++ image
  | .m => [0x4D, 0]
  | .a => [0x41, 0]
  | .q => [0x51, 0]
  | .e => [0x45, 0]

/-- The transmitter sends a reply with this letter and payload, its flags byte the two notes as `s` holds them, and the sum
of its bytes after 7EH is 00H; both notes are clear (R163). -/
def State.replies (s t : State) (letter : Byte) (payload : List Byte) : Prop :=
  (∃ flags check : Byte, t.svc.sending.map TxSending.bytes =
      some ([0x7E, letter, BitVec.ofNat 8 (payload.length + 1)] ++ payload ++ [flags, check]) ∧
    (∀ k, flags.getLsbD k = ((decide (k = 0) && s.svc.inputDropped) || (decide (k = 1) && s.svc.replyLost))) ∧
    byteSum ([letter, BitVec.ofNat 8 (payload.length + 1)] ++ payload ++ [flags, check]) = 0) ∧
    t.svc.inputDropped = false ∧ t.svc.replyLost = false

/-- An N reply with this code begins, and last error holds the code (R163). -/
def State.repliesN (s t : State) (e : ErrCode) : Prop := s.replies t 0x4E [e.code] ∧ t.svc.lastError = e

/-- The item that begins or, behind one being sent, waits (R156). -/
def State.queuesReply (s t : State) (letter : Byte) (payload : List Byte) (acks closes : Bool) : Prop :=
  (s.svc.sending = none → s.replies t letter payload ∧
    t.svc.sending.map TxSending.item = some (.reply letter payload acks closes)) ∧
  (s.svc.sending.isSome = true → s.svc.waiting = none →
    t.svc.waiting = some (.reply letter payload acks closes) ∧ t.svc.sending = s.svc.sending) ∧
  (s.svc.sending.isSome = true → s.svc.waiting.isSome = true →
    t.svc.waiting = s.svc.waiting ∧ t.svc.sending = s.svc.sending ∧ t.svc.replyLost = true)

/-- The command in flight `f` is the loader's outstanding command, with this mark, and a place of the results queue is held
for its result (R122, R160). -/
def State.loaderAwaits (s : State) (f : InFlight) (m : SvcMark) : Prop :=
  s.store.inFlight = some f ∧ f.entry.submitter = .loader ∧ s.svc.outstanding = some (f.entry.seq, m) ∧
    s.store.results.length < 4

/-- The loader removes the result of its command that ends DONE: the results queue is as before, the head of the queue starts,
and a K reply is queued in READY, or nothing is said for a SILENT command (R122, R124, R160, R162). -/
def State.loaderDone (s t : State) (m : SvcMark) : Prop :=
  t.store.results = s.store.results ∧ t.svc.outstanding = none ∧ t.irq.isSet .result = true ∧
    (s.store.queue = [] → t.store.engine = .idle ∧ t.store.wait = .none ∧ t.store.inFlight = none) ∧
    (∀ e q, s.store.queue = e :: q → t.store.engine = .running ∧ t.store.wait = .none ∧ t.store.queue = q ∧
      t.store.inFlight = some { entry := e, stage := .fresh, prog := none, erase := none, mapw := none }) ∧
    (m = .reply → t.svc.state = .ready ∧ s.queuesReply t 0x4B [] false false) ∧
    (m = .silent → t.svc = { s.svc with outstanding := none })

/-- The loader removes the result of its command that ends FAILED: the queue is discarded; with the mark REPLY an N reply with
the error is queued in READY, and the halt stands until that reply has been sent; with the mark SILENT, or when the reply is
not sent, the halt is acknowledged at once (R136, R160, R162). -/
def State.loaderFailed (s t : State) (e : ErrCode) (m : SvcMark) : Prop :=
  t.store.results = s.store.results ∧ t.svc.outstanding = none ∧ t.irq.isSet .result = true ∧
    t.irq.isSet .halt = true ∧ t.store.queue = [] ∧ t.store.inFlight = none ∧ t.store.wait = .none ∧
    (m = .reply → t.svc.state = .ready ∧ t.svc.lastError = e ∧ s.queuesReply t 0x4E [e.code] true false ∧
      t.store.engine = if s.svc.sending.isSome && s.svc.waiting.isSome then .idle else .halted) ∧
    (m = .silent → t.store.engine = .idle ∧ t.svc = { s.svc with outstanding := none })

/-- The status payload of the K reply to Q, built from this state: generation, counts of clean and dirty spares, the mask of
RETIRED banks, staging STATE and TARGET (R163). -/
def State.statusPayload (t : State) (payload : List Byte) : Prop :=
  ∃ mask : Word16, (∀ b : Bank, mask.getLsbD b.val = decide ((t.store.roles.get b).role = .retired)) ∧
    payload =
      [byteOf t.store.journal.generation 0, byteOf t.store.journal.generation 1, byteOf t.store.journal.generation 2,
        BitVec.ofNat 8 ((List.finRange 16).filter fun b => decide ((t.store.roles.get b).role = .spareClean)).length,
        BitVec.ofNat 8 ((List.finRange 16).filter fun b => decide ((t.store.roles.get b).role = .spareDirty)).length,
        byteOf mask 0, byteOf mask 1] ++
      (match t.store.staging with
        | none => [0, 0xFF]
        | some g => [if g.filling then 2 else 1, BitVec.ofNat 8 g.target.val])

/-- A Q record is answered from the state `t` (R160, R163). -/
def State.answersQ (s t : State) : Prop :=
  t.svc.state = .ready ∧ ∃ payload, t.statusPayload payload ∧ s.replies t 0x4B payload

/-- An E record is answered by the staging of the state `t` (R160, R164). -/
def State.answersE (s t : State) : Prop :=
  (t.store.staging = none → t.svc.state = .closing ∧ s.replies t 0x4B [] ∧
    ∃ x, t.svc.sending = some x ∧ x.item.ends = true) ∧
  (t.store.staging.isSome = true → t.svc.state = .ready ∧ s.repliesN t .stagingOpen)

/-- The record being received is refused: it is counted, READY is entered, and an N reply begins (R158, R159). -/
def State.refusesRecord (s t : State) (e : ErrCode) : Prop :=
  s.repliesN t e ∧ t.svc.state = .ready ∧ t.svc.byteTimer = false ∧ t.svc.refused = s.svc.refused + 1 ∧
    t.svc.accepted = s.svc.accepted ∧ t.svc.due = s.svc.due ∧ t.svc.outstanding = s.svc.outstanding ∧
    t.store = s.store ∧ t.irq = s.irq ∧ t.part = s.part

/-- The store command of a store record, by the row that acts on it (R120, R160). -/
def storeRow : Instr → Record → Option (Byte × CmdBody)
  | .bRecord, .b l => some (1, .stageBank l)
  | .cRecord, .c skip => some (2, .clone skip)
  | .gRecord, .g i image => some (3, .program i image)
  | .mRecord, .m => some (4, .commit)
  | .aRecord, .a => some (5, .abandon)
  | _, _ => none

/-- Visible line `n` begins at the next LINE_START: line 0 after the last blank line, or the line after the blank dots of a
visible line (R25). -/
def State.lineDue (s : State) (n : Nat) : Prop :=
  (∃ k, s.scan.pos = .vblank k ∧ s.scan.cfg.vblank.toNat ≤ k + 1 ∧ n = 0) ∨
    ∃ k, s.scan.pos = .visible k ∧ s.scan.part = .blankDots ∧ n = k + 1 ∧ n < s.scan.cfg.vislines.toNat

/-! ## Invariants -/

/-- The queue holds at most 4 entries and none while HALTED, and the results with the held place never exceed 4 (R121,
R122). -/
def State.queuesFit (s : State) : Prop :=
  s.store.queue.length ≤ 4 ∧ s.store.results.length + (if s.store.inFlight.isSome then 1 else 0) ≤ 4 ∧
    (s.store.engine = .halted → s.store.queue = [])

/-- No two valid patch slots hold the same code (R94). -/
def State.patchCodesDistinct (s : State) : Prop :=
  ∀ m n, m < 16 → n < 16 → m ≠ n → s.patchValid.getLsbD m = true → s.patchValid.getLsbD n = true →
    patchCode s.patch m ≠ patchCode s.patch n

/-- Every memory has its canonical form. -/
def State.memoriesCanonical (s : State) : Prop :=
  s.cells.wf = true ∧ s.descs.wf = true ∧ s.attrs.wf = true ∧ s.patch.wf = true ∧ s.array.wf = true

/-- The frame registers, PACE and CURSTY hold accepted values (R35, R84, R113). -/
def Control.inRange (c : Control) : Prop :=
  8 ≤ c.panelw.toNat ∧ c.panelw.toNat ≤ 512 ∧ 1 ≤ c.vislines.toNat ∧ c.vislines.toNat ≤ 128 ∧ 8 ≤ c.hblank.toNat ∧
    1 ≤ c.vblank.toNat ∧ c.vblank.toNat ≤ 32 ∧ 5 ≤ c.cellw.toNat ∧ c.cellw.toNat ≤ 8 ∧ 1 ≤ c.blinkp.toNat ∧
    c.blinkp.toNat ≤ 63 ∧ c.pace.toNat ≤ 3 ∧ c.cursty.toNat % 4 ≠ 3

/-- The latched configuration holds accepted values (R35). -/
def FrameCfg.inRange (c : FrameCfg) : Prop :=
  8 ≤ c.panelw.toNat ∧ c.panelw.toNat ≤ 512 ∧ 1 ≤ c.vislines.toNat ∧ c.vislines.toNat ≤ 128 ∧ 8 ≤ c.hblank.toNat ∧
    1 ≤ c.vblank.toNat ∧ c.vblank.toNat ≤ 32 ∧ 5 ≤ c.cellw.toNat ∧ c.cellw.toNat ≤ 8 ∧ 1 ≤ c.blinkp.toNat ∧
    c.blinkp.toNat ≤ 63

/-- A list head: 0 to 47 or END (R15). -/
def headOk (v : Byte) : Prop := v.toNat ≤ 47 ∨ v = 0xFF

/-- The control registers hold accepted values, and so does the latched configuration while frames run (R15, R35, R84,
R113, R174). -/
def State.registersInRange (s : State) : Prop :=
  s.ctl.inRange ∧ (s.scan.enabled = true → s.scan.cfg.inRange) ∧ headOk s.scan.headact ∧ headOk s.scan.headpend ∧
    s.irq.ien1.getLsbD 7 = false ∧ s.irq.iflag1.getLsbD 7 = false

/-- While the display is disabled there is no frame position, no swap is pending, the outputs stand at their disabled
levels, the row loader is STOPPED and both buffers are empty; and it is disabled in service mode and in reset (R18, R22,
R39, R71, R72, R81, R153). -/
def State.darkWhenDisabled (s : State) : Prop :=
  (s.scan.enabled = false →
    s.scan.pos = .none ∧ s.scan.swapPending = false ∧ s.scan.latchDue = false ∧ s.scan.part = .off ∧ s.scan.lsel = 0 ∧
      s.rows.loader = .stopped ∧ s.rows.work = none ∧ s.rows.buf0 = none ∧ s.rows.buf1 = none) ∧
    (s.part.service = true ∨ s.part.resetHeld = true → s.scan.enabled = false)

/-- A role under which the display map may name a bank (R100). -/
def Role.shown : Role → Prop
  | .mapped _ => True
  | .spareDraining => True
  | _ => False

/-- The bank role table agrees with the store map, the display map and the staging record once start-up has ended: the
bank that the store map names for L, and no other, is MAPPED(L); the display map names only MAPPED and SPARE-DRAINING
banks; and exactly the bank of an open staging is STAGING (R100, R116, R125). -/
def Store.tableAgrees (st : Store) (display : Vector Bank 14) : Prop :=
  (∀ l : Logical, (st.roles.get (st.storeMap.get l)).role = .mapped l) ∧
    (∀ (b : Bank) (l : Logical), (st.roles.get b).role = .mapped l → st.storeMap.get l = b) ∧
    (∀ l : Logical, (st.roles.get (display.get l)).role.shown) ∧
    (∀ b : Bank, (st.roles.get b).role = .staging ↔ st.staging.map Staging.bank = some b)

/-- What the command in flight is doing agrees with the bank role table: a spare being erased for BEGIN or SCRUB is
SPARE-DIRTY, a bank is erased under no other command, and a BEGIN that erases or waits has no staging open (R126, R133). -/
def Store.flightAgrees (st : Store) (f : InFlight) : Prop :=
  (∀ b, f.stage = .erasing b → (st.roles.get b).role = .spareDirty ∧
    (∀ v, f.entry.body = .stageBank v → st.staging = none)) ∧
    (f.stage = .draining → st.staging = none) ∧
    (∀ e b, f.erase = some e → e.target = .bank b → f.stage = .erasing b)

/-- The bank roles are consistent: until the end of start-up nothing is in flight and no staging is open, and afterwards
the bank role table agrees with the maps, the staging record and the command in flight (R100, R116, R125). -/
def State.rolesConsistent (s : State) : Prop :=
  (s.part.resetHeld = true ∨ s.store.scan.isSome = true → s.store.engine = .starting) ∧
    (s.store.engine = .starting → s.store.inFlight = none ∧ s.store.staging = none) ∧
    (s.store.engine ≠ .starting → s.store.tableAgrees s.scan.displayMap) ∧
    (∀ f, s.store.inFlight = some f → s.store.flightAgrees f) ∧
    (∀ p r, s.store.scan = some p → .valid r ∈ p.slots → r.map.toList.Nodup)

end Sys2Proof.Machine
end

