-- ==== Sys2Proof/Certificates/Slice0/Obligations.lean ====
section
/-! DEFINITION. The statements for the provers, from the numbered rules of spec/. -/

open Sys2Proof Sys2Proof.Machine

/-! ## The machine as a whole -/

/-- The step of a queue with `c` at its front is `exec` of `c` with the queue's rest; on an empty queue the part idles (the
model's choice, log entry 7). -/
def Obligations.StepRunsTheFrontCommand : Prop :=
  (∀ (c : Instr) (rest : List Instr) (s : State),
    step { s with pending := c :: rest } = exec c { s with pending := rest }) ∧
  ∀ s : State, s.pending = [] → step s = .next s

/-- Every command, in every state, answers a next state and leaves the queue of waiting commands alone: a refused host
access and a failed store command are recorded in registers, and the part goes on (R136, R172). -/
def Obligations.EveryCommandAnswersANextState : Prop :=
  ∀ (c : Instr) (s : State), ∃ t, exec c s = .next t ∧ t.pending = s.pending

/-- The values that the data book gives for reset stand in `State.reset`, block by block: those of RESET# released in normal
mode, of the mover after power-on, and of the glyph array of a part as delivered, with the first read of the start-up scan
presented. That this part at this moment is meant is the model's reading (log entries 4 and 18). -/
def Obligations.ResetStateHoldsTheBookValues : Prop :=
  let s := State.reset
  s.part = { resetHeld := false, lowv := false, service := false } ∧
  s.irq = { iflag0 := 0, iflag1 := 0, ien0 := 0, ien1 := 0 } ∧
  s.win.space = 0 ∧ s.win.addr = 0 ∧ s.win.assembly = none ∧ s.win.readLatch = none ∧
  s.win.framecntCapture = none ∧ s.win.mvdoneCapture = none ∧ s.win.winfault = .none ∧ s.waitLow = false ∧
  s.ctl.panelw = 256 ∧ s.ctl.panelwHold = none ∧ s.ctl.vislines = 32 ∧ s.ctl.hblank = 16 ∧ s.ctl.vblank = 4 ∧
  s.ctl.cellw = 6 ∧ s.ctl.blinkp = 30 ∧ s.ctl.pace = 1 ∧ s.ctl.curadr = 0 ∧ s.ctl.cursty = 0 ∧
  s.cellPort = { loaderWait := none, hostWait := none, moverWait := none, access := none, turn := .mover } ∧
  s.mover.mvkind = 1 ∧ s.mover.mvsrc = 0 ∧ s.mover.mvdst = 0 ∧ s.mover.mvcnt = 0 ∧ s.mover.mvval = 0 ∧
  s.mover.mvdone = 0 ∧ s.mover.mvstate = .idle ∧ s.mover.op = none ∧ s.mover.transfer = none ∧
  s.mover.aborting = false ∧ s.mover.tail = false ∧
  s.scan.enabled = false ∧ s.scan.pos = .none ∧ s.scan.headact = 0xFF ∧ s.scan.headpend = 0xFF ∧
  s.scan.swapPending = false ∧ s.scan.blinkCount = 0 ∧ s.scan.blinkOn = true ∧ s.scan.framecnt = 0 ∧
  s.scan.latecnt = 0 ∧ s.scan.rowmarkidx = 0 ∧ s.scan.listCode = .none ∧ s.scan.listIndex = 0 ∧ s.scan.lsel = 0 ∧
  s.scan.rowStart = none ∧
  s.rows = { loader := .stopped, work := none, buf0 := none, buf1 := none, loadingIs1 := false } ∧
  s.patchValid = 0 ∧ (∀ a, s.array.read a = 0xFF) ∧
  s.arrPort = { loaderWait := none, storeWait := none, access := some (.store (.read (.slot .a 0)) false) } ∧
  s.store.engine = .starting ∧ s.store.wait = .none ∧ s.store.queue = [] ∧ s.store.inFlight = none ∧
  s.store.results = [] ∧ s.store.seq = 0 ∧ s.store.owner = .host ∧ s.store.staging = none ∧
  s.store.deferred = none ∧ s.store.scan = some { slots := [], headers := [] } ∧
  s.store.journal = { active := .a, next := some 0, latest := none, generation := 0, retiredMask := 0 } ∧
  (∀ b : Bank, s.store.roles.get b = { role := .unset, count := 0, estimated := false }) ∧
  (∀ k, s.compByte k = 0) ∧
  s.svc.state = .closing ∧ s.svc.divisor = 0 ∧ s.svc.firstRun = none ∧ s.svc.buffer = [] ∧ s.svc.byteTimer = false ∧
  s.svc.confirmTimer = false ∧ s.svc.outstanding = none ∧ s.svc.due = none ∧ s.svc.startupWait = none ∧
  s.svc.held = none ∧ s.svc.inputDropped = false ∧ s.svc.replyLost = false ∧ s.svc.sending = none ∧
  s.svc.waiting = none ∧ s.svc.lastError = .none ∧ s.svc.accepted = 0 ∧ s.svc.refused = 0

/-! ## Power, reset and supply -/

/-- RESET: every block takes its reset values and the part is held. The mover's parameters and MVDONE and the tables keep
theirs. A pulse in progress is cut, which moves no bit but those it was acting on, and leaves its unit neither erased nor
holding its target, a record slot spoiled, erased or as it stood (that free bits which would complete the target stand for a
cut before the first bit moved is the model's choice, log entry 22). A cell whose write is in progress holds its old word or
the new one. -/
def Obligations.ResetRestoresEveryBlock : Prop :=
  ∀ s : State, s.cells.wf = true → s.array.wf = true → ∃ t, exec .reset s = .next t ∧ t.atReset ∧
    t.mover.mvkind = s.mover.mvkind ∧ t.mover.mvsrc = s.mover.mvsrc ∧ t.mover.mvdst = s.mover.mvdst ∧
    t.mover.mvcnt = s.mover.mvcnt ∧ t.mover.mvval = s.mover.mvval ∧ t.mover.mvdone = s.mover.mvdone ∧
    t.descs = s.descs ∧ t.attrs = s.attrs ∧ t.patch = s.patch ∧ s.cutLeaves t ∧ s.cutSlots t ∧
    ∀ a : CellAddr, t.cell a = s.cell a ∨
      ∃ who w ab, s.cellPort.access = some ⟨who, .write a w, ab⟩ ∧ t.cell a = w

/-- POWER_ON: every block takes its power-on values, the mover's parameters among them, and the part is held; the contents of
the cell store and of the three tables are undefined, which the model gives as free values (its choice of form, log entry 3);
and the glyph array keeps its contents, but for what the cut of a pulse in progress leaves. -/
def Obligations.PowerOnLeavesTheTablesUndefined : Prop :=
  ∀ s : State, s.array.wf = true → ∃ t, exec .powerOn s = .next t ∧ t.atReset ∧
    t.mover.mvkind = 1 ∧ t.mover.mvsrc = 0 ∧ t.mover.mvdst = 0 ∧ t.mover.mvcnt = 0 ∧ t.mover.mvval = 0 ∧
    t.mover.mvdone = 0 ∧
    (∃ e, ∀ a, t.cells.read a = Config.freeByte e a) ∧ (∃ e, ∀ a, t.descs.read a = Config.freeByte e a) ∧
    (∃ e, ∀ a, t.attrs.read a = Config.freeByte e a) ∧ (∃ e, ∀ a, t.patch.read a = Config.freeByte e a) ∧
    s.cutLeaves t ∧ s.cutSlots t

/-- RESET_RELEASE: LOAD chooses the mode, the port owner and the loader's state, the LOWV flag is set when LOWV# is asserted,
and the start-up scan presents its first read (R114, R118, R149, R153, R154). -/
def Obligations.ReleaseOfResetChoosesTheMode : Prop :=
  ∀ (s : State) (load : Bool), s.part.resetHeld = true →
    s.arrPort = { loaderWait := none, storeWait := none, access := none } →
    exec (.resetRelease load) s = .next
      { s with
        part := { s.part with resetHeld := false, service := load }
        irq := if s.part.lowv then s.irq.raise .lowv else s.irq
        arrPort := { loaderWait := none, storeWait := none, access := some (.store (.read (.slot .a 0)) false) }
        store := { s.store with
          owner := if load then .loader else .host, scan := some { slots := [], headers := [] } }
        svc := { s.svc with state := if load then .sync else .closing } }

/-- LOWV_RELEASED sets no flag. LOWV_ASSERTED with no pulse in progress or waiting sets the LOWV flag alone. With one, the
pulse ends, and the command in flight fails with SUPPLY_LOW, or keeps ERASE_FAILED when it was making a retirement's map write;
the failure discards the queue and halts the engine; the banks, the staging and the journal are left as for an abort at the
same point; the array is left as a cut leaves it; and a read of the loader that waited behind the pulse is granted (R108, R114,
R115, R123, R127, R136, R138, R139, R147; how the free bits of a cut stand is log entry 22). -/
def Obligations.LowvEndsThePulseWork : Prop :=
  (∀ s : State, exec .lowvReleased s = .next { s with part := { s.part with lowv := false } }) ∧
  (∀ s : State, s.part.resetHeld = false → s.part.lowv = false → s.pulseInProgress = false → s.pulseWaiting = false →
    exec .lowvAsserted s = .next { s with part := { s.part with lowv := true }, irq := s.irq.raise .lowv }) ∧
  ∀ (s : State) (f : InFlight), s.part.resetHeld = false → s.part.lowv = false → s.store.inFlight = some f →
    s.svc.outstanding = none → s.array.wf = true →
    ((s.pulseInProgress = true ∧ s.arrPort.storeWait = none ∧ s.store.deferred = none) ∨
      (s.pulseInProgress = false ∧ s.pulseWaiting = true)) →
    ∃ t, exec .lowvAsserted s = .next t ∧ t.part.lowv = true ∧ t.irq.isSet .lowv = true ∧ s.endsBySupply t f ∧
      s.cutLeaves t ∧ s.cutSlots t ∧ t.pulseInProgress = false ∧ t.pulseWaiting = false ∧
      (s.pulseInProgress = true → ∀ g, s.arrPort.loaderWait = some g → t.arrPort.access = some (.loader g false))

/-! ## The scan engine -/

/-- FRAME_START when the last line of a frame has been given (when it is due is the model's form, log entry 4): everything
the frame uses is settled, in the order of R27. The first latch is made at once, or left to the next step: that a free value
settles which is the model's choice of form (log entry 23). A step with a first latch still to make is that step after the latch,
but for a write of a descriptor byte, which comes before the latch, and for the events of the pins of power, reset and supply. At
the latch nothing is latched with END at the head; otherwise the head's descriptor is latched, checked, and begins to load, is
complete at once with HIDE, or is a list fault (R8, R10, R12 to R14, R17, R20, R26 to R29, R73). -/
def Obligations.FrameStartSettlesTheFrame : Prop :=
  (∀ s : State, s.released → s.frameDue = true →
    ∃ t, exec .frameStart s = .next t ∧ s.frameSettled t ∧ t.win = s.win ∧
      (s.headLatched t ∨
        (t.scan.latchDue = true ∧ t.rows = s.rows ∧ t.cellPort = s.cellPort ∧ t.arrPort = s.arrPort ∧
          s.noListFault t))) ∧
  ∀ s : State, s.part.resetHeld = false → s.scan.latchDue = true →
    ∃ u, s.headLatched u ∧
      u.scan = { s.scan with latchDue := false, listCode := u.scan.listCode, listIndex := u.scan.listIndex } ∧
      u.descs = s.descs ∧ u.win = s.win ∧ u.ctl = s.ctl ∧ u.cells = s.cells ∧ u.attrs = s.attrs ∧ u.patch = s.patch ∧
      u.array = s.array ∧ u.mover = s.mover ∧ u.svc = s.svc ∧ u.store.results = s.store.results ∧
      u.store.queue = s.store.queue ∧ u.store.roles = s.store.roles ∧
      ∀ c, isPinEvent c = false → (mayWriteData c = false ∨ s.win.space ≠ 2 ∨ 768 ≤ s.win.addr.toNat) →
        exec c s = exec c u

/-- The marquee advance of the whole table: every descriptor with valid marquee fields gets the three position values of
`advancedPosition`, every other byte keeps its value, POSDOT is brought below CELLW, each carry moves POSCELL on by one round
the ring, and a POSCELL that is not carried is kept as it stands, at or above RINGLEN too. From a POSCELL within the ring the
position so written has moved the window STEP columns round it (R1, R6, R20). -/
def Obligations.MarqueeAdvanceMovesTheWindow : Prop :=
  (∀ (m : Memory) (cellw n : Nat), m.wf = true → cellw ≤ 8 → n < 48 →
    readDescriptor (advanceMarquees cellw m) n =
      let d := readDescriptor m n
      if d.advances cellw then
        { d with
          posCell := (advancedPosition d cellw).1, posDot := (advancedPosition d cellw).2.1
          fCount := (advancedPosition d cellw).2.2 }
      else d) ∧
  (∀ (m : Memory) (cellw a : Nat), m.wf = true → (a % 16 < 13 ∨ 768 ≤ a) →
    (advanceMarquees cellw m).read a = m.read a) ∧
  ∀ (d : Descriptor) (cellw : Nat), d.advances cellw = true → d.posDot ≤ 255 →
    let p := advancedPosition d cellw
    let total := d.posDot + (if d.interval ≤ d.fCount + 1 then d.stepDots else 0)
    p.2.1 = total % cellw ∧ p.2.1 < cellw ∧
      p.1 = (if total < cellw then d.posCell else (d.posCell + total / cellw) % d.ringLen) ∧
      p.2.2 = (if d.interval ≤ d.fCount + 1 then 0 else d.fCount + 1) ∧
      (d.posCell < d.ringLen → p.1 < d.ringLen ∧
        p.1 * cellw + p.2.1 = (d.posCell * cellw + total) % (d.ringLen * cellw))

/-- LINE_START counts a blank line, goes on with the row instance in progress, or shows a fill line, at visible line 0 and
after the last line of an instance too; and the end of the active dots gives the LATCH pulse (R25, R30, R34, R38, R39). That
the whole line's dots stand in the state from its line start, and that the LATCH pulse takes them, is the model's choice (log
entry 15). -/
def Obligations.LinesShowTheirSlices : Prop :=
  (∀ (s : State) (n : Nat), s.released → s.scan.pos = .vblank n → n + 1 < s.scan.cfg.vblank.toNat →
    exec .lineStart s = .next { s with scan := { s.scan with pos := .vblank (n + 1) } }) ∧
  (∀ (s : State) (n r : Nat) (i : RowInst), s.released → s.scan.pos = .visible n → s.scan.part = .blankDots →
    n + 1 < s.scan.cfg.vislines.toNat → s.scan.rowStart = some r → s.rows.displaying = some i →
    n + 1 < r + i.desc.height →
    exec .lineStart s = .next
      { s with scan := { s.scan with
          pos := .visible (n + 1), lsel := BitVec.ofNat 7 (n + 1), part := .activeDots
          dots := lineDots s.scan.cfg s.scan.blinkOn i
            (i.desc.first + if i.desc.double then (n + 1 - r) / 2 else n + 1 - r) } }) ∧
  (∀ (s : State) (n : Nat), s.released → s.lineDue n → s.rows.loading = none →
    (∀ r i, s.scan.rowStart = some r → s.rows.displaying = some i → r + i.desc.height ≤ n) →
    exec .lineStart s = .next
      { s with scan := { s.scan with
          pos := .visible n, lsel := BitVec.ofNat 7 n, part := .activeDots, rowStart := none
          dots := List.replicate s.scan.cfg.panelw.toNat false } }) ∧
  ∀ s : State, s.released → s.scan.part = .activeDots →
    exec .endOfTheActiveDots s = .next
      { s with scan := { s.scan with
          part := .blankDots, latched := some { line := s.scan.lsel, dots := s.scan.dots } } }

/-- A row start: the buffers exchange roles, a marked instance writes ROWMARKIDX and sets ROWMARK, an instance still LOADING is
counted late and shown as it stands, and its loader withdraws its requests and abandons its access, which lets a waiting pulse run
when nothing is loaded next. Nothing is latched after an
instance that reaches the last visible line. After any other, the next instance of the descriptor or the first of the one that
NEXT names is latched; END ends the walk; and a bad NEXT is the list fault BAD_LINK (R8, R9, R11 to R13, R30 to R32, R79, R80,
R89). That the first line's dots stand in the state from its line start is the model's choice (log entry 15). -/
def Obligations.RowStartExchangesTheBuffers : Prop :=
  ∀ (s : State) (n : Nat) (i : RowInst), s.released → s.lineDue n → s.instOn n = none → s.rows.loading = some i →
    let late := s.rows.loader = .loading
    let again := i.desc.marquee = false ∧ i.number < i.desc.repeats
    let more := n + i.desc.height < s.scan.cfg.vislines.toNat
    let cellw := s.scan.cfg.cellw.toNat
    let port := if late then s.cellPort.withoutLoader else s.cellPort
    ∃ t, exec .lineStart s = .next t ∧ t.scan.pos = .visible n ∧ t.scan.lsel = BitVec.ofNat 7 n ∧
      t.scan.rowStart = some n ∧ t.rows.loadingIs1 = !s.rows.loadingIs1 ∧ t.rows.displaying = some i ∧
      (late → t.irq.isSet .lateRow = true ∧
        t.scan.latecnt = (if s.scan.latecnt = 255 then 255 else s.scan.latecnt + 1) ∧ s.loaderQuits t) ∧
      (¬late → t.scan.latecnt = s.scan.latecnt) ∧
      ((i.desc.mark = true ∧ i.number = 0) ∨ i.desc.markAll = true →
        t.irq.isSet .rowmark = true ∧ t.scan.rowmarkidx = BitVec.ofNat 8 i.index) ∧
      (¬((i.desc.mark = true ∧ i.number = 0) ∨ i.desc.markAll = true) → t.scan.rowmarkidx = s.scan.rowmarkidx) ∧
      (¬more ∨ (¬again ∧ i.desc.next = 255) →
        t.rows.loading = none ∧ t.rows.loader = .resting ∧ t.rows.work = none ∧ t.cellPort = port ∧
          t.scan.listCode = s.scan.listCode ∧ t.scan.listIndex = s.scan.listIndex ∧
          t.irq.isSet .listFault = s.irq.isSet .listFault) ∧
      (more → again → s.latches t port s.descs cellw i.index (i.number + 1)) ∧
      (more → ¬again → i.desc.next < 48 → s.latches t port s.descs cellw i.desc.next 0) ∧
      (more → ¬again → 48 ≤ i.desc.next → i.desc.next < 255 →
        t.irq.isSet .listFault = true ∧ t.scan.listCode = .badLink ∧ t.scan.listIndex = BitVec.ofNat 8 i.index ∧
          t.rows.loading = none ∧ t.rows.loader = .resting ∧ t.rows.work = none ∧ t.cellPort = port) ∧
      (1 ≤ i.desc.height →
        t.scan.dots = lineDots s.scan.cfg s.scan.blinkOn i i.desc.first) ∧
      t.cells = s.cells ∧ t.descs = s.descs ∧ t.attrs = s.attrs ∧ t.patch = s.patch ∧ t.array = s.array ∧
      t.scan.framecnt = s.scan.framecnt ∧ t.scan.headact = s.scan.headact ∧ t.scan.displayMap = s.scan.displayMap

/-- DISPLAY_ENABLE raises a frame start at once, buffer 0 loading, with its first latch; while the display is enabled the write
changes nothing but the window address (R8, R23, R168). -/
def Obligations.EnableRaisesAFrameStart : Prop :=
  (∀ (s : State) (v : Byte), s.dataAt 0 0 → v.getLsbD 0 = true → s.scan.enabled = false →
    ∃ t, exec (.displayEnable v) s = .next t ∧ s.frameSettled t ∧ t.rows.loadingIs1 = false ∧
      t.scan.latchDue = false ∧ (t.scan.headact = 0xFF → t.rows.loader = .resting ∧ t.rows.work = none) ∧
      (s.rows.buf0 = none → s.latchesHead t) ∧
      t.win = { s.win with addr := s.win.addr + 1 }) ∧
  ∀ (s : State) (v : Byte), s.dataAt 0 0 → v.getLsbD 0 = true → s.scan.enabled = true →
    exec (.displayEnable v) s = .next { s with win := { s.win with addr := s.win.addr + 1 } }

/-- DISPLAY_DISABLE ends the frame, stops the loader, empties the buffers, drives the disabled levels, carries out a pending
swap and copies the store map. The loader's waiting requests are withdrawn at both ports, its access in progress at either is
abandoned, and a pulse that the load had held back may run. While the display is disabled the write changes nothing but the window address (R18, R24, R39,
R81, R99, R108, R109). -/
def Obligations.DisableEndsTheFrame : Prop :=
  (∀ (s : State) (v : Byte), s.dataAt 0 0 → v.getLsbD 0 = false → s.scan.enabled = true →
    ∃ t, exec (.displayDisable v) s = .next t ∧
      t.scan = { s.scan with
        enabled := false, pos := .none, rowStart := none, part := .off, lsel := 0, dots := [], swapPending := false
        headact := if s.scan.swapPending then s.scan.headpend else s.scan.headact
        displayMap := if s.store.engine = .starting then s.scan.displayMap else s.store.storeMap } ∧
      t.irq = (if s.scan.swapPending then s.irq.raise .swap else s.irq) ∧
      t.rows = { loader := .stopped, work := none, buf0 := none, buf1 := none, loadingIs1 := false } ∧
      t.cellPort = s.cellPort.withoutLoader ∧ s.loaderQuits t ∧
      (s.store.engine ≠ .starting → ∀ b : Bank, (t.store.roles.get b).role ≠ .spareDraining) ∧
      t.win = { s.win with addr := s.win.addr + 1 } ∧ t.ctl = s.ctl ∧ t.mover = s.mover ∧ t.cells = s.cells ∧
      t.descs = s.descs ∧ t.attrs = s.attrs ∧ t.patch = s.patch ∧ t.array = s.array ∧
      t.store.queue = s.store.queue ∧ t.store.results = s.store.results) ∧
  ∀ (s : State) (v : Byte), s.dataAt 0 0 → v.getLsbD 0 = false → s.scan.enabled = false →
    exec (.displayDisable v) s = .next { s with win := { s.win with addr := s.win.addr + 1 } }

/-- DISPLAY_RESET disables the display without swapping, sets HEADACT to END, returns the counters, LISTFLT and the blink
state to their first values, empties the latches and captures, stops the mover, clears WINFAULT and the six display-side
flags, and leaves the registers, the tables and the store engine. The loader and the mover abandon their accesses, and a pulse that the
load had held back may run. A mover write in progress is completed and counted in MVDONE,
with MVSTATE IDLE and no MOVER flag (R18, R37, R69, R172, R175). -/
def Obligations.DisplayResetRestoresTheDisplaySide : Prop :=
  (∀ s : State, s.hostOpen →
    ∃ t, exec .displayReset s = .next t ∧
      t.scan = { s.scan with
        enabled := false, pos := .none, rowStart := none, part := .off, lsel := 0, dots := [], swapPending := false
        headact := 0xFF, framecnt := 0, latecnt := 0, rowmarkidx := 0, listCode := .none, listIndex := 0
        blinkCount := 0, blinkOn := true
        displayMap := if s.store.engine = .starting then s.scan.displayMap else s.store.storeMap } ∧
      t.irq = { s.irq with iflag0 := s.irq.iflag0 &&& 0xC0 } ∧
      t.rows = { loader := .stopped, work := none, buf0 := none, buf1 := none, loadingIs1 := false } ∧
      t.win = { s.win with
        assembly := none, readLatch := none, framecntCapture := none, mvdoneCapture := none, winfault := .none } ∧
      t.mover.mvstate = .idle ∧ t.mover.op = none ∧ t.mover.transfer = none ∧ t.mover.mvdone = s.mover.mvdone ∧
      t.mover.mvkind = s.mover.mvkind ∧ t.mover.mvsrc = s.mover.mvsrc ∧ t.mover.mvdst = s.mover.mvdst ∧
      t.mover.mvcnt = s.mover.mvcnt ∧ t.mover.mvval = s.mover.mvval ∧
      (t.mover.tail = true ↔
        s.mover.tail = true ∨ ∃ a w, s.cellPort.access = some ⟨.mover, .write a w, false⟩) ∧
      (∀ acc, s.cellPort.access = some acc → t.cellPort.access = some (if acc.who = .host then acc else
        { acc with abandoned := true })) ∧
      t.cellPort.loaderWait = none ∧ t.cellPort.moverWait = none ∧ s.loaderQuits t ∧
      t.ctl = s.ctl ∧ t.cells = s.cells ∧ t.descs = s.descs ∧ t.attrs = s.attrs ∧ t.patch = s.patch ∧
      t.patchValid = s.patchValid ∧ t.array = s.array ∧ t.svc = s.svc ∧ t.store.queue = s.store.queue ∧
      t.store.results = s.store.results ∧ t.store.storeMap = s.store.storeMap ∧ t.store.engine = s.store.engine) ∧
  ∀ (s : State) (a : CellAddr) (w : Word16), s.hostOpen → s.cells.wf = true →
    s.cellPort.access = some ⟨.mover, .write a w, false⟩ →
    ∃ t u, exec .displayReset s = .next t ∧ exec .cellPortComplete t = .next u ∧ u.cell a = w ∧
      (∀ x, x / 2 ≠ a.toNat → u.cells.read x = s.cells.read x) ∧ u.mover.mvdone = s.mover.mvdone + 1 ∧
      u.mover.mvstate = .idle ∧ u.mover.tail = false ∧ u.irq.isSet .mover = false

/-- SWAP_LIST: pending while the display is enabled, at once while it is disabled, and in either order with a frame start
(R16). -/
def Obligations.SwapListWaitsOrActsAtOnce : Prop :=
  (∀ s : State, s.hostOpen → s.scan.enabled = true →
    exec .swapList s = .next { s with scan := { s.scan with swapPending := true } }) ∧
  (∀ s : State, s.hostOpen → s.scan.enabled = false →
    exec .swapList s = .next
      { s with
        scan := { s.scan with headact := s.scan.headpend, swapPending := false }, irq := s.irq.raise .swap }) ∧
  (∀ s : State, s.hostOpen → s.frameDue = true →
    ∃ u t, exec .swapList s = .next u ∧ exec .frameStart u = .next t ∧ t.scan.headact = s.scan.headpend ∧
      t.scan.swapPending = false ∧ t.irq.isSet .swap = true) ∧
  ∀ s : State, s.hostOpen → s.frameDue = true →
    ∃ u t, exec .frameStart s = .next u ∧ exec .swapList u = .next t ∧ t.scan.swapPending = true ∧
      t.scan.headact = u.scan.headact

/-! ## Composition -/

/-- Panel dot x shows stream column P + x, or P + x ÷ 2 with WIDE; stream column j × CELLW + d is dot d of cell j; columns
beyond the last cell are dark; and the line has PANELW dots (R89). -/
def Obligations.PanelDotsFollowTheDotStream : Prop :=
  ∀ (cfg : FrameCfg) (blinkOn : Bool) (i : RowInst) (slice : Nat), i.desc.hide = false →
    i.entries.length = i.desc.width →
    (lineDots cfg blinkOn i slice).length = cfg.panelw.toNat ∧
    ∀ x, x < cfg.panelw.toNat →
      let c := i.pan + if i.desc.wide then x / 2 else x
      (lineDots cfg blinkOn i slice).getD x false =
        if c < i.desc.width * cfg.cellw.toNat then
          (cellDots cfg.cellw.toNat i.desc blinkOn slice (i.entries.getD (c / cfg.cellw.toNat) Entry.blank)).getD
            (c % cfg.cellw.toNat) false
        else false

/-! ## Commands of the host -/

/-- SUBMIT: the three refusals in their order; otherwise an entry with SEQ and the fields that its kind uses joins the tail of
the queue. The head starts when the engine is IDLE or waits for a place that is free, and with no place free the engine waits
for one (R120, R122). -/
def Obligations.SubmitQueuesTheComposedCommand : Prop :=
  (∀ s : State, s.hostOpen → s.store.owner ≠ .host → exec .submit s = .next (refuse .portOwned s)) ∧
  (∀ s : State, s.hostOpen → s.store.owner = .host → s.store.engine = .halted →
    exec .submit s = .next (refuse .queueHalted s)) ∧
  (∀ s : State, s.hostOpen → s.store.owner = .host → s.store.engine ≠ .halted → 4 ≤ s.store.queue.length →
    exec .submit s = .next (refuse .queueFull s)) ∧
  ∀ s : State, s.hostOpen → s.store.owner = .host → s.store.engine ≠ .halted → s.store.queue.length < 4 →
    ∃ body, s.copies body ∧
      let entry : CmdEntry := { kind := s.compByte 0, seq := s.store.seq, submitter := .host, body := body }
      let due := s.store.engine = .idle ∨ (s.store.engine = .waiting ∧ s.store.wait = .resultSpace)
      (¬due →
        exec .submit s = .next
          { s with store := { s.store with
              queue := s.store.queue ++ [entry], seq := s.store.seq + 1, compSeq := s.store.seq } }) ∧
      (due → s.store.inFlight = none → 4 ≤ s.store.results.length →
        exec .submit s = .next
          { s with store := { s.store with
              engine := .waiting, wait := .resultSpace, queue := s.store.queue ++ [entry], seq := s.store.seq + 1
              compSeq := s.store.seq } }) ∧
      (∀ e q, due → s.store.inFlight = none → s.store.results.length < 4 → s.store.queue ++ [entry] = e :: q →
        exec .submit s = .next
          { s with
            irq := if q.length = 3 then s.irq.raise .qspace else s.irq
            store := { s.store with
              engine := .running, wait := .none, queue := q, seq := s.store.seq + 1, compSeq := s.store.seq
              inFlight := some { entry := e, stage := .fresh, prog := none, erase := none, mapw := none } } })

/-- POP_RESULT removes the head result, in every engine state; it starts the head command when the engine waits for the place;
and it is refused on an empty queue. ACK_HALT returns a HALTED engine to IDLE and is otherwise ignored (R122, R124, R137). -/
def Obligations.PopFreesAPlaceAndAckEndsTheHalt : Prop :=
  (∀ s : State, s.hostOpen → s.store.results = [] → exec .popResult s = .next (refuse .resultEmpty s)) ∧
  (∀ (s : State) (r : ResultRec) (rest : List ResultRec), s.hostOpen → s.store.results = r :: rest →
    (s.store.engine ≠ .waiting ∨ s.store.wait ≠ .resultSpace) → s.store.engine ≠ .idle →
    exec .popResult s = .next { s with store := { s.store with results := rest } }) ∧
  (∀ (s : State) (r : ResultRec) (rest : List ResultRec), s.hostOpen → s.store.results = r :: rest →
    s.store.engine = .idle → s.store.wait = .none → s.store.queue = [] →
    exec .popResult s = .next { s with store := { s.store with results := rest } }) ∧
  (∀ (s : State) (r : ResultRec) (rest : List ResultRec) (e : CmdEntry) (q : List CmdEntry), s.hostOpen →
    s.store.results = r :: rest → rest.length < 4 → s.store.engine = .waiting → s.store.wait = .resultSpace →
    s.store.inFlight = none → s.store.queue = e :: q →
    exec .popResult s = .next
      { s with
        irq := if q.length = 3 then s.irq.raise .qspace else s.irq
        store := { s.store with
          results := rest, engine := .running, wait := .none, queue := q
          inFlight := some { entry := e, stage := .fresh, prog := none, erase := none, mapw := none } } }) ∧
  (∀ s : State, s.hostOpen → s.store.engine = .halted →
    exec .ackHalt s = .next { s with store := { s.store with engine := .idle, wait := .none } }) ∧
  ∀ s : State, s.hostOpen → s.store.engine ≠ .halted → exec .ackHalt s = .next s

/-- STORE_ABORT by engine state: a command in flight is cut and pushed as ABORTED with the number of entries discarded; the
banks, the staging and the journal are left as the second table of R138 gives them, and the array as a cut leaves it; a store
read in progress goes on with its data discarded; a read of the loader that waited behind a cut pulse is granted; an engine waiting for a place only loses its queue; IDLE and HALTED are left
(R115, R121, R123, R138, R147). That the cut of a map write before its first pulse is no change is the model's reading (log
entry 9), and how the free bits of a cut stand is log entry 22. -/
def Obligations.StoreAbortPushesAnAbortedResult : Prop :=
  (∀ (s : State) (f : InFlight), s.hostOpen → s.store.inFlight = some f → s.array.wf = true →
    (s.store.engine = .running ∨ (s.store.engine = .waiting ∧ s.store.wait = .draining)) →
    ∃ t r, exec .storeAbort s = .next t ∧ t.store.engine = .idle ∧ t.store.wait = .none ∧ t.store.queue = [] ∧
      t.store.inFlight = none ∧ s.pushed t f r ∧ r.outcome = .aborted ∧ r.error = .none ∧ r.detail = 0 ∧
      r.discarded = s.store.queue.length ∧ s.cutNames f r.phys ∧ t.irq.isSet .result = true ∧
      (s.store.queue.length = 4 → t.irq.isSet .qspace = true) ∧ s.cutOutcome t f ∧ s.cutLeaves t ∧ s.cutSlots t ∧
      (∀ u ab, s.arrPort.access = some (.store (.read u) ab) →
        t.arrPort.access = some (.store (.read u) true)) ∧
      (s.pulseInProgress = true → ∀ g, s.arrPort.loaderWait = some g → t.arrPort.access = some (.loader g false)) ∧
      t.arrPort.storeWait = none ∧ t.store.deferred = none ∧ t.pulseInProgress = false ∧ t.pulseWaiting = false ∧
      t.rows = s.rows ∧ t.scan = s.scan ∧ t.cells = s.cells) ∧
  (∀ s : State, s.hostOpen → (s.store.engine = .idle ∨ s.store.engine = .halted) →
    exec .storeAbort s = .next s) ∧
  (∀ s : State, s.hostOpen → s.store.engine = .waiting → s.store.wait = .resultSpace →
    exec .storeAbort s = .next
      { s with
        irq := if s.store.queue.length = 4 then s.irq.raise .qspace else s.irq
        store := { s.store with queue := [], engine := .idle, wait := .none } }) ∧
  ∀ s : State, s.hostOpen → s.store.engine = .starting →
    exec .storeAbort s = .next
      { s with
        irq := if s.store.queue.length = 4 then s.irq.raise .qspace else s.irq
        store := { s.store with queue := [] } }

/-- MOVER_START: refused while RUNNING, or when MVKIND or MVCNT is out of range; otherwise the operation is latched with its
direction and the first step's request is presented, or put off while an access of the mover that DISPLAY RESET cut loose is
still in progress. MOVER_ABORT: ignored unless RUNNING; a step whose cell is not in progress is withdrawn and the operation
ends ABORTED with the MOVER flag; otherwise the step in hand is worked to its end first (R45, R47, R60, R61, R65). That the new
operation no longer counts a write so cut loose (`tail` becomes false) is the model's choice (log entry 12). -/
def Obligations.MoverStartsAndAborts : Prop :=
  (∀ s : State, s.hostOpen → s.mover.mvstate = .running → exec .moverStart s = .next (refuse .moverBusy s)) ∧
  (∀ s : State, s.hostOpen → s.mover.mvstate ≠ .running →
    ((s.mover.mvkind ≠ 1 ∧ s.mover.mvkind ≠ 2) ∨ s.mover.mvcnt = 0 ∨ 4096 < s.mover.mvcnt.toNat) →
    exec .moverStart s = .next (refuse .badValue s)) ∧
  (∀ (s : State) (kind : MvKind), s.hostOpen → s.mover.mvstate ≠ .running →
    ((s.mover.mvkind = 1 ∧ kind = .fill) ∨ (s.mover.mvkind = 2 ∧ kind = .copy)) →
    1 ≤ s.mover.mvcnt.toNat → s.mover.mvcnt.toNat ≤ 4096 →
    let src : CellAddr := s.mover.mvsrc.setWidth 12
    let dst : CellAddr := s.mover.mvdst.setWidth 12
    let count := s.mover.mvcnt.toNat
    let down := decide (kind = .copy ∧ 1 ≤ (dst - src).toNat ∧ (dst - src).toNat < count)
    let first := if down then count - 1 else 0
    let request := match kind with
      | .fill => CellReq.write (dst + BitVec.ofNat 12 first) s.mover.mvval
      | .copy => CellReq.read (src + BitVec.ofNat 12 first)
    ∃ t, exec .moverStart s = .next t ∧
      t = { s with
        mover := { s.mover with
          op := some { kind := kind, src := src, dst := dst, count := count, value := s.mover.mvval
                       descending := down }
          position := first, mvdone := 0, mvstate := .running, transfer := none, aborting := false, tail := false }
        cellPort := t.cellPort } ∧
      ((∀ r ab, s.cellPort.access ≠ some ⟨.mover, r, ab⟩) →
        t.cellPort = { s.cellPort with moverWait := some request }.grant) ∧
      (∀ r ab, s.cellPort.access = some ⟨.mover, r, ab⟩ → t.cellPort = s.cellPort)) ∧
  (∀ s : State, s.hostOpen → s.mover.mvstate ≠ .running → exec .moverAbort s = .next s) ∧
  (∀ s : State, s.hostOpen → s.mover.mvstate = .running → s.moverCellInProgress = true →
    exec .moverAbort s = .next { s with mover := { s.mover with aborting := true } }) ∧
  ∀ s : State, s.hostOpen → s.mover.mvstate = .running → s.moverCellInProgress = false →
    exec .moverAbort s = .next
      { s with
        cellPort := { s.cellPort with moverWait := none }
        mover := { s.mover with
          op := none, position := 0, transfer := none, aborting := false, mvstate := .aborted }
        irq := s.irq.raise .mover }

/-- The loader's own commands. When the outstanding command ends DONE, as ABANDON, a BEGIN of a clean spare or of one whose header
reads right after its erase, a CLONE after its last glyph, a PROGRAM whose verify finds its target and a COMMIT whose marker reads
right do, the loader removes the result at its push and replies K, or says nothing when the command is SILENT. When it ends FAILED,
at its checks, at the pulse limit of a glyph, at a map write that fails, at the erase of a spare with its retirement's map write
done or failed, or by LOWV#, the loader removes the result and replies N with the error, and the halt stands until that reply has
been sent; a SILENT one acknowledges the halt at once. A result that is not the outstanding command's stays in the queue (R114, R122 to R124, R126 to R128,
R136, R139, R146, R160, R162). -/
def Obligations.LoaderTakesItsResults : Prop :=
  (∀ (s : State) (f : InFlight) (g : Staging) (m : SvcMark), s.started f .abandon → s.store.staging = some g →
    s.loaderAwaits f m →
    ∃ t, exec .cmdAbandon s = .next t ∧ s.loaderDone t m ∧ t.store.staging = none) ∧
  (∀ (s : State) (f : InFlight) (v : Byte) (l : Logical) (b : Bank) (m : SvcMark), s.started f (.stageBank v) →
    v.toNat = l.val → s.store.staging = none → s.lowestOf .spareClean b → s.loaderAwaits f m →
    ∃ t, exec .cmdBegin s = .next t ∧ s.loaderDone t m ∧
      t.store.staging = some { bank := b, target := l, filling := false, written := 0 }) ∧
  (∀ (s : State) (f : InFlight) (p : ProgOp) (u : ArrUnit) (g : Staging) (i : Byte) (image : List Byte) (m : SvcMark),
    s.released → s.arrPort.access = some (.store (.read u) false) → s.store.scan = none → f.plainProg p →
    p.phase = .verifying → f.stage = .programming → f.entry.body = .program i image → s.store.staging = some g →
    s.rawBytes u = p.target → s.loaderAwaits f m →
    ∃ t, exec .arrayReadComplete s = .next t ∧ s.loaderDone t m ∧
      t.store.staging = some { g with written := g.written ||| (1#64 <<< i.toNat) }) ∧
  (∀ (s : State) (f : InFlight) (p : ProgOp) (w : MapOp) (u : ArrUnit) (g : Staging) (m : SvcMark),
    s.released → s.arrPort.access = some (.store (.read u) false) → s.store.scan = none → f.prog = some p →
    f.erase = none → f.mapw = some w → p.phase = .verifying → w.stage = .marker → f.stage = .committing →
    s.store.staging = some g → s.rawBytes u = p.target → s.loaderAwaits f m →
    ∃ t, exec .arrayReadComplete s = .next t ∧ s.loaderDone t m ∧ t.store.staging = none ∧
      t.store.storeMap.get g.target = g.bank) ∧
  (∀ (s : State) (c : Instr) (f : InFlight) (e : ErrCode) (m : SvcMark), s.released → f.stage = .fresh →
    s.FailsCheck c f.entry.body e → s.loaderAwaits f m →
    ∃ t, exec c s = .next t ∧ s.loaderFailed t e m) ∧
  (∀ (s : State) (f : InFlight) (p : ProgOp) (m : SvcMark), s.released → f.plainProg p → p.phase = .limit →
    ((∃ i total, f.stage = .cloning i total) ∨ f.stage = .programming) → s.loaderAwaits f m →
    ∃ t, exec .pulseLimitReached s = .next t ∧ s.loaderFailed t .programFailed m ∧ t.store.staging = none) ∧
  (∀ (s : State) (f : InFlight) (p : ProgOp) (x : EraseOp) (u : ArrUnit) (b : Bank) (v : Byte) (l : Logical)
      (m : SvcMark), s.released → s.arrPort.access = some (.store (.read u) false) → s.store.scan = none →
    f.prog = some p → p.phase = .verifying → f.erase = some x → x.stage = .header → x.target = .bank b →
    s.rawBytes u = p.target → f.entry.body = .stageBank v → v.toNat = l.val → s.loaderAwaits f m →
    ∃ t, exec .arrayReadComplete s = .next t ∧ s.loaderDone t m ∧
      t.store.staging = some { bank := b, target := l, filling := false, written := 0 }) ∧
  (∀ (s : State) (f : InFlight) (p : ProgOp) (u : ArrUnit) (skip : BitVec 64) (g : Staging) (i total : Nat)
      (m : SvcMark), s.released → s.arrPort.access = some (.store (.read u) false) → s.store.scan = none →
    f.plainProg p → p.phase = .verifying → f.stage = .cloning i total → f.entry.body = .clone skip →
    s.store.staging = some g → s.rawBytes u = p.target → (∀ k, i < k → k < 64 → skip.getLsbD k = true) →
    s.loaderAwaits f m →
    ∃ t, exec .arrayReadComplete s = .next t ∧ s.loaderDone t m ∧
      t.store.staging = some { g with written := g.written ||| (1#64 <<< i) }) ∧
  (∀ (s : State) (f : InFlight) (p : ProgOp) (w : MapOp) (m : SvcMark), s.released → f.prog = some p →
    f.erase = none → f.mapw = some w → p.phase = .limit → w.second = true → s.loaderAwaits f m →
    (f.stage = .committing → ∃ t, exec .pulseLimitReached s = .next t ∧ s.loaderFailed t .mapWriteFailed m) ∧
    ∀ b cause, f.stage = .retiring b cause →
      ∃ t, exec .pulseLimitReached s = .next t ∧ s.loaderFailed t .eraseFailed m) ∧
  (∀ (s : State) (f : InFlight) (x : EraseOp) (ar : Area) (m : SvcMark), s.released → f.erase = some x →
    x.target = .area ar → x.stage = .spent → s.loaderAwaits f m →
    (f.stage = .committing → ∃ t, exec .subpulseBudgetSpent s = .next t ∧ s.loaderFailed t .mapWriteFailed m) ∧
    ∀ b cause, f.stage = .retiring b cause →
      ∃ t, exec .subpulseBudgetSpent s = .next t ∧ s.loaderFailed t .eraseFailed m) ∧
  (∀ (s : State) (f : InFlight) (x : EraseOp) (b : Bank) (m : SvcMark), s.released → f.erase = some x →
    x.target = .bank b → x.stage = .spent → (s.store.journal.generation = 0xFFFFFF ∨ s.part.lowv = true) →
    s.loaderAwaits f m →
    ∃ t, exec .subpulseBudgetSpent s = .next t ∧ s.loaderFailed t .eraseFailed m ∧ s.onlyRole t b .retired) ∧
  (∀ (s : State) (f : InFlight) (p : ProgOp) (w : MapOp) (u : ArrUnit) (b : Bank) (cause : Byte) (m : SvcMark),
    s.released → s.arrPort.access = some (.store (.read u) false) → s.store.scan = none → f.prog = some p →
    f.erase = none → f.mapw = some w → p.phase = .verifying → w.stage = .marker → f.stage = .retiring b cause →
    s.rawBytes u = p.target → s.loaderAwaits f m →
    ∃ t, exec .arrayReadComplete s = .next t ∧ s.loaderFailed t .eraseFailed m) ∧
  (∀ (s : State) (f : InFlight) (m : SvcMark), s.part.resetHeld = false → s.part.lowv = false →
    ((s.pulseInProgress = true ∧ s.arrPort.storeWait = none ∧ s.store.deferred = none) ∨
      (s.pulseInProgress = false ∧ s.pulseWaiting = true)) → s.loaderAwaits f m →
    ((∀ b cause, f.stage ≠ .retiring b cause) →
      ∃ t, exec .lowvAsserted s = .next t ∧ s.loaderFailed t .supplyLow m ∧ s.cutOutcome t f) ∧
    ∀ b cause, f.stage = .retiring b cause →
      ∃ t, exec .lowvAsserted s = .next t ∧ s.loaderFailed t .eraseFailed m ∧ s.cutOutcome t f) ∧
  ∀ (s : State) (f : InFlight) (g : Staging) (q : Byte) (m : SvcMark), s.started f .abandon →
    s.store.staging = some g → s.svc.outstanding = some (q, m) → (q ≠ f.entry.seq ∨ f.entry.submitter = .host) →
    ∃ t, exec .cmdAbandon s = .next t ∧ s.completes t f (some g.bank) 0 0 (List.replicate 16 0) ∧ t.svc = s.svc

/-- An unknown command code is refused with BAD_COMMAND, and in service mode every command with SERVICE_MODE; a refusal sets
the WINFAULT flag and keeps the first code (R153, R171, R172). -/
def Obligations.RefusedCommandsAreRecorded : Prop :=
  (∀ (s : State) (code : Byte), s.hostOpen → code = 0 ∨ 8 < code.toNat →
    exec (.badCommand code) s = .next (refuse .badCommand s)) ∧
  (∀ (s : State) (c : Instr) (code : Byte), s.windowFree → s.part.service = true →
    c ∈ [.displayReset, .submit, .popResult, .ackHalt, .storeAbort, .moverStart, .moverAbort, .swapList,
      .badCommand code] →
    exec c s = .next (refuse .serviceMode s)) ∧
  ∀ (s : State) (c : WinFault), refuse c s =
    { s with
      irq := { s.irq with iflag0 := s.irq.iflag0 ||| 0x40 }
      win := { s.win with winfault := if s.win.winfault = .none then c else s.win.winfault } }

/-! ## Host writes -/

/-- The frame registers, PACE, CURSTY and HEADPEND take an accepted value at once and refuse any other with BAD_VALUE, the
address stepping either way; CURADR and the mover's parameter registers take every byte. PANELW_LOW_BYTE_WRITE holds its byte,
and PANELW_HIGH_BYTE_WRITE forms a value with the held byte, or with PANELW's own low byte, accepts or refuses it whole, and
empties the hold (R15, R35, R36, R59, R84, R113, R168). -/
def Obligations.RegisterValuesAreJudged : Prop :=
  (∀ (s : State) (v : Byte), s.dataAt 0 3 → exec (.registerWrite 4 v) s = .next (stepAddr
    (if 1 ≤ v.toNat ∧ v.toNat ≤ 128 then { s with ctl := { s.ctl with vislines := v } } else refuse .badValue s))) ∧
  (∀ (s : State) (v : Byte), s.dataAt 0 4 → exec (.registerWrite 4 v) s = .next (stepAddr
    (if 8 ≤ v.toNat then { s with ctl := { s.ctl with hblank := v } } else refuse .badValue s))) ∧
  (∀ (s : State) (v : Byte), s.dataAt 0 5 → exec (.registerWrite 4 v) s = .next (stepAddr
    (if 1 ≤ v.toNat ∧ v.toNat ≤ 32 then { s with ctl := { s.ctl with vblank := v } } else refuse .badValue s))) ∧
  (∀ (s : State) (v : Byte), s.dataAt 0 6 → exec (.registerWrite 4 v) s = .next (stepAddr
    (if 5 ≤ v.toNat ∧ v.toNat ≤ 8 then { s with ctl := { s.ctl with cellw := v } } else refuse .badValue s))) ∧
  (∀ (s : State) (v : Byte), s.dataAt 0 7 → exec (.registerWrite 4 v) s = .next (stepAddr
    (if 1 ≤ v.toNat ∧ v.toNat ≤ 63 then { s with ctl := { s.ctl with blinkp := v } } else refuse .badValue s))) ∧
  (∀ (s : State) (v : Byte), s.dataAt 0 8 → exec (.registerWrite 4 v) s = .next (stepAddr
    (if v.toNat ≤ 3 then { s with ctl := { s.ctl with pace := v } } else refuse .badValue s))) ∧
  (∀ (s : State) (v : Byte), s.dataAt 0 11 → exec (.registerWrite 4 v) s = .next (stepAddr
    (if v.toNat % 4 = 3 then refuse .badValue s else { s with ctl := { s.ctl with cursty := v } }))) ∧
  (∀ (s : State) (v : Byte), s.dataAt 0 13 → exec (.registerWrite 4 v) s = .next (stepAddr
    (if v.toNat ≤ 47 ∨ v = 0xFF then { s with scan := { s.scan with headpend := v } } else refuse .badValue s))) ∧
  (∀ (s : State) (v : Byte), s.dataAt 0 9 → exec (.registerWrite 4 v) s = .next (stepAddr
    { s with ctl := { s.ctl with curadr := word16 (byteOf s.ctl.curadr 1) v } })) ∧
  (∀ (s : State) (v : Byte), s.dataAt 0 10 → exec (.registerWrite 4 v) s = .next (stepAddr
    { s with ctl := { s.ctl with curadr := word16 v (byteOf s.ctl.curadr 0) } })) ∧
  (∀ (s : State) (v : Byte), s.dataAt 0 22 → exec (.registerWrite 4 v) s = .next (stepAddr
    { s with mover := { s.mover with mvkind := v } })) ∧
  (∀ (s : State) (v : Byte), s.dataAt 0 23 → exec (.registerWrite 4 v) s = .next (stepAddr
    { s with mover := { s.mover with mvsrc := word16 (byteOf s.mover.mvsrc 1) v } })) ∧
  (∀ (s : State) (v : Byte), s.dataAt 0 24 → exec (.registerWrite 4 v) s = .next (stepAddr
    { s with mover := { s.mover with mvsrc := word16 v (byteOf s.mover.mvsrc 0) } })) ∧
  (∀ (s : State) (v : Byte), s.dataAt 0 25 → exec (.registerWrite 4 v) s = .next (stepAddr
    { s with mover := { s.mover with mvdst := word16 (byteOf s.mover.mvdst 1) v } })) ∧
  (∀ (s : State) (v : Byte), s.dataAt 0 26 → exec (.registerWrite 4 v) s = .next (stepAddr
    { s with mover := { s.mover with mvdst := word16 v (byteOf s.mover.mvdst 0) } })) ∧
  (∀ (s : State) (v : Byte), s.dataAt 0 27 → exec (.registerWrite 4 v) s = .next (stepAddr
    { s with mover := { s.mover with mvcnt := word16 (byteOf s.mover.mvcnt 1) v } })) ∧
  (∀ (s : State) (v : Byte), s.dataAt 0 28 → exec (.registerWrite 4 v) s = .next (stepAddr
    { s with mover := { s.mover with mvcnt := word16 v (byteOf s.mover.mvcnt 0) } })) ∧
  (∀ (s : State) (v : Byte), s.dataAt 0 29 → exec (.registerWrite 4 v) s = .next (stepAddr
    { s with mover := { s.mover with mvval := word16 (byteOf s.mover.mvval 1) v } })) ∧
  (∀ (s : State) (v : Byte), s.dataAt 0 30 → exec (.registerWrite 4 v) s = .next (stepAddr
    { s with mover := { s.mover with mvval := word16 v (byteOf s.mover.mvval 0) } })) ∧
  (∀ (s : State) (v : Byte), s.dataAt 0 1 → exec (.panelwLowByteWrite v) s = .next (stepAddr
    { s with ctl := { s.ctl with panelwHold := some v } })) ∧
  ∀ (s : State) (v : Byte), s.dataAt 0 2 →
    let w := word16 v (s.ctl.panelwHold.getD (byteOf s.ctl.panelw 0))
    exec (.panelwHighByteWrite v) s = .next (stepAddr
      (if 8 ≤ w.toNat ∧ w.toNat ≤ 512 then { s with ctl := { s.ctl with panelw := w, panelwHold := none } }
      else refuse .badValue { s with ctl := { s.ctl with panelwHold := none } }))

/-- Writes of SPACE, of which service mode accepts 7 alone, and of ADDRL and ADDRH; the enables; the read-only locations of every space; a DATA write beyond its space; and
every DATA write in service mode (R119, R153, R166, R167, R168, R174). -/
def Obligations.WindowWritesAreJudged : Prop :=
  (∀ (s : State) (v : Byte), s.hostOpen → exec (.registerWrite 1 v) s = .next
    (if v.toNat < 8 then { s with win := { s.win with space := v.setWidth 3 } } else refuse .badValue s)) ∧
  (∀ (s : State) (v : Byte), s.windowFree → s.part.service = true → exec (.registerWrite 1 v) s = .next
    (if v = 7 then { s with win := { s.win with space := 7 } } else refuse .serviceMode s)) ∧
  (∀ (s : State) (v : Byte), s.windowFree → exec (.registerWrite 2 v) s = .next
    { s with win := { s.win with addr := word16 (byteOf s.win.addr 1) v } }) ∧
  (∀ (s : State) (v : Byte), s.windowFree → exec (.registerWrite 3 v) s = .next
    { s with win := { s.win with addr := word16 v (byteOf s.win.addr 0) } }) ∧
  (∀ (s : State) (v : Byte), s.dataAt 0 14 → exec (.registerWrite 4 v) s = .next (stepAddr
    { s with irq := { s.irq with ien0 := v } })) ∧
  (∀ (s : State) (v : Byte), s.dataAt 0 15 → exec (.registerWrite 4 v) s = .next (stepAddr
    { s with irq := { s.irq with ien1 := v &&& 0x7F } })) ∧
  (∀ (s : State) (v : Byte) (a : Nat), s.dataAt 0 a → a < 64 →
    (a = 12 ∨ (16 ≤ a ∧ a ≤ 21) ∨ 31 ≤ a) → exec (.registerWrite 4 v) s = .next (stepAddr (refuse .readOnly s))) ∧
  (∀ (s : State) (v : Byte) (a : Nat), s.dataAt 5 a → a < 29 →
    ∃ t, exec (.registerWrite 4 v) s = .next t ∧ t.compByte a = v ∧ (∀ b, b ≠ a → t.compByte b = s.compByte b) ∧
      t = { s with
        store := { s.store with comp := t.store.comp }, win := { s.win with addr := s.win.addr + 1 } }) ∧
  (∀ (s : State) (v : Byte), s.dataAt 5 29 → exec (.registerWrite 4 v) s = .next (stepAddr (refuse .readOnly s))) ∧
  (∀ (s : State) (v : Byte) (a : Nat), (s.dataAt 6 a ∧ a < 32) ∨ (s.dataAt 7 a ∧ a < 95) →
    exec (.registerWrite 4 v) s = .next (stepAddr (refuse .readOnly s))) ∧
  (∀ (s : State) (v : Byte), s.hostOpen → spaceSize s.win.space ≤ s.win.addr.toNat →
    exec (.registerWrite 4 v) s = .next (stepAddr (refuse .range s))) ∧
  ∀ (s : State) (v : Byte), s.windowFree → s.part.service = true →
    exec (.registerWrite 4 v) s = .next (stepAddr (refuse .serviceMode s))

/-- The dots of one cell on a line that shows `slice`. An entry that is not COMPLETE yields CELLW dark dots. A COMPLETE one
yields the leftmost dots of its slice byte, changed in turn by CONCEAL, by BLINK in the OFF phase, which darkens or, with
FLASHINV, inverts, by UNDERLINE, STRIKE, BOLD, which spreads each lit dot one to the right, and REVERSE, then by REVROW and
UNDERROW of the row, and last by the cursor, which NOCURSOR and a blinking mark's OFF phase leave out. A HIDE instance is dark
in every dot of its lines (R83, R85 to R88). -/
def Obligations.CellDotsFollowTheirOrder : Prop :=
  (∀ (cellw slice : Nat) (d : Descriptor) (blinkOn : Bool) (e : Entry), e.state ≠ .complete →
    cellDots cellw d blinkOn slice e = List.replicate cellw false) ∧
  (∀ (cellw slice : Nat) (d : Descriptor) (blinkOn : Bool) (e : Entry), e.state = .complete →
    let lastSlice := decide (slice + 1 = d.first + d.count)
    let glyph : Nat → Bool := fun c => (byteAt e.slices (slice - d.first)).getLsbD (7 - c)
    let conceal : Nat → Bool := fun c => !e.flags.getLsbD 4 && glyph c
    let blink : Nat → Bool := fun c =>
      if e.flags.getLsbD 3 = true ∧ blinkOn = false then e.flags.getLsbD 6 && !conceal c else conceal c
    let underline : Nat → Bool := fun c => (e.flags.getLsbD 1 && decide (slice = e.uline)) || blink c
    let strike : Nat → Bool := fun c => (e.flags.getLsbD 2 && decide (slice = e.sline)) || underline c
    let bold : Nat → Bool := fun c => strike c || (e.flags.getLsbD 5 && decide (1 ≤ c) && strike (c - 1))
    let reverse : Nat → Bool := fun c => Bool.xor (e.flags.getLsbD 0) (bold c)
    let revRow : Nat → Bool := fun c => Bool.xor d.revRow (reverse c)
    let underRow : Nat → Bool := fun c => (d.underRow && lastSlice) || revRow c
    let cursor : CursorMark → Nat → Bool := fun m c =>
      match m.style with
      | .block => !underRow c
      | .line => lastSlice || underRow c
      | .bar => decide (c = 0) || underRow c
    (cellDots cellw d blinkOn slice e).length = cellw ∧
      ∀ c, c < cellw →
        (e.mark = none → (cellDots cellw d blinkOn slice e).getD c false = underRow c) ∧
        ∀ m, e.mark = some m →
          (cellDots cellw d blinkOn slice e).getD c false =
            if e.flags.getLsbD 7 = false ∧ (m.blink = false ∨ blinkOn = true) then cursor m c else underRow c) ∧
  ∀ (cfg : FrameCfg) (blinkOn : Bool) (i : RowInst) (slice : Nat), i.desc.hide = true →
    lineDots cfg blinkOn i slice = List.replicate cfg.panelw.toNat false

/-- FRAMECNT and MVDONE: a low-byte read captures the whole count, and a high-byte read uses and empties the capture, or
reads the count as it stands (R29, R63). -/
def Obligations.CountsAreReadThroughTheirCaptures : Prop :=
  (∀ s : State, s.dataAt 0 17 → exec .framecntLowByteRead s = .next
    { s with win := { s.win with
        addr := s.win.addr + 1, dataOut := byteOf s.scan.framecnt 0, framecntCapture := some s.scan.framecnt } }) ∧
  (∀ s : State, s.dataAt 0 18 → exec .framecntHighByteRead s = .next
    { s with win := { s.win with
        addr := s.win.addr + 1, framecntCapture := none
        dataOut := match s.win.framecntCapture with
          | some w => byteOf w 1
          | none => byteOf s.scan.framecnt 1 } }) ∧
  (∀ s : State, s.dataAt 0 31 → exec .mvdoneLowByteRead s = .next
    { s with win := { s.win with
        addr := s.win.addr + 1, dataOut := byteOf s.mover.mvdone 0, mvdoneCapture := some s.mover.mvdone } }) ∧
  ∀ s : State, s.dataAt 0 32 → exec .mvdoneHighByteRead s = .next
    { s with win := { s.win with
        addr := s.win.addr + 1, mvdoneCapture := none
        dataOut := match s.win.mvdoneCapture with
          | some w => byteOf w 1
          | none => byteOf s.mover.mvdone 1 } }

/-- The two cell latches: a low-byte write loads the assembly latch, with PAIR when another cell's byte is lost; a high-byte
write presents the whole cell, or is refused with PAIR; a low-byte read presents a read; and a high-byte read is served from
the read latch or presents a read (R49 to R53). -/
def Obligations.CellBytesPassThroughTheLatches : Prop :=
  (∀ (s : State) (v : Byte) (a : Nat), s.dataAt 1 a → a < 8192 → a % 2 = 0 →
    let c : CellAddr := BitVec.ofNat 12 (a / 2)
    let held := { s with win := { s.win with assembly := some (c, v) } }
    exec (.cellLowByteWrite v) s = .next (stepAddr
      (match s.win.assembly with
        | some (d, _) => if d = c then held else refuse .pair held
        | none => held))) ∧
  (∀ (s : State) (v lo : Byte) (a : Nat), s.dataAt 1 a → a < 8192 → a % 2 = 1 →
    s.win.assembly = some (BitVec.ofNat 12 (a / 2), lo) →
    exec (.cellHighByteWrite v) s = .next
      { s with
        cellPort := { s.cellPort with hostWait := some (.write (BitVec.ofNat 12 (a / 2)) (word16 v lo)) }.grant
        win := { s.win with cellOp := some .write } }) ∧
  (∀ (s : State) (v : Byte) (a : Nat), s.dataAt 1 a → a < 8192 → a % 2 = 1 →
    (∀ lo, s.win.assembly ≠ some (BitVec.ofNat 12 (a / 2), lo)) →
    exec (.cellHighByteWrite v) s = .next (stepAddr (refuse .pair s))) ∧
  (∀ (s : State) (a : Nat), s.dataAt 1 a → a < 8192 → a % 2 = 0 →
    exec .cellLowByteRead s = .next
      { s with
        cellPort := { s.cellPort with hostWait := some (.read (BitVec.ofNat 12 (a / 2))) }.grant
        win := { s.win with cellOp := some .readLow } }) ∧
  (∀ (s : State) (w : Word16) (a : Nat), s.dataAt 1 a → a < 8192 → a % 2 = 1 →
    s.win.readLatch = some (BitVec.ofNat 12 (a / 2), w) →
    exec .cellHighByteRead s = .next
      { s with win := { s.win with addr := s.win.addr + 1, dataOut := byteOf w 1 } }) ∧
  ∀ (s : State) (a : Nat), s.dataAt 1 a → a < 8192 → a % 2 = 1 →
    (∀ w, s.win.readLatch ≠ some (BitVec.ofNat 12 (a / 2), w)) →
    exec .cellHighByteRead s = .next
      { s with
        cellPort := { s.cellPort with hostWait := some (.read (BitVec.ofNat 12 (a / 2))) }.grant
        win := { s.win with cellOp := some .readHigh } }

/-- DESCRIPTOR_BYTE_WRITE and ATTRIBUTE_BYTE_WRITE change one byte of their table, whatever the byte, and nothing else but
the window address. A descriptor write that falls between the marquee advance of a frame start and its first latch replaces the
advanced byte, and the latch reads the table so left; that such a write is the step after a FRAME_START that has left its latch is
the model's choice of form (log entry 23). A descriptor is read from its sixteen bytes as the layout of space 2 gives them (R1 to
R6, R8, R19, R21, R82, R168). -/
def Obligations.TableWritesChangeOneByte : Prop :=
  (∀ (s : State) (v : Byte) (a : Nat) (c : Instr), s.dataAt 2 a → a < 768 → s.descs.wf = true →
    (c = .registerWrite 4 v ∨ c = .descriptorByteWrite v) →
    ∃ t, exec c s = .next t ∧ t.descs.read a = v ∧ (∀ b, b ≠ a → t.descs.read b = s.descs.read b) ∧
      t = { s with descs := t.descs, win := { s.win with addr := s.win.addr + 1 } }) ∧
  (∀ (s : State) (v : Byte) (a : Nat) (c : Instr), s.part.resetHeld = false → s.scan.latchDue = true →
    s.waitLow = false → s.part.service = false → s.win.space = 2 → s.win.addr.toNat = a → a < 768 →
    s.descs.wf = true → (c = .registerWrite 4 v ∨ c = .descriptorByteWrite v) →
    ∃ t, exec c s = .next t ∧ t.descs.read a = v ∧ (∀ b, b ≠ a → t.descs.read b = s.descs.read b) ∧
      t.win = { s.win with addr := s.win.addr + 1 } ∧ s.headLatched t ∧
      t.scan = { s.scan with latchDue := false, listCode := t.scan.listCode, listIndex := t.scan.listIndex }) ∧
  (∀ (s : State) (v : Byte) (a : Nat), s.dataAt 3 a → a < 128 → s.attrs.wf = true →
    ∃ t, exec (.attributeByteWrite v) s = .next t ∧ t.attrs.read a = v ∧
      (∀ b, b ≠ a → t.attrs.read b = s.attrs.read b) ∧
      t = { s with attrs := t.attrs, win := { s.win with addr := s.win.addr + 1 } }) ∧
  ∀ (m : Memory) (n : Nat),
    let d := readDescriptor m n
    let byte : Nat → Byte := fun k => m.read (16 * n + k)
    d.next = (byte 0).toNat ∧ d.mark = (byte 1).getLsbD 0 ∧ d.markAll = (byte 1).getLsbD 1 ∧
      d.double = (byte 1).getLsbD 2 ∧ d.force = (byte 1).getLsbD 3 ∧ d.marquee = (byte 1).getLsbD 4 ∧
      d.hide = (byte 1).getLsbD 5 ∧ d.revRow = (byte 1).getLsbD 6 ∧ d.underRow = (byte 1).getLsbD 7 ∧
      d.base = (byte 2).toNat + 256 * (byte 3).toNat ∧ d.width = (byte 4).toNat ∧
      (byte 5).toNat = d.first + 16 * (d.count - 1) ∧ d.first < 16 ∧ 1 ≤ d.count ∧ d.count ≤ 16 ∧
      (byte 6).toNat = d.pan + (if d.wide then 8 else 0) + 16 * d.repeats ∧ d.pan < 8 ∧ d.repeats < 16 ∧
      (∃ heldBits, (byte 7).toNat = d.forceAttr + 64 * heldBits) ∧ d.forceAttr < 64 ∧
      d.ringBase = (byte 8).toNat + 256 * (byte 9).toNat ∧ d.ringLen = (byte 10).toNat ∧
      d.stepDots = (byte 11).toNat ∧ d.interval = (byte 12).toNat ∧ d.posCell = (byte 13).toNat ∧
      d.posDot = (byte 14).toNat ∧ d.fCount = (byte 15).toNat

/-- The CODE that slot `a / 18` would hold after a write of `v` at byte `a`, one of its first two (R94). -/
def codeAfterWrite (s : State) (a : Nat) (v : Byte) : Nat :=
  if a % 18 = 0 then v.toNat + 256 * ((s.patchByte (a + 1)).toNat % 4) else (s.patchByte (a - 1)).toNat + 256 * (v.toNat % 4)

/-- The VALID that slot `a / 18` would hold after a write of `v` at byte `a`, one of its first two (R94). -/
def validAfterWrite (s : State) (a : Nat) (v : Byte) : Bool :=
  if a % 18 = 0 then s.patchValid.getLsbD (a / 18) else v.getLsbD 7

/-- PATCH_SLOT_WRITE: a write of a slot's first two bytes that would make two valid slots share a code is refused with
PATCH_DUP; every other write replaces the byte that the host reads back, and no other byte of the table (R92 to R94). -/
def Obligations.PatchWritesAreChecked : Prop :=
  (∀ (s : State) (v : Byte) (a m : Nat), s.dataAt 4 a → a < 288 → a % 18 < 2 → validAfterWrite s a v = true →
    m < 16 → m ≠ a / 18 → s.patchValid.getLsbD m = true → patchCode s.patch m = codeAfterWrite s a v →
    exec (.patchSlotWrite v) s = .next (stepAddr (refuse .patchDup s))) ∧
  ∀ (s : State) (v : Byte) (a : Nat), s.dataAt 4 a → a < 288 → s.patch.wf = true →
    (a % 18 < 2 → validAfterWrite s a v = true →
      ∀ m, m < 16 → m ≠ a / 18 → s.patchValid.getLsbD m = true → patchCode s.patch m ≠ codeAfterWrite s a v) →
    ∃ t, exec (.patchSlotWrite v) s = .next t ∧ t.patchByte a = v ∧
      (∀ b, b < 288 → b ≠ a → t.patchByte b = s.patchByte b) ∧
      t = { s with
        patch := t.patch, patchValid := t.patchValid, win := { s.win with addr := s.win.addr + 1 } }

/-- IFLAG_CLEAR clears exactly the flags written 1, WINFAULT_CLEAR sets WINFAULT to NONE without touching its flag, and
IFLAG_READ drives the flags as they stand; in service mode both are refused with SERVICE_MODE, the read driving 00H. A read of
SPACE, ADDRL, ADDRH or WINFAULT drives the register, WINFAULT by its code, and a read of port 0 drives STATUS, whose eight bits show
the state of the blocks that own them (R153, R166, R170, R172, R173). That `iflagRead` with the number of another port is the read
of that port is the model's reading of the table (log entry 5). -/
def Obligations.FlagsAndStatusAreReadAndCleared : Prop :=
  (∀ (s : State) (v : Byte), s.hostOpen → exec (.iflagClear 5 v) s = .next
    { s with irq := { s.irq with iflag0 := s.irq.iflag0 &&& ~~~v } }) ∧
  (∀ (s : State) (v : Byte), s.hostOpen → exec (.iflagClear 6 v) s = .next
    { s with irq := { s.irq with iflag1 := s.irq.iflag1 &&& ~~~(v &&& 0x7F) } }) ∧
  (∀ (s : State) (v : Byte), s.windowFree → exec (.winfaultClear v) s = .next
    { s with win := { s.win with winfault := .none } }) ∧
  (∀ s : State, s.hostOpen → exec (.iflagRead 5) s = .next
    { s with win := { s.win with dataOut := s.irq.iflag0 } }) ∧
  (∀ s : State, s.hostOpen → exec (.iflagRead 6) s = .next
    { s with win := { s.win with dataOut := s.irq.iflag1 } }) ∧
  (∀ (s : State) (port : PortNo) (v : Byte), s.windowFree → s.part.service = true → port = 5 ∨ port = 6 →
    exec (.iflagRead port) s = .next (drive 0 (refuse .serviceMode s)) ∧
    exec (.iflagClear port v) s = .next (refuse .serviceMode s)) ∧
  (∀ s : State, s.windowFree →
    exec (.iflagRead 1) s = .next { s with win := { s.win with dataOut := BitVec.ofNat 8 s.win.space.toNat } } ∧
    exec (.iflagRead 2) s = .next { s with win := { s.win with dataOut := byteOf s.win.addr 0 } } ∧
    exec (.iflagRead 3) s = .next { s with win := { s.win with dataOut := byteOf s.win.addr 1 } } ∧
    ∀ c, (s.win.winfault, c) ∈ faultCodes →
      exec (.iflagRead 7) s = .next { s with win := { s.win with dataOut := c } }) ∧
  ∀ s : State, s.windowFree →
    exec (.iflagRead 0) s = .next { s with win := { s.win with dataOut := s.status } } ∧
    (s.status.getLsbD 0 = true ↔ s.scan.enabled = true) ∧
    (s.status.getLsbD 1 = true ↔ ∃ n, s.scan.pos = .vblank n) ∧
    (s.status.getLsbD 2 = true ↔ s.mover.mvstate = .running) ∧
    (s.status.getLsbD 3 = true ↔ s.store.queue.length = 4) ∧
    (s.status.getLsbD 4 = true ↔ s.store.engine = .halted) ∧
    (s.status.getLsbD 5 = true ↔ s.store.results ≠ []) ∧
    (s.status.getLsbD 6 = true ↔ s.store.engine = .starting) ∧
    (s.status.getLsbD 7 = true ↔ s.part.service = true)

/-- A strobe while WAIT# is low is held behind the accesses that wait already; HELD_WINDOW_ACCESS takes the oldest, exactly as
it would have been taken at its strobe, once the window's cell request has completed, and the others stay held; a held write of
a descriptor byte too comes before a first latch that is still to be made (R21, R55, R166, R171; log entry 23). That more than one
access can be held, oldest first, is the model's reading of R55 (log entry 14), and that `registerWrite` and `iflagRead` stand for
the strobe of any port is its reading of the table (log entry 5). -/
def Obligations.HeldAccessesAreTakenInOrder : Prop :=
  (∀ (s : State) (port : PortNo) (v : Byte), s.released → s.waitLow = true →
    exec (.registerWrite port v) s = .next
      { s with win := { s.win with held := s.win.held ++ [.write port v] } } ∧
    exec (.iflagRead port) s = .next { s with win := { s.win with held := s.win.held ++ [.read port] } }) ∧
  (∀ (s : State) (x : Access) (rest : List Access), s.released → s.win.cellOp = none → s.win.held = x :: rest →
    exec .heldWindowAccess s = .next (takeAccess x { s with win := { s.win with held := rest } })) ∧
  (∀ (s : State) (port : PortNo) (v : Byte), s.windowFree →
    exec (.registerWrite port v) s = .next (takeAccess (.write port v) s) ∧
    exec (.iflagRead port) s = .next (takeAccess (.read port) s)) ∧
  (∀ (s : State) (v : Byte) (rest : List Access), s.released → s.win.cellOp = none →
    s.win.held = .write 3 v :: rest →
    exec .heldWindowAccess s = .next
      { s with win := { s.win with held := rest, addr := word16 v (byteOf s.win.addr 0) } }) ∧
  (∀ (s : State) (port : PortNo) (v : Byte), s.released → s.win.cellOp = none → s.win.held = [.write port v] →
    exec .heldWindowAccess s = exec (.registerWrite port v) { s with win := { s.win with held := [] } }) ∧
  (∀ (s : State) (port : PortNo), s.released → s.win.cellOp = none → s.win.held = [.read port] →
    exec .heldWindowAccess s = exec (.iflagRead port) { s with win := { s.win with held := [] } }) ∧
  (∀ (s : State) (v : Byte), s.part.resetHeld = false → s.scan.latchDue = true → s.part.service = false →
    s.win.space = 2 → s.win.addr.toNat < 768 → s.win.cellOp = none → s.win.held = [.write 4 v] →
    exec .heldWindowAccess s = exec (.descriptorByteWrite v) { s with win := { s.win with held := [] } }) ∧
  ∀ s : State, s.released → (s.win.cellOp.isSome = true ∨ s.win.held = []) → exec .heldWindowAccess s = .next s

/-- DATA_READ drives the addressed byte and steps the address: the registers of the control block, a byte of the descriptor and
attribute tables, a patch slot with VALID in its place, the composition space, the head result field by field or 00H when there
is none, and the status of the store engine and the loader field by field. A read beyond the space, or in service mode outside
space 7, drives 00H and is recorded; and every DATA access that presents no cell request steps the address by 1 (R92, R119,
R123, R153, R165, R167 to R169). -/
def Obligations.DataReadsStepTheAddress : Prop :=
  (∀ s : State, s.dataAt 0 0 → s.drives (if s.scan.enabled then 1 else 0)) ∧
  (∀ (s : State) (k : Nat), k < 2 → (s.dataAt 0 (1 + k) → s.drives (byteOf s.ctl.panelw k)) ∧
    (s.dataAt 0 (9 + k) → s.drives (byteOf s.ctl.curadr k)) ∧
    (s.dataAt 0 (23 + k) → s.drives (byteOf s.mover.mvsrc k)) ∧
    (s.dataAt 0 (25 + k) → s.drives (byteOf s.mover.mvdst k)) ∧
    (s.dataAt 0 (27 + k) → s.drives (byteOf s.mover.mvcnt k)) ∧
    (s.dataAt 0 (29 + k) → s.drives (byteOf s.mover.mvval k))) ∧
  (∀ s : State, (s.dataAt 0 3 → s.drives s.ctl.vislines) ∧ (s.dataAt 0 4 → s.drives s.ctl.hblank) ∧
    (s.dataAt 0 5 → s.drives s.ctl.vblank) ∧ (s.dataAt 0 6 → s.drives s.ctl.cellw) ∧
    (s.dataAt 0 7 → s.drives s.ctl.blinkp) ∧ (s.dataAt 0 8 → s.drives s.ctl.pace) ∧
    (s.dataAt 0 11 → s.drives s.ctl.cursty) ∧ (s.dataAt 0 12 → s.drives s.scan.headact) ∧
    (s.dataAt 0 13 → s.drives s.scan.headpend) ∧ (s.dataAt 0 14 → s.drives s.irq.ien0) ∧
    (s.dataAt 0 15 → s.drives s.irq.ien1) ∧ (s.dataAt 0 16 → s.drives s.scan.latecnt) ∧
    (s.dataAt 0 19 → s.drives (match s.scan.listCode with | .none => 0 | .badField => 1 | .badLink => 2)) ∧
    (s.dataAt 0 20 → s.drives s.scan.listIndex) ∧ (s.dataAt 0 21 → s.drives s.scan.rowmarkidx) ∧
    (s.dataAt 0 22 → s.drives s.mover.mvkind) ∧
    (s.dataAt 0 33 → s.drives
      (match s.mover.mvstate with | .idle => 0 | .running => 1 | .complete => 2 | .aborted => 3))) ∧
  (∀ (s : State) (a : Nat), s.dataAt 0 a → 34 ≤ a → a < 64 → s.drives 0) ∧
  (∀ (s : State) (a : Nat), (s.dataAt 2 a → a < 768 → s.drives (s.descs.read a)) ∧
    (s.dataAt 3 a → a < 128 → s.drives (s.attrs.read a))) ∧
  (∀ (s : State) (n : Nat), n < 16 →
    (∀ k, k < 18 → k ≠ 1 → s.dataAt 4 (18 * n + k) → s.drives (s.patch.read (18 * n + k))) ∧
    (s.dataAt 4 (18 * n + 1) → ∃ b, s.drives b ∧ b.getLsbD 7 = s.patchValid.getLsbD n ∧
      ∀ k, k < 7 → b.getLsbD k = (s.patch.read (18 * n + 1)).getLsbD k)) ∧
  (∀ (s : State) (k : Fin 29), s.dataAt 5 k.val → s.drives (s.store.comp.get k)) ∧
  (∀ s : State, s.dataAt 5 29 → s.drives s.store.compSeq) ∧
  (∀ (s : State) (a : Nat), s.dataAt 6 a → a < 32 → s.store.results = [] → s.drives 0) ∧
  (∀ (s : State) (r : ResultRec) (rest : List ResultRec), s.store.results = r :: rest →
    (s.dataAt 6 0 → s.drives r.seq) ∧ (s.dataAt 6 1 → s.drives r.kind) ∧
    (s.dataAt 6 2 → s.drives (match r.outcome with | .done => 0 | .failed => 1 | .aborted => 2)) ∧
    (∀ c, (r.error, c) ∈ errorCodes → s.dataAt 6 3 → s.drives c) ∧
    (s.dataAt 6 4 → s.drives (match r.phys with | some b => BitVec.ofNat 8 b.val | none => 0xFF)) ∧
    (s.dataAt 6 5 → s.drives (BitVec.ofNat 8 r.discarded)) ∧
    (∀ k, k < 2 → (s.dataAt 6 (6 + k) → s.drives (byteOf r.detail k)) ∧
      (s.dataAt 6 (8 + k) → s.drives (byteOf r.checkval k)) ∧
      (s.dataAt 6 (13 + k) → s.drives (byteOf r.eraseCount k))) ∧
    (∀ k, k < 3 → s.dataAt 6 (10 + k) → s.drives (byteOf r.generation k)) ∧
    (s.dataAt 6 15 → s.drives
      ((if r.submitter = .loader then 1 else 0) ||| (if r.estimated then 2 else 0))) ∧
    (∀ k, k < 16 → s.dataAt 6 (16 + k) → s.drives (byteAt r.image k))) ∧
  (∀ (s : State) (b : Bank),
    let e := s.store.roles.get b
    (s.statusAt (4 * b.val) → s.drives
      ((match e.role with
        | .unset => 0 | .mapped _ => 1 | .spareClean => 2 | .spareDirty => 3 | .spareDraining => 4 | .staging => 5
        | .retired => 6) ||| (if e.estimated then 0x80 else 0))) ∧
    (s.statusAt (4 * b.val + 1) → s.drives
      (match e.role, s.store.staging with
        | .mapped l, _ => BitVec.ofNat 8 l.val
        | .staging, some g => BitVec.ofNat 8 g.target.val
        | _, _ => 0xFF)) ∧
    ∀ k, k < 2 → s.statusAt (4 * b.val + 2 + k) → s.drives (byteOf e.count k)) ∧
  (∀ s : State,
    (∀ k, k < 3 → s.statusAt (64 + k) → s.drives (byteOf s.store.journal.generation k)) ∧
    (s.statusAt 67 → s.drives (match s.store.journal.active with | .a => 0 | .b => 1)) ∧
    (s.statusAt 68 → s.drives (match s.store.journal.next with | some n => BitVec.ofNat 8 n.val | none => 0xFF)) ∧
    (s.statusAt 69 → s.drives
      (match s.store.journal.latest with
        | some (.a, n) => BitVec.ofNat 8 n.val
        | some (.b, n) => BitVec.ofNat 8 (8 + n.val)
        | none => 0xFF)) ∧
    (s.statusAt 70 → s.drives (match s.store.staging with | none => 0 | some g => if g.filling then 2 else 1)) ∧
    (s.statusAt 71 → s.drives (match s.store.staging with | none => 0xFF | some g => BitVec.ofNat 8 g.bank.val)) ∧
    (s.statusAt 72 → s.drives (match s.store.staging with | none => 0xFF | some g => BitVec.ofNat 8 g.target.val)) ∧
    (∀ k, k < 8 → s.statusAt (73 + k) → ∃ v, s.drives v ∧ ∀ j, j < 8 →
      v.getLsbD j = (match s.store.staging with | none => false | some g => g.written.getLsbD (8 * k + j))) ∧
    (s.statusAt 81 → s.drives
      (match s.store.engine with | .starting => 0 | .idle => 1 | .running => 2 | .waiting => 3 | .halted => 4)) ∧
    (s.statusAt 82 → s.drives (match s.store.wait with | .none => 0 | .resultSpace => 1 | .draining => 2)) ∧
    (∀ k, k < 2 → s.statusAt (83 + k) → s.drives (byteOf s.store.journal.retiredMask k)) ∧
    (s.statusAt 85 → s.drives
      (match s.svc.state with
        | .sync => 0 | .confirm => 1 | .ready => 2 | .receiving => 3 | .executing => 4 | .closing => 5)) ∧
    (∀ k, k < 2 → s.svc.divisor < 65536 → s.statusAt (86 + k) →
      s.drives (byteOf (BitVec.ofNat 16 s.svc.divisor) k)) ∧
    (∀ c, (s.svc.lastError, c) ∈ errorCodes → s.statusAt 88 → s.drives c) ∧
    (∀ k, k < 2 → (s.statusAt (89 + k) → s.drives (byteOf s.svc.accepted k)) ∧
      (s.statusAt (91 + k) → s.drives (byteOf s.svc.refused k))) ∧
    (s.statusAt 93 → s.drives (match s.svc.outstanding with | some (q, _) => q | none => 0)) ∧
    (s.statusAt 94 → s.drives
      (match s.svc.outstanding with | none => 0 | some (_, .reply) => 1 | some (_, .silent) => 2))) ∧
  (∀ s : State, s.hostOpen → spaceSize s.win.space ≤ s.win.addr.toNat →
    exec .dataRead s = .next (stepAddr (drive 0 (refuse .range s)))) ∧
  (∀ s : State, s.windowFree → s.part.service = true → s.win.space ≠ 7 →
    exec .dataRead s = .next (stepAddr (drive 0 (refuse .serviceMode s)))) ∧
  ∀ (s t : State) (v : Byte), s.windowFree →
    exec (.registerWrite 4 v) s = .next t ∨ exec .dataRead s = .next t → t.win.cellOp = none →
    t.win.addr = s.win.addr + 1

/-- CLONE goes on glyph by glyph. The completed read of a source glyph begins the program operation of its image on the staging
bank; a blank one is done with no pulse; and with LOWV# asserted the first pulse is not presented and the command fails with
SUPPLY_LOW. When an operation's verify read finds its target, the index joins WRITTEN and the next index not skipped is read
from the target's present bank; after the last the command completes with the total of the pulses (R105, R110, R114, R125,
R128, R139). -/
def Obligations.CloneGoesOnGlyphByGlyph : Prop :=
  (∀ (s : State) (f : InFlight) (skip : BitVec 64) (g : Staging) (i total n : Nat) (b : Bank), s.released →
    s.arrPort.access = some (.store (.read (.glyph b n)) false) → s.store.scan = none → s.store.inFlight = some f →
    f.prog = none → f.erase = none → f.mapw = none → f.stage = .cloning i total → f.entry.body = .clone skip →
    s.store.staging = some g → s.svc.outstanding = none →
    let raw := (List.range 16).map fun k => s.array.read (1028 * b.val + 16 * n + k)
    (raw = List.replicate 16 0xFF →
      ∃ t, exec .arrayReadComplete s = .next t ∧ s.portFree.cloneGoesOn t f g skip i total) ∧
    (raw ≠ List.replicate 16 0xFF → s.part.lowv = false →
      ∃ t k, exec .arrayReadComplete s = .next t ∧ s.portFree.presents t (.pulse (.glyph g.bank i)) ∧
        t.countsGrant (.pulse (.glyph g.bank i)) 0 k ∧
        t.store.inFlight = some { f with
          prog := some { place := .glyph g.bank i, target := raw, set := pulsedPlaces raw, pulses := k
                         phase := .pulsing } } ∧
        t.store.staging = some g ∧ t.store.results = s.store.results ∧ t.array = s.array) ∧
    (raw ≠ List.replicate 16 0xFF → s.part.lowv = true →
      ∃ t, exec .arrayReadComplete s = .next t ∧ s.halts t f .supplyLow (some g.bank) 0 ∧ t.store.staging = none ∧
        s.onlyRole t g.bank .spareDirty ∧ t.array = s.array)) ∧
  ∀ (s : State) (f : InFlight) (p : ProgOp) (u : ArrUnit) (skip : BitVec 64) (g : Staging) (i total : Nat), s.released →
    s.arrPort.access = some (.store (.read u) false) → s.store.scan = none → s.store.inFlight = some f →
    f.plainProg p → p.phase = .verifying → f.stage = .cloning i total → f.entry.body = .clone skip →
    s.store.staging = some g → s.svc.outstanding = none → s.rawBytes u = p.target →
    ∃ t, exec .arrayReadComplete s = .next t ∧ s.portFree.cloneGoesOn t f g skip i (total + p.pulses)

/-- INT is asserted exactly when some interrupt flag and its enable are both set, where bit 7 of IEN1 reads 0; each
of the fifteen flags stands at its place of the table of R173, and its enable at the same place; and setting a flag sets that flag
and no other (R173, R174). -/
def Obligations.IntFollowsFlagsAndEnables : Prop :=
  (∀ q : Interrupts, q.ien1.getLsbD 7 = false →
    (q.int = true ↔
      ∃ f inSecond bit, (f, inSecond, bit) ∈ flagPlaces ∧ q.isSet f = true ∧
        (if inSecond then q.ien1.getLsbD bit else q.ien0.getLsbD bit) = true)) ∧
  (∀ f : Flag, ∃ inSecond bit, (f, inSecond, bit) ∈ flagPlaces) ∧
  (∀ (q : Interrupts) (f : Flag) (inSecond : Bool) (bit : Nat), (f, inSecond, bit) ∈ flagPlaces →
    q.isSet f = if inSecond then q.iflag1.getLsbD bit else q.iflag0.getLsbD bit) ∧
  ∀ (q : Interrupts) (f g : Flag), (q.raise f).isSet g = (decide (f = g) || q.isSet g)

/-! ## The cell port, the mover and the row loader -/

/-- The cell port grants the row loader first, then the host window and the mover by the turn record, and nothing while an
access is in progress. At its completion a host write stores its whole cell and no other byte, empties the assembly latch and
refreshes the read latch; a host read fills the read latch and returns its byte; and the next grant is made (R43, R46, R51 to
R54, R168). -/
def Obligations.CellPortServesTheHost : Prop :=
  (∀ (p : CellPort) (acc : CellAccess), p.access = some acc → p.grant = p) ∧
  (∀ (p : CellPort) (a : CellAddr), p.access = none → p.loaderWait = some a →
    p.grant = { p with loaderWait := none, access := some ⟨.rowLoader, .read a, false⟩ }) ∧
  (∀ (p : CellPort) (r : CellReq), p.access = none → p.loaderWait = none → p.hostWait = some r →
    (p.moverWait = none ∨ p.turn = .mover) →
    p.grant = { p with hostWait := none, access := some ⟨.host, r, false⟩, turn := .host }) ∧
  (∀ (p : CellPort) (r : CellReq), p.access = none → p.loaderWait = none → p.moverWait = some r →
    (p.hostWait = none ∨ p.turn = .host) →
    p.grant = { p with moverWait := none, access := some ⟨.mover, r, false⟩, turn := .mover }) ∧
  (∀ (s : State) (a : CellAddr) (w : Word16) (ab : Bool), s.released → s.cells.wf = true →
    s.cellPort.access = some ⟨.host, .write a w, ab⟩ → s.win.cellOp = some .write →
    ∃ t, exec .cellPortComplete s = .next t ∧ t.cell a = w ∧
      (∀ x, x / 2 ≠ a.toNat → t.cells.read x = s.cells.read x) ∧
      t.win = { s.win with
        addr := s.win.addr + 1, assembly := none, cellOp := none
        readLatch := match s.win.readLatch with
          | some (d, old) => some (d, if d = a then w else old)
          | none => none } ∧
      t.cellPort = { s.cellPort with access := none }.grant ∧ t.irq = s.irq ∧ t.ctl = s.ctl ∧ t.mover = s.mover ∧
      t.scan = s.scan ∧ t.rows = s.rows ∧ t.descs = s.descs ∧ t.attrs = s.attrs ∧ t.patch = s.patch ∧
      t.patchValid = s.patchValid ∧ t.array = s.array ∧ t.svc = s.svc) ∧
  ∀ (s : State) (a : CellAddr) (op : CellOp) (ab : Bool), s.released →
    s.cellPort.access = some ⟨.host, .read a, ab⟩ → s.win.cellOp = some op → op ≠ .write →
    ∃ t, exec .cellPortComplete s = .next t ∧ t.cells = s.cells ∧
      t.win = { s.win with
        addr := s.win.addr + 1, readLatch := some (a, s.cell a), cellOp := none
        dataOut := if op = .readLow then byteOf (s.cell a) 0 else byteOf (s.cell a) 1 } ∧
      t.cellPort = { s.cellPort with access := none }.grant ∧ t.irq = s.irq ∧ t.ctl = s.ctl ∧ t.mover = s.mover ∧
      t.scan = s.scan ∧ t.rows = s.rows ∧ t.descs = s.descs ∧ t.attrs = s.attrs ∧ t.patch = s.patch ∧
      t.patchValid = s.patchValid ∧ t.array = s.array ∧ t.svc = s.svc

/-- The completions of the mover's accesses. A read becomes the transfer word, and the step's write is presented. A write
stores its cell and no other byte and counts in MVDONE; the operation then ends ABORTED after an abort, COMPLETE after its
last step, with the MOVER flag, or presents the next step's first request in the latched direction. An access that DISPLAY
RESET cut loose completes; a write of it is counted in MVDONE while no MOVER START has come since (R69), and nothing else follows
but the first request of an operation that has started since (R45, R61 to R65). That a write so cut loose is not counted once a
MOVER START has come (`tail` is false then) is the model's own choice, against the letter of R69 (log entry 12), and that the new
operation's first request was put off until then is its reading of R45 (log entry 8). -/
def Obligations.MoverStepsAreCounted : Prop :=
  (∀ (s : State) (a : CellAddr) (op : MoverOp), s.released → s.cellPort.access = some ⟨.mover, .read a, false⟩ →
    s.mover.op = some op →
    ∃ t, exec .cellPortComplete s = .next t ∧ t.mover = { s.mover with transfer := some (s.cell a) } ∧
      t.cellPort = { s.cellPort with
        access := none
        moverWait := some (.write (op.dst + BitVec.ofNat 12 s.mover.position) (s.cell a)) }.grant ∧
      t.cells = s.cells ∧ t.irq = s.irq ∧ t.win = s.win ∧ t.scan = s.scan ∧ t.rows = s.rows) ∧
  (∀ (s : State) (a : CellAddr) (w : Word16) (op : MoverOp), s.released → s.cells.wf = true →
    s.cellPort.access = some ⟨.mover, .write a w, false⟩ → s.mover.op = some op →
    ∃ t, exec .cellPortComplete s = .next t ∧ t.cell a = w ∧
      (∀ x, x / 2 ≠ a.toNat → t.cells.read x = s.cells.read x) ∧ t.mover.mvdone = s.mover.mvdone + 1 ∧
      t.mover.transfer = none ∧ t.win = s.win ∧ t.scan = s.scan ∧ t.rows = s.rows ∧ t.descs = s.descs ∧
      t.attrs = s.attrs ∧ t.patch = s.patch ∧ t.array = s.array ∧
      (s.mover.aborting = true →
        t.mover.mvstate = .aborted ∧ t.mover.op = none ∧ t.irq = s.irq.raise .mover ∧
          t.cellPort = { s.cellPort with access := none }.grant) ∧
      (s.mover.aborting = false →
        ((op.descending = true ∧ s.mover.position = 0) ∨
          (op.descending = false ∧ op.count ≤ s.mover.position + 1)) →
        t.mover.mvstate = .complete ∧ t.mover.op = none ∧ t.irq = s.irq.raise .mover ∧
          t.cellPort = { s.cellPort with access := none }.grant) ∧
      (∀ i, s.mover.aborting = false →
        ((op.descending = true ∧ s.mover.position = i + 1) ∨
          (op.descending = false ∧ i = s.mover.position + 1 ∧ i < op.count)) →
        t.mover.mvstate = s.mover.mvstate ∧ t.mover.op = some op ∧ t.mover.position = i ∧ t.irq = s.irq ∧
          t.cellPort = { s.cellPort with
            access := none
            moverWait := some (match op.kind with
              | .fill => .write (op.dst + BitVec.ofNat 12 i) op.value
              | .copy => .read (op.src + BitVec.ofNat 12 i)) }.grant)) ∧
  ∀ (s : State) (r : CellReq), s.released → s.cells.wf = true → s.cellPort.access = some ⟨.mover, r, true⟩ →
    ∃ t, exec .cellPortComplete s = .next t ∧
      (∀ a, r = .read a → t.cells = s.cells) ∧
      (∀ a w, r = .write a w → t.cell a = w ∧ ∀ x, x / 2 ≠ a.toNat → t.cells.read x = s.cells.read x) ∧
      (s.mover.tail = true → t.mover = { s.mover with mvdone := s.mover.mvdone + 1, tail := false }) ∧
      (s.mover.tail = false → t.mover = s.mover) ∧
      (s.mover.op = none → t.cellPort = { s.cellPort with access := none }.grant) ∧
      (∀ op, s.mover.op = some op → t.cellPort = { s.cellPort with
        access := none
        moverWait := some (match op.kind with
          | .fill => .write (op.dst + BitVec.ofNat 12 s.mover.position) op.value
          | .copy => .read (op.src + BitVec.ofNat 12 s.mover.position)) }.grant) ∧
      t.irq = s.irq ∧ t.win = s.win ∧ t.scan = s.scan ∧ t.rows = s.rows ∧ t.descs = s.descs ∧ t.attrs = s.attrs ∧
      t.patch = s.patch ∧ t.array = s.array

/-- The completion of a loader's cell read resolves the entry in hand: attributes and cursor mark are sampled; a valid patch
slot that holds the code serves it; a code of logical bank 14 or 15, and any other code while the store engine is STARTING,
shows a blank glyph; and every other code's slices are asked of the bank that the display map names. When the last entry so
becomes complete, the loader rests and a waiting pulse may run. The completion of a read of an abandoned load changes no entry; a
load that has begun since presents its first request then (R42, R73, R74, R76, R79, R81, R91, R95, R97, R108). -/
def Obligations.ResolutionFollowsItsOrder : Prop :=
  (∀ (s : State) (a : CellAddr), s.released → s.cellPort.access = some ⟨.rowLoader, .read a, true⟩ →
    ∃ t, exec .cellPortComplete s = .next t ∧ t.rows = s.rows ∧ t.cells = s.cells ∧ t.scan = s.scan ∧ t.irq = s.irq ∧
      t.win = s.win ∧ t.mover = s.mover ∧ t.attrs = s.attrs ∧ t.patch = s.patch ∧ t.array = s.array ∧
      (∀ wk, s.rows.loader = .loading → s.rows.work = some wk →
        t.cellPort = { s.cellPort with access := none, loaderWait := some wk.addr }.grant) ∧
      (s.rows.loader ≠ .loading → t.cellPort = { s.cellPort with access := none }.grant)) ∧
  ∀ (s : State) (a : CellAddr) (wk : Work) (i : RowInst), s.released →
    s.cellPort.access = some ⟨.rowLoader, .read a, false⟩ → s.rows.work = some wk → wk.addr = a →
    s.rows.loading = some i → wk.entry < i.entries.length →
    let w := s.cell a
    let code := w.toNat % 1024
    let attr := if i.desc.force then i.desc.forceAttr else w.toNat / 1024
    ∃ t e j, exec .cellPortComplete s = .next t ∧ t.rows.loading = some j ∧ j.entries[wk.entry]? = some e ∧
      (∀ k, k ≠ wk.entry → k ≠ wk.entry + 1 → j.entries[k]? = i.entries[k]?) ∧ j.desc = i.desc ∧
      e.flags = s.attrs.read (2 * attr) ∧ e.uline = (s.attrs.read (2 * attr + 1)).toNat % 16 ∧
      e.sline = (s.attrs.read (2 * attr + 1)).toNat / 16 ∧
      (e.mark.isSome = true ↔ s.ctl.cursty.getLsbD 3 = true ∧ a = s.ctl.curadr.setWidth 12) ∧
      (∀ m, e.mark = some m → m.blink = s.ctl.cursty.getLsbD 2 ∧
        (s.ctl.cursty.toNat % 4 = 0 → m.style = .block) ∧ (s.ctl.cursty.toNat % 4 = 1 → m.style = .line) ∧
        (s.ctl.cursty.toNat % 4 = 2 → m.style = .bar)) ∧
      (∀ n, n < 16 → s.patchValid.getLsbD n = true → patchCode s.patch n = code →
        (∀ m, m < 16 → m ≠ n → s.patchValid.getLsbD m = true → patchCode s.patch m ≠ code) →
        e.state = .complete ∧
          e.slices = (List.range i.desc.count).map fun k => s.patch.read (18 * n + 2 + i.desc.first + k)) ∧
      ((∀ n, n < 16 → s.patchValid.getLsbD n = true → patchCode s.patch n ≠ code) →
        (896 ≤ code ∨ s.store.engine = .starting) →
        e.state = .complete ∧ e.slices = List.replicate i.desc.count 0) ∧
      (e.state = .complete → (wk.entry + 1 < i.desc.width →
          t.rows.loader = .loading ∧ t.rows.work.map Work.entry = some (wk.entry + 1)) ∧
        (i.desc.width ≤ wk.entry + 1 → t.rows.loader = .resting ∧ t.rows.work = none) ∧
        (s.arrPort.access = none → s.arbitrates t s.arrPort) ∧
        (s.arrPort.access.isSome = true → t.arrPort = s.arrPort)) ∧
      (∀ l : Logical, (∀ n, n < 16 → s.patchValid.getLsbD n = true → patchCode s.patch n ≠ code) →
        l.val = code / 64 → s.store.engine ≠ .starting →
        e.state = .filling ∧ t.rows.work = some { wk with phase := .arrayRead } ∧
          let g : GlyphRead := { bank := s.scan.displayMap.get l, glyph := code % 64, first := i.desc.first
                                 count := i.desc.count }
          (s.arrPort.access = none → t.arrPort.access = some (.loader g false)) ∧
            (s.arrPort.access.isSome = true →
              t.arrPort.access = s.arrPort.access ∧ t.arrPort.loaderWait = some g)) ∧
      t.rows.displaying = s.rows.displaying ∧ t.cells = s.cells ∧ t.descs = s.descs ∧ t.attrs = s.attrs ∧
      t.patch = s.patch ∧ t.array = s.array ∧ t.win = s.win ∧ t.scan = s.scan ∧ t.mover = s.mover ∧ t.irq = s.irq

/-! ## The glyph array -/

/-- A read of the array that completes goes to its claimant: slices to the row loader's entry, inverted; the image of
READGLYPH, inverted, into its result; the words of a glyph into CHECK's sum; a slot or a header into the start-up scan; and
the data of an abandoned read of either claimant nowhere. The scan reads the slots of area A and B and then the headers in turn. A
load that began while an abandoned read was in progress presents its first cell read then, and so does the store engine a request
that it put off. At each completion the arbiter grants the other claimant what it may (R73, R76, R79, R81, R105 to R108, R115,
R134, R135, R149, R150; that a request of the store engine is put off is the model's reading of R107, log entry 8). -/
def Obligations.ArrayReadsAreDelivered : Prop :=
  (∀ (s : State) (g : GlyphRead) (wk : Work) (i : RowInst) (e : Entry), s.released →
    s.arrPort.access = some (.loader g false) → s.rows.work = some wk → s.rows.loading = some i →
    i.entries[wk.entry]? = some e →
    ∃ t j, exec .arrayReadComplete s = .next t ∧ t.rows.loading = some j ∧
      j.entries[wk.entry]? = some { e with
        state := .complete
        slices := (List.range g.count).map fun k =>
          ~~~(s.array.read (1028 * g.bank.val + 16 * g.glyph + g.first + k)) } ∧
      (∀ k, k ≠ wk.entry → k ≠ wk.entry + 1 → j.entries[k]? = i.entries[k]?) ∧
      (wk.entry + 1 < i.desc.width →
        let a := i.addrs.getD (wk.entry + 1) 0
        t.rows.loader = .loading ∧ t.rows.work = some { entry := wk.entry + 1, addr := a, phase := .cellRead } ∧
          (s.cellPort.access.map CellAccess.who ≠ some .rowLoader →
            t.cellPort = { s.cellPort with loaderWait := some a }.grant)) ∧
      (i.desc.width ≤ wk.entry + 1 → t.rows.loader = .resting ∧ t.rows.work = none ∧ t.cellPort = s.cellPort) ∧
      s.arbitrates t s.portFree.arrPort ∧
      t.rows.displaying = s.rows.displaying ∧ t.array = s.array ∧ t.scan = s.scan ∧ t.win = s.win ∧ t.irq = s.irq) ∧
  (∀ (s : State) (g : GlyphRead), s.released → s.arrPort.access = some (.loader g true) →
    ∃ t, exec .arrayReadComplete s = .next t ∧ t.rows = s.rows ∧ t.array = s.array ∧ t.scan = s.scan ∧ t.win = s.win ∧
      t.irq = s.irq ∧ t.cells = s.cells ∧ s.arbitrates t s.portFree.arrPort ∧
      (∀ wk, s.rows.loader = .loading → s.rows.work = some wk →
        t.cellPort = { s.cellPort with loaderWait := some wk.addr }.grant) ∧
      (s.rows.loader ≠ .loading → t.cellPort = s.cellPort)) ∧
  (∀ (s : State) (f : InFlight) (b c : Bank) (g : Nat), s.released →
    s.arrPort.access = some (.store (.read (.glyph b g)) false) → s.store.scan = none → s.store.inFlight = some f →
    f.prog = none → f.erase = none → f.stage = .reading c → s.svc.outstanding = none →
    ∃ t, exec .arrayReadComplete s = .next t ∧
      s.completes t f (some c) 0 0 ((List.range 16).map fun k => ~~~(s.array.read (1028 * b.val + 16 * g + k))) ∧
      (∀ r, s.arrPort.loaderWait = some r → t.arrPort.access = some (.loader r false)) ∧
      t.array = s.array ∧ t.store.staging = s.store.staging ∧ t.store.roles = s.store.roles) ∧
  (∀ (s : State) (f : InFlight) (b c : Bank) (g i : Nat) (sum : Word16), s.released →
    s.arrPort.access = some (.store (.read (.glyph b g)) false) → s.store.scan = none → s.store.inFlight = some f →
    f.prog = none → f.erase = none → f.stage = .summing c i sum → s.svc.outstanding = none →
    let raw : Nat → Byte := fun k => ~~~(s.array.read (1028 * b.val + 16 * g + k))
    let total := (List.range 8).foldl (fun acc k => acc + word16 (raw (2 * k + 1)) (raw (2 * k))) sum
    ∃ t, exec .arrayReadComplete s = .next t ∧
      (63 ≤ i → s.completes t f (some c) 0 total (List.replicate 16 0)) ∧
      (i < 63 → s.portFree.presents t (.read (.glyph c (i + 1))) ∧
        t.store.inFlight = some { f with stage := .summing c (i + 1) total } ∧ t.store.results = s.store.results) ∧
      (∀ r, s.arrPort.loaderWait = some r → t.arrPort.access = some (.loader r false)) ∧ t.array = s.array) ∧
  (∀ (s : State) (u : ArrUnit) (p : ScanProgress), s.released →
    s.arrPort.access = some (.store (.read u) false) → s.store.scan = some p →
    ∃ t, exec .arrayReadComplete s = .next t ∧ t.array = s.array ∧ t.store.engine = s.store.engine ∧
      (p.slots.length < 16 → t.store.scan = some
        { p with slots := p.slots ++ [classify ((List.range u.size).map fun k => s.array.read (u.base + k))] }) ∧
      (16 ≤ p.slots.length → t.store.scan = some
        { p with headers := p.headers ++ [headerCount ((List.range u.size).map fun k => s.array.read (u.base + k))] }) ∧
      (∀ n, n = p.slots.length + 1 → n < 16 →
        s.portFree.presents t (.read (.slot (if n < 8 then .a else .b) (n % 8)))) ∧
      (p.slots.length = 15 → p.headers = [] → s.portFree.presents t (.read (.header 0))) ∧
      (∀ b : Bank, p.slots.length = 16 → b.val = p.headers.length + 1 → s.portFree.presents t (.read (.header b))) ∧
      ∀ r, s.arrPort.loaderWait = some r → t.arrPort.access = some (.loader r false)) ∧
  (∀ (s : State) (u : ArrUnit), s.released → s.arrPort.access = some (.store (.read u) true) →
    s.store.deferred = none →
    ∃ t, exec .arrayReadComplete s = .next t ∧ t.array = s.array ∧ t.store.results = s.store.results ∧
      t.store.queue = s.store.queue ∧ t.store.scan = s.store.scan ∧ t.store.staging = s.store.staging ∧
      t.store.roles = s.store.roles ∧ t.store.deferred = none ∧ t.rows = s.rows ∧ t.cellPort = s.cellPort ∧
      s.arbitrates t s.portFree.arrPort) ∧
  ∀ (s : State) (u : ArrUnit) (r : StoreReq), s.released → s.arrPort.access = some (.store (.read u) true) →
    s.store.deferred = some r → ((∃ v, r = .read v) ∨ s.part.lowv = false) →
    ∃ t, exec .arrayReadComplete s = .next t ∧
      ({ s.portFree with store := { s.store with deferred := none } } : State).presents t r ∧ t.array = s.array ∧
      t.store.results = s.store.results ∧ t.store.queue = s.store.queue ∧ t.store.scan = s.store.scan ∧
      t.store.staging = s.store.staging ∧ t.store.roles = s.store.roles ∧ t.rows = s.rows

/-- The verify reads decide. A program operation whose bytes all read their target is done: PROGRAM completes with the pulses
used in DETAIL and its index WRITTEN. With bytes left and fewer than twelve pulses used, exactly those are pulsed again, and
after the twelfth the limit is reached. An erase verify that finds every byte of a bank erased programs a header with the count
plus 1; one that does not, of a bank or a map area, gives another sub-pulse while the PACE budget lasts. While LOWV# is asserted the
further pulse, the header's first pulse and the further sub-pulse are not presented, and the command is ended by supply (R108, R110
to R114, R129, R139).
Where a CLONE, a prewrite, a header and a map write go on from their verify reads is stated beside this. -/
def Obligations.VerifyReadsDecide : Prop :=
  (∀ (s : State) (f : InFlight) (p : ProgOp) (u : ArrUnit) (g : Staging) (i : Byte) (image : List Byte), s.released →
    s.arrPort.access = some (.store (.read u) false) → s.store.scan = none → s.store.inFlight = some f →
    f.plainProg p → p.phase = .verifying → f.stage = .programming → f.entry.body = .program i image →
    s.store.staging = some g → s.svc.outstanding = none → s.rawBytes u = p.target →
    ∃ t, exec .arrayReadComplete s = .next t ∧
      s.completes t f (some g.bank) (BitVec.ofNat 16 p.pulses) 0 (List.replicate 16 0) ∧
      t.store.staging = some { g with written := g.written ||| (1#64 <<< i.toNat) } ∧
      t.store.roles = s.store.roles ∧ t.array = s.array) ∧
  (∀ (s : State) (f : InFlight) (p : ProgOp) (u : ArrUnit), s.released → s.part.lowv = false →
    s.arrPort.access = some (.store (.read u) false) → s.store.scan = none → s.store.inFlight = some f →
    f.prog = some p → p.phase = .verifying → s.rawBytes u ≠ p.target → u.size = p.target.length →
    s.arrPort.storeWait = none →
    let left := (List.range p.target.length).filter fun k => decide (byteAt (s.rawBytes u) k ≠ byteAt p.target k)
    ∃ t n, exec .arrayReadComplete s = .next t ∧ left ≠ [] ∧
      (p.pulses < 12 → s.portFree.presents t (.pulse p.place) ∧ t.countsGrant (.pulse p.place) p.pulses n ∧
        t.store.inFlight = some { f with prog := some { p with set := left, phase := .pulsing, pulses := n } }) ∧
      (12 ≤ p.pulses → t.store.inFlight = some { f with prog := some { p with set := left, phase := .limit } } ∧
        t.arrPort.storeWait = none) ∧
      t.array = s.array ∧ t.store.results = s.store.results) ∧
  (∀ (s : State) (f : InFlight) (p : ProgOp) (u : ArrUnit), s.released → s.part.lowv = true →
    s.arrPort.access = some (.store (.read u) false) → s.store.scan = none → s.store.inFlight = some f →
    f.prog = some p → p.phase = .verifying → s.rawBytes u ≠ p.target → u.size = p.target.length → p.pulses < 12 →
    s.svc.outstanding = none →
    ∃ t, exec .arrayReadComplete s = .next t ∧ s.endsBySupply t f ∧ t.array = s.array) ∧
  (∀ (s : State) (f : InFlight) (e : EraseOp), s.released → s.part.lowv = true →
    s.arrPort.access = some (.store (.read (.whole e.target)) false) → s.store.scan = none →
    s.store.inFlight = some f → f.prog = none → f.erase = some e → e.stage = .verifying → s.svc.outstanding = none →
    (((∃ b, e.target = .bank b) ∧ ∀ k, k < e.target.size → s.array.read (e.target.base + k) = 0xFF) ∨
      ((∃ k, k < e.target.size ∧ s.array.read (e.target.base + k) ≠ 0xFF) ∧
        e.given < (match e.pace.toNat with | 0 => 3200 | 1 => 1600 | 2 => 800 | _ => 400))) →
    ∃ t, exec .arrayReadComplete s = .next t ∧ s.endsBySupply t f ∧ t.array = s.array) ∧
  (∀ (s : State) (f : InFlight) (e : EraseOp) (b : Bank), s.released → s.part.lowv = false →
    s.arrPort.access = some (.store (.read (.whole (.bank b))) false) → s.store.scan = none →
    s.store.inFlight = some f → f.prog = none → f.erase = some e → e.stage = .verifying → e.target = .bank b →
    (∀ k, k < 1028 → s.array.read (1028 * b.val + k) = 0xFF) →
    let old := (s.store.roles.get b).count
    let c : Word16 := if old = 65535 then 65535 else old + 1
    let header := [byteOf c 0, byteOf c 1, ~~~(byteOf c 0), ~~~(byteOf c 1)]
    ∃ t n, exec .arrayReadComplete s = .next t ∧ s.portFree.presents t (.pulse (.header b)) ∧
      t.countsGrant (.pulse (.header b)) 0 n ∧
      t.store.inFlight = some { f with
        erase := some { e with stage := .header }
        prog := some { place := .header b, target := header, set := pulsedPlaces header, pulses := n
                       phase := .pulsing } } ∧
      t.store.roles = s.store.roles ∧ t.array = s.array) ∧
  ∀ (s : State) (f : InFlight) (e : EraseOp), s.released → s.part.lowv = false →
    s.arrPort.access = some (.store (.read (.whole e.target)) false) → s.store.scan = none →
    s.store.inFlight = some f → f.prog = none → f.erase = some e → e.stage = .verifying → s.arrPort.storeWait = none →
    (∃ k, k < e.target.size ∧ s.array.read (e.target.base + k) ≠ 0xFF) →
    ∃ t n, exec .arrayReadComplete s = .next t ∧
      (e.given < (match e.pace.toNat with | 0 => 3200 | 1 => 1600 | 2 => 800 | _ => 400) →
        s.portFree.presents t (.subPulse e.target) ∧ t.countsGrant (.subPulse e.target) e.given n ∧
          t.store.inFlight = some { f with erase := some { e with stage := .subPulsing, given := n } }) ∧
      ((match e.pace.toNat with | 0 => 3200 | 1 => 1600 | 2 => 800 | _ => 400) ≤ e.given →
        t.store.inFlight = some { f with erase := some { e with stage := .spent } }) ∧
      t.store.roles = s.store.roles ∧ t.store.results = s.store.results ∧ t.array = s.array

/-- The verify of a completion marker ends COMMIT's map write: in one step the journal takes the record's generation and
slot, the store map names the staged bank, the old bank drains or is dirty by the display state, the staging closes, and the
command completes DONE; with the display disabled the display map is copied too. A commit and a disable, or a commit and a
DISPLAY RESET, taken together leave the same maps and roles in either order (R99 to R101, R130, R145). -/
def Obligations.CommitTakesEffectInOneStep : Prop :=
  (∀ (s : State) (f : InFlight) (p : ProgOp) (m : MapOp) (g : Staging) (u : ArrUnit), s.released →
    s.arrPort.access = some (.store (.read u) false) → s.store.scan = none → s.store.inFlight = some f →
    f.prog = some p → f.erase = none → f.mapw = some m → p.phase = .verifying → m.stage = .marker →
    f.stage = .committing → s.rawBytes u = p.target → s.store.staging = some g → s.svc.outstanding = none →
    s.store.storeMap.get g.target ≠ g.bank →
    ∃ t, exec .arrayReadComplete s = .next t ∧
      s.completes t f (some g.bank) (word16 m.area.code (BitVec.ofNat 8 m.slot.val)) 0 (List.replicate 16 0) ∧
      (∀ l, t.store.storeMap.get l = if l = g.target then g.bank else s.store.storeMap.get l) ∧
      t.store.staging = none ∧
      t.store.journal = { s.store.journal with
        generation := m.generation, retiredMask := m.mask, latest := some (m.area, m.slot)
        next := afterSlot m.slot } ∧
      (t.store.roles.get g.bank).role = .mapped g.target ∧
      (s.scan.enabled = true → t.scan.displayMap = s.scan.displayMap ∧
        (t.store.roles.get (s.store.storeMap.get g.target)).role = .spareDraining ∧
        ∀ b, b ≠ g.bank → b ≠ s.store.storeMap.get g.target → t.store.roles.get b = s.store.roles.get b) ∧
      (s.scan.enabled = false → t.scan.displayMap = t.store.storeMap ∧
        (t.store.roles.get (s.store.storeMap.get g.target)).role = .spareDirty ∧
        ∀ b, (t.store.roles.get b).role ≠ .spareDraining) ∧
      t.array = s.array ∧ t.ctl = s.ctl ∧ t.cells = s.cells ∧ t.win = s.win) ∧
  ∀ (s : State) (c : Instr) (f : InFlight) (p : ProgOp) (m : MapOp) (g : Staging) (u : ArrUnit), s.hostOpen →
    (c = .displayReset ∨ ∃ v : Byte, c = .displayDisable v ∧ v.getLsbD 0 = false ∧ s.dataAt 0 0) →
    s.scan.enabled = true → s.store.engine ≠ .starting →
    s.arrPort.access = some (.store (.read u) false) → s.store.scan = none → s.store.inFlight = some f →
    f.prog = some p → f.erase = none → f.mapw = some m → p.phase = .verifying → m.stage = .marker →
    f.stage = .committing → s.rawBytes u = p.target → s.store.staging = some g → s.svc.outstanding = none →
    ∃ u₁ t₁ u₂ t₂, exec .arrayReadComplete s = .next u₁ ∧ exec c u₁ = .next t₁ ∧
      exec c s = .next u₂ ∧ exec .arrayReadComplete u₂ = .next t₂ ∧
      t₁.store.storeMap = t₂.store.storeMap ∧ t₁.scan.displayMap = t₁.store.storeMap ∧
      t₂.scan.displayMap = t₂.store.storeMap ∧
      (∀ b : Bank, (t₁.store.roles.get b).role = (t₂.store.roles.get b).role) ∧
      t₁.store.results = t₂.store.results ∧ t₁.store.staging = none ∧ t₂.store.staging = none

/-- Erases and map writes go on from their verify reads. A prewrite goes on unit by unit; after its last the erase enters its
sub-pulse phase, latching PACE. When a bank's header reads right the erase is done: the count rises by 1, the estimated mark
clears, and a BEGIN stages the bank while a SCRUB leaves it SPARE-CLEAN. When a map area reads erased it becomes the active area
and the record is programmed in its slot 0. When the body of a record reads right its marker is programmed, with the pulse count
the body left; with twelve pulses used the limit is reached. While LOWV# is asserted the prewrite's next pulse, the first
sub-pulse, the first pulse of the record and that of its marker are not presented, and the command is ended by supply (R104, R110 to R114, R126, R133, R139, R141, R144, R145). -/
def Obligations.ErasesAndMapWritesGoOn : Prop :=
  (∀ (s : State) (f : InFlight) (p : ProgOp) (e : EraseOp) (u : ArrUnit) (k : Nat), s.released → s.part.lowv = false →
    s.arrPort.access = some (.store (.read u) false) → s.store.scan = none → s.store.inFlight = some f →
    f.prog = some p → p.phase = .verifying → f.erase = some e → e.stage = .prewrite k → s.rawBytes u = p.target →
    let last := match e.target with | .bank _ => 64 | .area _ => 7
    ∃ t n, exec .arrayReadComplete s = .next t ∧
      (k < last → s.portFree.presents t (.pulse (prewriteTarget e.target (k + 1))) ∧
        t.countsGrant (.pulse (prewriteTarget e.target (k + 1))) 0 n ∧
        t.store.inFlight = some { f with
          erase := some { target := e.target, stage := .prewrite (k + 1), pace := 0, given := 0 }
          prog := some (prewriteOp e.target (k + 1) n) }) ∧
      (last ≤ k → s.portFree.presents t (.subPulse e.target) ∧ t.countsGrant (.subPulse e.target) 0 n ∧
        t.store.inFlight = some { f with
          erase := some { e with stage := .subPulsing, pace := s.ctl.pace, given := n }, prog := none }) ∧
      t.store.roles = s.store.roles ∧ t.store.staging = s.store.staging ∧ t.store.results = s.store.results ∧
      t.array = s.array) ∧
  (∀ (s : State) (f : InFlight) (p : ProgOp) (e : EraseOp) (u : ArrUnit) (k : Nat), s.released → s.part.lowv = true →
    s.arrPort.access = some (.store (.read u) false) → s.store.scan = none → s.store.inFlight = some f →
    f.prog = some p → p.phase = .verifying → f.erase = some e → e.stage = .prewrite k → s.rawBytes u = p.target →
    (∀ m, f.mapw = some m → m.stage = .areaErase) → s.svc.outstanding = none →
    ∃ t, exec .arrayReadComplete s = .next t ∧ s.endsBySupply t f ∧ t.array = s.array) ∧
  (∀ (s : State) (f : InFlight) (p : ProgOp) (e : EraseOp) (u : ArrUnit) (b : Bank), s.released →
    s.arrPort.access = some (.store (.read u) false) → s.store.scan = none → s.store.inFlight = some f →
    f.prog = some p → p.phase = .verifying → f.erase = some e → e.stage = .header → e.target = .bank b →
    s.rawBytes u = p.target → s.svc.outstanding = none →
    let old := (s.store.roles.get b).count
    let c : Word16 := if old = 65535 then 65535 else old + 1
    (f.entry.body = .scrub →
      ∃ t, exec .arrayReadComplete s = .next t ∧
        s.completes t f (some b) (BitVec.ofNat 16 e.given) 0 (List.replicate 16 0) ∧
        t.store.roles.get b = { role := .spareClean, count := c, estimated := false } ∧
        (∀ x : Bank, x ≠ b → t.store.roles.get x = s.store.roles.get x) ∧ t.store.staging = s.store.staging ∧
        t.array = s.array) ∧
    ∀ (v : Byte) (l : Logical), f.entry.body = .stageBank v → v.toNat = l.val →
      ∃ t, exec .arrayReadComplete s = .next t ∧
        s.completes t f (some b) (BitVec.ofNat 16 e.given) 0 (List.replicate 16 0) ∧
        t.store.roles.get b = { role := .staging, count := c, estimated := false } ∧
        (∀ x : Bank, x ≠ b → t.store.roles.get x = s.store.roles.get x) ∧
        t.store.staging = some { bank := b, target := l, filling := false, written := 0 } ∧ t.array = s.array) ∧
  (∀ (s : State) (f : InFlight) (e : EraseOp) (ar : Area) (m : MapOp), s.released → s.part.lowv = false →
    s.arrPort.access = some (.store (.read (.whole (.area ar))) false) → s.store.scan = none →
    s.store.inFlight = some f → f.prog = none → f.erase = some e → e.stage = .verifying → e.target = .area ar →
    f.mapw = some m → (∀ k, k < 128 → s.array.read ((EraseUnit.area ar).base + k) = 0xFF) →
    let body := recordBytes { generation := m.generation, map := m.map, mask := m.mask } 0xFF
    ∃ t n, exec .arrayReadComplete s = .next t ∧ s.portFree.presents t (.pulse (.slot ar 0)) ∧
      t.countsGrant (.pulse (.slot ar 0)) 0 n ∧
      t.store.inFlight = some { f with
        erase := none, mapw := some { m with stage := .body, area := ar, slot := 0 }
        prog := some { place := .slot ar 0, target := body, set := pulsedPlaces body, pulses := n, phase := .pulsing } } ∧
      t.store.journal = { s.store.journal with active := ar, next := some 0 } ∧
      t.store.storeMap = s.store.storeMap ∧ t.store.roles = s.store.roles ∧ t.store.staging = s.store.staging ∧
      t.store.results = s.store.results ∧ t.array = s.array) ∧
  (∀ (s : State) (f : InFlight) (e : EraseOp) (ar : Area) (m : MapOp), s.released → s.part.lowv = true →
    s.arrPort.access = some (.store (.read (.whole (.area ar))) false) → s.store.scan = none →
    s.store.inFlight = some f → f.prog = none → f.erase = some e → e.stage = .verifying → e.target = .area ar →
    f.mapw = some m → s.svc.outstanding = none →
    (∀ k, k < 128 → s.array.read ((EraseUnit.area ar).base + k) = 0xFF) →
    ∃ t, exec .arrayReadComplete s = .next t ∧ t.array = s.array ∧
      ({ s with store := { s.store with
          journal := { s.store.journal with active := ar, next := some 0 } } } : State).endsBySupply t f) ∧
  (∀ (s : State) (f : InFlight) (p : ProgOp) (m : MapOp) (u : ArrUnit), s.released → s.part.lowv = true →
    s.arrPort.access = some (.store (.read u) false) → s.store.scan = none → s.store.inFlight = some f →
    f.prog = some p → f.erase = none → f.mapw = some m → p.phase = .verifying → m.stage = .body →
    s.rawBytes u = p.target → p.pulses < 12 → s.svc.outstanding = none →
    ∃ t, exec .arrayReadComplete s = .next t ∧ s.endsBySupply t f ∧ t.array = s.array) ∧
  ∀ (s : State) (f : InFlight) (p : ProgOp) (m : MapOp) (u : ArrUnit), s.released → s.part.lowv = false →
    s.arrPort.access = some (.store (.read u) false) → s.store.scan = none → s.store.inFlight = some f →
    f.prog = some p → f.erase = none → f.mapw = some m → p.phase = .verifying → m.stage = .body →
    s.rawBytes u = p.target → s.arrPort.storeWait = none →
    let whole := recordBytes { generation := m.generation, map := m.map, mask := m.mask } 0
    let marker : Nat → ProgPhase → ProgOp := fun n ph =>
      { place := .slot m.area m.slot.val, target := whole, set := pulsedPlaces whole, pulses := n, phase := ph }
    ∃ t n, exec .arrayReadComplete s = .next t ∧
      (p.pulses < 12 → s.portFree.presents t (.pulse (.slot m.area m.slot.val)) ∧
        t.countsGrant (.pulse (.slot m.area m.slot.val)) p.pulses n ∧
        t.store.inFlight = some { f with mapw := some { m with stage := .marker }, prog := some (marker n .pulsing) }) ∧
      (12 ≤ p.pulses →
        t.store.inFlight = some { f with
          mapw := some { m with stage := .marker }, prog := some (marker p.pulses .limit) }) ∧
      t.store.journal = s.store.journal ∧ t.store.storeMap = s.store.storeMap ∧ t.store.roles = s.store.roles ∧
      t.store.staging = s.store.staging ∧ t.store.results = s.store.results ∧ t.array = s.array

/-- A program pulse moves no bit from 0 to 1, changes no byte outside the set of its operation, and leaves every bit whose
target is 1; a sub-pulse moves no bit from 1 to 0 and changes no byte outside its unit. Each is followed by a read of its
unit, which waits behind a read of the loader that has waited (R108). Which of the bits in question move is free (log entry 3; R105, R106, R110, R111). -/
def Obligations.PulsesMoveBitsOneWay : Prop :=
  (∀ (s : State) (u : ArrUnit) (ab : Bool) (f : InFlight) (p : ProgOp), s.released → s.array.wf = true →
    s.arrPort.access = some (.store (.pulse u) ab) → s.store.inFlight = some f → f.prog = some p →
    ∃ t, exec .programPulseComplete s = .next t ∧
      (∀ a k, (t.array.read a).getLsbD k = true → (s.array.read a).getLsbD k = true) ∧
      (∀ a, (∀ k, k ∈ p.set → a ≠ p.place.base + k) → t.array.read a = s.array.read a) ∧
      (∀ j k, j ∈ p.set → (byteAt p.target j).getLsbD k = true →
        (t.array.read (p.place.base + j)).getLsbD k = (s.array.read (p.place.base + j)).getLsbD k) ∧
      t.store.inFlight = some { f with prog := some { p with phase := .verifying } } ∧
      s.portFree.presents t (.read u) ∧
      t.cells = s.cells ∧ t.win = s.win ∧ t.irq = s.irq ∧ t.scan = s.scan ∧ t.store.results = s.store.results) ∧
  ∀ (s : State) (u : EraseUnit) (ab : Bool) (f : InFlight) (e : EraseOp), s.released → s.array.wf = true →
    s.arrPort.access = some (.store (.subPulse u) ab) → s.store.inFlight = some f → f.erase = some e →
    ∃ t, exec .eraseSubpulseComplete s = .next t ∧
      (∀ a k, (s.array.read a).getLsbD k = true → (t.array.read a).getLsbD k = true) ∧
      (∀ a, a < u.base ∨ u.base + u.size ≤ a → t.array.read a = s.array.read a) ∧
      t.store.inFlight = some { f with erase := some { e with stage := .verifying } } ∧
      s.portFree.presents t (.read (.whole u)) ∧
      t.cells = s.cells ∧ t.win = s.win ∧ t.irq = s.irq ∧ t.scan = s.scan ∧ t.store.results = s.store.results

/-- PULSE_LIMIT_REACHED: PROGRAM and CLONE fail with PROGRAM_FAILED, the staging closes and its bank is dirty; a map write
passes its slot over, tries one further slot, erasing an area first when the active area has none left, and after that fails:
a COMMIT with MAP_WRITE_FAILED, a retirement with ERASE_FAILED. PULSE_LIMIT_REACHED in an erase, and SUBPULSE_BUDGET_SPENT: a
spare is RETIRED with the RETIRE flag and the retirement's map write begins; a map area's erase fails the map write. A
retirement whose map write succeeds ends with ERASE_FAILED too, its record written. While LOWV# is asserted no first pulse is
presented: a COMMIT then ends with SUPPLY_LOW, and a retirement keeps ERASE_FAILED (R110 to R112, R123, R127 to R130, R136,
R139, R144, R146, R148). That PHYS of a CLONE that fails so is the staging bank is the model's reading (log entry 10). -/
def Obligations.LimitsFailTheirOperations : Prop :=
  (∀ (s : State) (f : InFlight) (p : ProgOp) (g : Staging) (i : Nat), s.released → s.store.inFlight = some f →
    f.plainProg p → p.phase = .limit → s.store.staging = some g → s.svc.outstanding = none →
    ((∃ total, f.stage = .cloning i total) ∨
      (f.stage = .programming ∧ ∃ v image, f.entry.body = .program v image ∧ v.toNat = i)) →
    ∃ t, exec .pulseLimitReached s = .next t ∧ s.halts t f .programFailed (some g.bank) (BitVec.ofNat 16 i) ∧
      t.store.staging = none ∧ s.onlyRole t g.bank .spareDirty ∧ t.store.storeMap = s.store.storeMap ∧
      t.store.journal = s.store.journal ∧ t.array = s.array) ∧
  (∀ (s : State) (f : InFlight) (p : ProgOp) (m : MapOp), s.released → s.store.inFlight = some f →
    f.prog = some p → f.erase = none → f.mapw = some m → p.phase = .limit →
    (f.stage = .committing ∨ ∃ b cause, f.stage = .retiring b cause) → s.svc.outstanding = none →
    ∃ t, exec .pulseLimitReached s = .next t ∧ t.store.storeMap = s.store.storeMap ∧ t.store.roles = s.store.roles ∧
      t.store.staging = s.store.staging ∧ t.store.journal = { s.store.journal with next := afterSlot m.slot } ∧
      t.array = s.array ∧
      (m.second = true → f.stage = .committing →
        s.halts t f .mapWriteFailed (s.store.staging.map Staging.bank)
          (word16 m.area.code (BitVec.ofNat 8 m.slot.val))) ∧
      (∀ b cause, m.second = true → f.stage = .retiring b cause →
        s.halts t f .eraseFailed (some b) (word16 1 cause)) ∧
      (∀ n, m.second = false → s.part.lowv = false → afterSlot m.slot = some n →
        s.presents t (.pulse (.slot s.store.journal.active n.val)) ∧
        ∃ q, t.store.inFlight = some { f with
            prog := some q
            mapw := some { m with second := true, stage := .body, area := s.store.journal.active, slot := n } } ∧
          q.place = .slot s.store.journal.active n.val ∧ q.phase = .pulsing ∧
          t.countsGrant (.pulse (.slot s.store.journal.active n.val)) 0 q.pulses ∧
          q.target = recordBytes { generation := m.generation, map := m.map, mask := m.mask } 0xFF) ∧
      (m.second = false → s.part.lowv = false → afterSlot m.slot = none →
        s.erasesArea t f { m with second := true }) ∧
      (m.second = false → s.part.lowv = true → f.stage = .committing →
        s.halts t f .supplyLow (s.store.staging.map Staging.bank) 0) ∧
      ∀ b cause, m.second = false → s.part.lowv = true → f.stage = .retiring b cause →
        s.halts t f .eraseFailed (some b) (word16 1 cause)) ∧
  (∀ (s : State) (c : Instr) (f : InFlight) (e : EraseOp) (b : Bank) (cause : Byte), s.released →
    s.store.inFlight = some f → f.erase = some e → e.target = .bank b →
    ((c = .subpulseBudgetSpent ∧ e.stage = .spent ∧ cause = 0xFF) ∨
      (c = .pulseLimitReached ∧ (∃ p, f.prog = some p ∧ p.phase = .limit) ∧
        ((∃ k, e.stage = .prewrite k ∧ cause = BitVec.ofNat 8 k) ∨ (e.stage = .header ∧ cause = 64)))) →
    let m : MapOp := { stage := .body, area := s.store.journal.active, slot := 0, second := false
                       generation := s.store.journal.generation + 1, map := s.store.storeMap
                       mask := s.store.journal.retiredMask ||| (1#16 <<< b.val) }
    ∃ t, exec c s = .next t ∧ s.onlyRole t b .retired ∧ t.irq.isSet .retire = true ∧
      t.store.storeMap = s.store.storeMap ∧ t.store.journal = s.store.journal ∧ t.array = s.array ∧
      (∀ n, s.store.journal.generation ≠ 0xFFFFFF → s.part.lowv = false → s.store.journal.next = some n →
        s.presents t (.pulse (.slot s.store.journal.active n.val)) ∧ t.store.results = s.store.results ∧
        ∃ q, t.store.inFlight = some { f with
            stage := .retiring b cause, prog := some q, erase := none, mapw := some { m with slot := n } } ∧
          q.place = .slot s.store.journal.active n.val ∧ q.phase = .pulsing ∧
          t.countsGrant (.pulse (.slot s.store.journal.active n.val)) 0 q.pulses ∧
          q.target = recordBytes { generation := m.generation, map := m.map, mask := m.mask } 0xFF) ∧
      (s.store.journal.generation ≠ 0xFFFFFF → s.part.lowv = false → s.store.journal.next = none →
        s.erasesArea t { f with stage := .retiring b cause } m) ∧
      (s.store.journal.generation = 0xFFFFFF ∨ s.part.lowv = true → s.svc.outstanding = none →
        ∃ r, s.pushed t f r ∧ r.outcome = .failed ∧ r.error = .eraseFailed ∧ r.phys = some b ∧
          r.detail = word16 1 cause ∧ r.discarded = s.store.queue.length ∧ t.store.engine = .halted ∧
          t.store.queue = [] ∧ t.store.inFlight = none ∧ t.irq.isSet .halt = true)) ∧
  (∀ (s : State) (c : Instr) (f : InFlight) (e : EraseOp) (ar : Area), s.released → s.store.inFlight = some f →
    f.erase = some e → e.target = .area ar → s.svc.outstanding = none →
    ((c = .subpulseBudgetSpent ∧ e.stage = .spent) ∨
      (c = .pulseLimitReached ∧ (∃ p, f.prog = some p ∧ p.phase = .limit) ∧ ∃ k, e.stage = .prewrite k)) →
    ∃ t, exec c s = .next t ∧ t.store.staging = s.store.staging ∧ t.store.roles = s.store.roles ∧
      t.store.journal = s.store.journal ∧
      (f.stage = .committing →
        s.halts t f .mapWriteFailed (s.store.staging.map Staging.bank) (word16 ar.code 0xFF)) ∧
      ∀ b cause, f.stage = .retiring b cause → s.halts t f .eraseFailed (some b) (word16 1 cause)) ∧
  ∀ (s : State) (f : InFlight) (p : ProgOp) (m : MapOp) (u : ArrUnit) (b : Bank) (cause : Byte), s.released →
    s.arrPort.access = some (.store (.read u) false) → s.store.scan = none → s.store.inFlight = some f →
    f.prog = some p → f.erase = none → f.mapw = some m → p.phase = .verifying → m.stage = .marker →
    f.stage = .retiring b cause → s.rawBytes u = p.target → s.svc.outstanding = none →
    ∃ t, exec .arrayReadComplete s = .next t ∧ s.halts t f .eraseFailed (some b) (word16 0 cause) ∧
      t.store.journal = { s.store.journal with
        generation := m.generation, retiredMask := m.mask, latest := some (m.area, m.slot)
        next := afterSlot m.slot } ∧
      t.store.storeMap = s.store.storeMap ∧ t.store.roles = s.store.roles ∧ t.store.staging = s.store.staging ∧
      t.array = s.array

/-! ## Store commands -/

/-- STORE_COMMAND_START: with a free place the head command starts, with none the engine waits for one, and an IDLE engine
with an empty queue stays IDLE. A started command that fails its check is pushed as FAILED with the error the checks name, the
queue is discarded and the engine halts; the maps, the roles, the staging and the array stay. That PHYS of such a failure is
FFH is the model's reading (log entry 10; R120 to R123, R126, R128 to R130, R132, R134 to R136). -/
def Obligations.StartedCommandsAreChecked : Prop :=
  (∀ (s : State) (e : CmdEntry) (q : List CmdEntry), s.released → s.startDue = true → s.store.inFlight = none →
    s.store.queue = e :: q → s.store.results.length < 4 →
    exec .storeCommandStart s = .next
      { s with
        irq := if q.length = 3 then s.irq.raise .qspace else s.irq
        store := { s.store with
          engine := .running, wait := .none, queue := q
          inFlight := some { entry := e, stage := .fresh, prog := none, erase := none, mapw := none } } }) ∧
  (∀ s : State, s.released → s.startDue = true → s.store.inFlight = none → s.store.queue ≠ [] →
    4 ≤ s.store.results.length →
    exec .storeCommandStart s = .next
      { s with store := { s.store with engine := .waiting, wait := .resultSpace } }) ∧
  (∀ s : State, s.released → s.startDue = true → s.store.inFlight = none → s.store.queue = [] →
    exec .storeCommandStart s = .next { s with store := { s.store with engine := .idle, wait := .none } }) ∧
  ∀ (s : State) (c : Instr) (f : InFlight) (e : ErrCode), s.released → s.store.inFlight = some f → f.stage = .fresh →
    s.svc.outstanding = none → s.FailsCheck c f.entry.body e →
    ∃ t, exec c s = .next t ∧ s.halts t f e none 0 ∧ t.store.staging = s.store.staging ∧
      t.store.roles = s.store.roles ∧ t.store.storeMap = s.store.storeMap ∧ t.store.journal = s.store.journal ∧
      t.array = s.array ∧ t.arrPort = s.arrPort ∧ t.scan = s.scan ∧ t.cells = s.cells ∧ t.win = s.win

/-- BEGIN: a SPARE-CLEAN bank of the lowest erase count, and of equals the lowest number, becomes STAGING and the command
completes; with none, such a SPARE-DIRTY bank is erased first, which fails with SUPPLY_LOW while LOWV# is asserted; with neither, the command waits while a spare drains.
BEGIN_CHOOSE_AGAIN makes the same choice for the BEGIN that waits (R114, R117, R126, R139). -/
def Obligations.BeginStagesASpare : Prop :=
  ∀ (s : State) (f : InFlight) (v : Byte) (l : Logical) (c : Instr), s.released → s.store.inFlight = some f →
    f.entry.body = .stageBank v → v.toNat = l.val → s.store.staging = none → s.svc.outstanding = none →
    ((c = .cmdBegin ∧ f.stage = .fresh) ∨ (c = .beginChooseAgain ∧ f.stage = .draining)) →
    (∀ b, s.lowestOf .spareClean b → ∃ t, exec c s = .next t ∧ s.completes t f (some b) 0 0 (List.replicate 16 0) ∧
      s.onlyRole t b .staging ∧ t.store.storeMap = s.store.storeMap ∧ t.array = s.array ∧
      t.store.staging = some { bank := b, target := l, filling := false, written := 0 }) ∧
    (∀ b, s.noBank .spareClean → s.lowestOf .spareDirty b → s.part.lowv = false →
      f.prog = none → f.erase = none → f.mapw = none →
      ∃ t, exec c s = .next t ∧ s.erasesSpare t f b ∧ t.store.engine = .running ∧ t.store.roles = s.store.roles ∧
        t.store.staging = none ∧ t.store.results = s.store.results ∧ t.array = s.array) ∧
    (∀ b, s.noBank .spareClean → s.lowestOf .spareDirty b → s.part.lowv = true →
      ∃ t, exec c s = .next t ∧ s.halts t f .supplyLow (some b) 0 ∧ t.store.roles = s.store.roles ∧
        t.store.staging = none ∧ t.store.storeMap = s.store.storeMap ∧ t.store.journal = s.store.journal ∧
        t.array = s.array) ∧
    (∀ b, s.noBank .spareClean → s.noBank .spareDirty → (s.store.roles.get b).role = .spareDraining →
      exec c s = .next
        { s with store := { s.store with
            engine := .waiting, wait := .draining, inFlight := some { f with stage := .draining } } })

/-- CLONE takes up its first index not skipped with a read of the target's present bank, or completes when every index is
skipped. PROGRAM begins a program operation of the inverted image on the staging bank, costs nothing for a blank image, and
fails with SUPPLY_LOW while LOWV# is asserted. COMMIT begins a map write with the generation plus 1, in the next slot or with
the erase of an area when none is left, and leaves the maps as they are until it is done; it fails when the generation cannot
rise, and with SUPPLY_LOW while LOWV# is asserted (R105, R110, R111, R114, R128 to R130, R139, R144, R145). -/
def Obligations.StagingCommandsBeginTheirWork : Prop :=
  (∀ (s : State) (f : InFlight) (skip : BitVec 64) (g : Staging), s.started f (.clone skip) →
    s.store.staging = some g → g.filling = false → s.svc.outstanding = none →
    (∀ k, k < 64 → skip.getLsbD k = false → (∀ j, j < k → skip.getLsbD j = true) →
      ∃ t, exec .cmdClone s = .next t ∧ s.presents t (.read (.glyph (s.store.storeMap.get g.target) k)) ∧
        t.store.inFlight = some { f with stage := .cloning k 0, prog := none } ∧
        t.store.staging = some { g with filling := true } ∧ t.store.results = s.store.results) ∧
    ((∀ k, k < 64 → skip.getLsbD k = true) →
      ∃ t, exec .cmdClone s = .next t ∧ s.completes t f (some g.bank) 0 0 (List.replicate 16 0) ∧
        t.store.staging = some { g with filling := true } ∧ t.array = s.array)) ∧
  (∀ (s : State) (f : InFlight) (i : Byte) (image : List Byte) (g : Staging), s.started f (.program i image) →
    i.toNat ≤ 63 → image.length = 16 → s.store.staging = some g → g.written.getLsbD i.toNat = false →
    s.svc.outstanding = none →
    let lit := (List.range 16).filter fun k => decide (byteAt image k ≠ 0)
    (lit = [] →
      ∃ t, exec .cmdProgram s = .next t ∧ s.completes t f (some g.bank) 0 0 (List.replicate 16 0) ∧
        t.store.staging = some { g with filling := true, written := g.written ||| (1#64 <<< i.toNat) } ∧
        t.array = s.array ∧ t.arrPort = s.arrPort) ∧
    (lit ≠ [] → s.part.lowv = false →
      ∃ t n, exec .cmdProgram s = .next t ∧ s.presents t (.pulse (.glyph g.bank i.toNat)) ∧
        t.countsGrant (.pulse (.glyph g.bank i.toNat)) 0 n ∧
        t.store.inFlight = some { f with
          stage := .programming
          prog := some { place := .glyph g.bank i.toNat, target := image.map fun v => ~~~v, set := lit, pulses := n
                         phase := .pulsing } } ∧
        t.store.staging = some { g with filling := true } ∧ t.array = s.array) ∧
    (lit ≠ [] → s.part.lowv = true →
      ∃ t, exec .cmdProgram s = .next t ∧ s.halts t f .supplyLow (some g.bank) 0 ∧ t.store.staging = none ∧
        s.onlyRole t g.bank .spareDirty ∧ t.array = s.array)) ∧
  ∀ (s : State) (f : InFlight) (g : Staging), s.started f .commit → s.store.staging = some g →
    s.svc.outstanding = none →
    let r : MapRecord := { generation := s.store.journal.generation + 1
                           map := s.store.storeMap.set g.target.val g.bank g.target.isLt
                           mask := s.store.journal.retiredMask }
    let m : MapOp := { stage := .body, area := s.store.journal.active, slot := 0, second := false
                       generation := r.generation, map := r.map, mask := r.mask }
    ∃ t, exec .cmdCommit s = .next t ∧ t.store.storeMap = s.store.storeMap ∧ t.store.roles = s.store.roles ∧
      t.store.staging = s.store.staging ∧ t.store.journal = s.store.journal ∧ t.array = s.array ∧
      (∀ n, s.store.journal.generation ≠ 0xFFFFFF → s.part.lowv = false → s.store.journal.next = some n →
        f.erase = none →
        s.presents t (.pulse (.slot s.store.journal.active n.val)) ∧ t.store.results = s.store.results ∧
        ∃ q, t.store.inFlight = some { f with
            stage := .committing, prog := some q, mapw := some { m with slot := n } } ∧
          q.place = .slot s.store.journal.active n.val ∧ q.phase = .pulsing ∧ q.target = recordBytes r 0xFF ∧
          t.countsGrant (.pulse (.slot s.store.journal.active n.val)) 0 q.pulses) ∧
      (s.store.journal.generation ≠ 0xFFFFFF → s.part.lowv = false → s.store.journal.next = none →
        t.store.results = s.store.results ∧ s.erasesArea t { f with stage := .committing } m) ∧
      (s.store.journal.generation ≠ 0xFFFFFF → s.part.lowv = true →
        s.halts t f .supplyLow (some g.bank) 0) ∧
      (s.store.journal.generation = 0xFFFFFF →
        s.halts t f .mapWriteFailed (some g.bank) 0xFFFF ∧ t.arrPort = s.arrPort)

/-- ABANDON closes the staging and leaves its bank clean or dirty by its STATE. SCRUB erases the dirty spare of the lowest
count, or completes when there is none; while LOWV# is asserted the erase fails with SUPPLY_LOW. READGLYPH and CHECK present their reads of the bank that the store map names (R107,
R114, R117, R132 to R135, R139). -/
def Obligations.AbandonScrubAndReadback : Prop :=
  (∀ (s : State) (f : InFlight) (g : Staging), s.started f .abandon → s.store.staging = some g →
    s.svc.outstanding = none →
    ∃ t, exec .cmdAbandon s = .next t ∧ s.completes t f (some g.bank) 0 0 (List.replicate 16 0) ∧
      t.store.staging = none ∧ s.onlyRole t g.bank (if g.filling then .spareDirty else .spareClean) ∧
      t.store.storeMap = s.store.storeMap ∧ t.array = s.array) ∧
  (∀ (s : State) (f : InFlight), s.started f .scrub → s.noBank .spareDirty → s.svc.outstanding = none →
    ∃ t, exec .cmdScrub s = .next t ∧ s.completes t f none 0 0 (List.replicate 16 0) ∧
      t.store.roles = s.store.roles ∧ t.store.staging = s.store.staging ∧ t.array = s.array) ∧
  (∀ (s : State) (f : InFlight) (b : Bank), s.started f .scrub → s.lowestOf .spareDirty b → s.part.lowv = false →
    f.prog = none → f.erase = none → f.mapw = none →
    ∃ t, exec .cmdScrub s = .next t ∧ s.erasesSpare t f b ∧ t.store.roles = s.store.roles ∧
      t.store.staging = s.store.staging ∧ t.array = s.array) ∧
  (∀ (s : State) (f : InFlight) (b : Bank), s.started f .scrub → s.lowestOf .spareDirty b → s.part.lowv = true →
    s.svc.outstanding = none →
    ∃ t, exec .cmdScrub s = .next t ∧ s.halts t f .supplyLow (some b) 0 ∧ t.store.roles = s.store.roles ∧
      t.store.staging = s.store.staging ∧ t.store.journal = s.store.journal ∧ t.array = s.array) ∧
  (∀ (s : State) (f : InFlight) (code : Word16) (l : Logical), s.started f (.readGlyph code) →
    l.val = code.toNat / 64 →
    let r := StoreReq.read (.glyph (s.store.storeMap.get l) (code.toNat % 64))
    ∃ t, exec .cmdReadglyph s = .next t ∧ s.presents t r ∧
      t.store = { s.store with
        inFlight := some { f with stage := .reading (s.store.storeMap.get l) }, deferred := s.putsOff r } ∧
      t.array = s.array) ∧
  ∀ (s : State) (f : InFlight) (v : Byte) (l : Logical), s.started f (.check v) → v.toNat = l.val →
    let r := StoreReq.read (.glyph (s.store.storeMap.get l) 0)
    ∃ t, exec .cmdCheck s = .next t ∧ s.presents t r ∧
      t.store = { s.store with
        inFlight := some { f with stage := .summing (s.store.storeMap.get l) 0 0 }, deferred := s.putsOff r } ∧
      t.array = s.array

/-! ## The journal and the start-up scan -/

/-- START_UP_SCAN_END: in one step the store takes the valid record of the highest generation, of equals the one read first,
or the identity map of the default; the roles follow the map and the mask, and the counts the headers; the display map is
copied; the engine leaves STARTING; STARTDONE is set, and MAPDEFAULT for the default. A Q or E record that waits is answered
then, from what the scan has built (R99, R149 to R152, R160, R163, R164). -/
def Obligations.ScanEndTakesEffectInOneStep : Prop :=
  (∀ (s : State) (p : ScanProgress) (n : Nat) (r : MapRecord), s.released → s.store.scan = some p →
    p.slots.length = 16 → p.headers.length = 16 → s.svc.startupWait = none → s.store.inFlight = none →
    adoptedAt p.slots n r → r.map.toList.Nodup →
    ∃ t, exec .startUpScanEnd s = .next t ∧ t.store.storeMap = r.map ∧ t.scan.displayMap = r.map ∧
      t.store.journal.generation = r.generation ∧ t.store.journal.retiredMask = r.mask ∧
      t.store.journal.active = (if n < 8 then .a else .b) ∧
      (∃ k : Fin 8, k.val = n % 8 ∧ t.store.journal.latest = some (if n < 8 then .a else .b, k)) ∧
      (∀ k : Fin 8, t.store.journal.next = some k ↔
        n % 8 < k.val ∧ p.slots[8 * (n / 8) + k.val]? = some .erased ∧
          ∀ j, n % 8 < j → j < k.val → p.slots[8 * (n / 8) + j]? ≠ some .erased) ∧
      (∀ l : Logical, (t.store.roles.get (r.map.get l)).role = .mapped l) ∧
      (∀ b : Bank, (∀ l : Logical, r.map.get l ≠ b) →
        (t.store.roles.get b).role = if r.mask.getLsbD b.val then .retired else .spareDirty) ∧
      (∀ (b : Bank) (c : Word16), p.headers[b.val]? = some (some c) →
        (t.store.roles.get b).count = c ∧ (t.store.roles.get b).estimated = false) ∧
      (∀ b : Bank, p.headers[b.val]? = some none → (t.store.roles.get b).estimated = true ∧
        (∀ c, some c ∈ p.headers → c.toNat ≤ (t.store.roles.get b).count.toNat) ∧
        (some (t.store.roles.get b).count ∈ p.headers ∨ (t.store.roles.get b).count = 0)) ∧
      t.store.staging = none ∧ t.store.scan = none ∧ t.irq.isSet .startDone = true ∧
      t.irq.isSet .mapDefault = s.irq.isSet .mapDefault ∧ t.array = s.array ∧ t.svc = s.svc ∧
      (s.store.queue = [] → t.store.engine = .idle ∧ t.store.inFlight = none) ∧
      (∀ e q, s.store.queue = e :: q → s.store.results.length < 4 → t.store.engine = .running ∧ t.store.queue = q ∧
        t.store.inFlight = some { entry := e, stage := .fresh, prog := none, erase := none, mapw := none })) ∧
  (∀ (s : State) (p : ScanProgress), s.released → s.store.scan = some p → p.slots.length = 16 →
    p.headers.length = 16 → s.svc.startupWait = none → s.store.inFlight = none → (∀ r, .valid r ∉ p.slots) →
    ∃ t, exec .startUpScanEnd s = .next t ∧
      (∀ l : Logical, (t.store.storeMap.get l).val = l.val ∧ (t.scan.displayMap.get l).val = l.val) ∧
      t.store.journal = { active := .a, next := none, latest := none, generation := 0, retiredMask := 0 } ∧
      (∀ (b : Bank) (l : Logical), b.val = l.val → (t.store.roles.get b).role = .mapped l) ∧
      (t.store.roles.get 14).role = .spareDirty ∧ (t.store.roles.get 15).role = .spareDirty ∧
      t.store.staging = none ∧ t.store.scan = none ∧ t.irq.isSet .startDone = true ∧
      t.irq.isSet .mapDefault = true ∧ t.array = s.array ∧ t.svc = s.svc) ∧
  ∀ (s : State) (p : ScanProgress), s.released → s.store.scan = some p → p.slots.length = 16 →
    p.headers.length = 16 → s.store.inFlight = none → s.svc.sending = none →
    s.svc.startupWait = some .q ∨ s.svc.startupWait = some .e →
    ∃ t u, exec .startUpScanEnd s = .next t ∧
      exec .startUpScanEnd { s with svc := { s.svc with startupWait := none } } = .next u ∧
      t.store = u.store ∧ t.irq = u.irq ∧ t.scan = u.scan ∧ t.svc.startupWait = none ∧
      (s.svc.startupWait = some .q → s.answersQ t) ∧ (s.svc.startupWait = some .e → s.answersE t)

/-- The sixteen bytes of a record stand as the layout of a map record slot gives them: generation, map, retired mask, the check over
the other bytes with the pad as 255 and the marker as 0, pad and marker; and the four of a header are its count and the count
inverted. Records and headers read back as they were written: the bytes of a record whose generation is not 0, whose map repeats no
bank and whose mask names no mapped bank make a valid slot, and only those bytes do; without its completion marker the slot is
SPOILED; and a header gives back its count, while an erased header gives none (R104, R141, R142, R150). -/
def Obligations.MapRecordsReadBack : Prop :=
  (∀ (r : MapRecord) (marker : Byte),
    let l := recordBytes r marker
    let sum := ((l.take 12).map BitVec.toNat).sum + 255
    (∀ k, k < 3 → (byteAt l k).toNat = r.generation.toNat / 256 ^ k % 256) ∧
      (∀ (j : Nat) (lo hi : Logical), lo.val = 2 * j → hi.val = 2 * j + 1 →
        (byteAt l (3 + j)).toNat = (r.map.get lo).val + 16 * (r.map.get hi).val) ∧
      (∀ b : Bank, r.mask.getLsbD b.val = (byteAt l (10 + b.val / 8)).getLsbD (b.val % 8)) ∧
      (byteAt l 12).toNat + 256 * (byteAt l 13).toNat = sum % 65536 ∧ byteAt l 14 = 0xFF ∧ byteAt l 15 = marker) ∧
  (∀ c : Word16, headerBytes c = [byteOf c 0, byteOf c 1, ~~~(byteOf c 0), ~~~(byteOf c 1)]) ∧
  (∀ r : MapRecord, r.generation ≠ 0 → r.map.toList.Nodup → (∀ l : Logical, r.mask.getLsbD (r.map.get l).val = false) →
    (recordBytes r 0).length = 16 ∧ classify (recordBytes r 0) = .valid r) ∧
  (∀ (r : MapRecord) (marker : Byte), marker ≠ 0 → classify (recordBytes r marker) = .spoiled) ∧
  (∀ (l : List Byte) (r : MapRecord), l.length = 16 → classify l = .valid r →
    l = recordBytes r 0 ∧ r.generation ≠ 0 ∧ r.map.toList.Nodup ∧
      ∀ i : Logical, r.mask.getLsbD (r.map.get i).val = false) ∧
  (∀ l : List Byte, l.length = 16 → (classify l = .erased ↔ l = List.replicate 16 0xFF)) ∧
  (∀ c : Word16, headerCount (headerBytes c) = some c) ∧
  ∀ (l : List Byte) (c : Word16), l.length = 4 → (headerCount l = some c ↔ l = headerBytes c)

/-! ## The service load port -/

/-- LOW_RUN in SYNC: a run outside 695 to 33,333 drops the first measurement; a qualifying run becomes it, or, within one
sixteenth of it, makes the divisor, 139 to 6666, and enters CONFIRM with 3CH; elsewhere runs are not measured (R155, R157). -/
def Obligations.LowRunsMeasureTheRate : Prop :=
  (∀ (s : State) (n : Nat), s.released → s.svc.state ≠ .sync → exec (.lowRun n) s = .next s) ∧
  (∀ (s : State) (n : Nat), s.released → s.svc.state = .sync → (n < 695 ∨ 33333 < n) →
    exec (.lowRun n) s = .next { s with svc := { s.svc with firstRun := none } }) ∧
  (∀ (s : State) (n : Nat), s.released → s.svc.state = .sync → 695 ≤ n → n ≤ 33333 →
    (s.svc.firstRun = none ∨ ∃ m, s.svc.firstRun = some m ∧ (m + m / 16 < n ∨ n + m / 16 < m)) →
    exec (.lowRun n) s = .next { s with svc := { s.svc with firstRun := some n } }) ∧
  ∀ (s : State) (m n : Nat), s.released → s.svc.state = .sync → 695 ≤ n → n ≤ 33333 → 695 ≤ m → m ≤ 33333 →
    s.svc.firstRun = some m → n ≤ m + m / 16 → m ≤ n + m / 16 → s.svc.sending = none →
    139 ≤ (m + n) / 10 ∧ (m + n) / 10 ≤ 6666 ∧
    exec (.lowRun n) s = .next
      { s with svc := { s.svc with
          divisor := (m + n) / 10, firstRun := none, state := .confirm, confirmTimer := false
          sending := some { item := .ready, bytes := [0x3C] } } }

/-- Received characters, framing errors and the two timers by the loader's state: A5H after the ready character confirms, and
anything else returns to SYNC; 7EH opens a record; a whole record that passes its checks is counted, enters EXECUTING and is
due; a record that fails is refused with its code; and a byte in EXECUTING is dropped with the note (that a later byte sets the note again, after a reply has cleared it, is the model's
choice, log entry 24; R156 to R159, R161). -/
def Obligations.ReceivedCharactersAreTaken : Prop :=
  (∀ s : State, s.released → s.svc.state = .confirm → s.svc.confirmTimer = true →
    exec (.byteReceived 0xA5) s = .next
      { s with svc := { s.svc with state := .ready, confirmTimer := false }, irq := s.irq.raise .service }) ∧
  (∀ (s : State) (b : Byte), s.released → s.svc.state = .confirm → (s.svc.confirmTimer = false ∨ b ≠ 0xA5) →
    exec (.byteReceived b) s = .next { s with svc := { s.svc with state := .sync, confirmTimer := false } }) ∧
  (∀ s : State, s.released → s.svc.state = .confirm →
    exec .framingError s = .next { s with svc := { s.svc with state := .sync, confirmTimer := false } }) ∧
  (∀ s : State, s.released → s.svc.state ≠ .confirm → exec .framingError s = .next s) ∧
  (∀ s : State, s.released → s.svc.state = .confirm → s.svc.confirmTimer = true →
    exec .confirmTimeout s = .next { s with svc := { s.svc with state := .sync, confirmTimer := false } }) ∧
  (∀ (s : State) (b : Byte), s.released → s.svc.state = .ready → b ≠ 0x7E →
    exec (.byteReceived b) s = .next s) ∧
  (∀ s : State, s.released → s.svc.state = .ready →
    exec (.byteReceived 0x7E) s = .next
      { s with svc := { s.svc with state := .receiving, buffer := [], byteTimer := true } }) ∧
  (∀ (s : State) (k b : Byte), s.released → s.svc.state = .receiving → s.svc.buffer = [k] → 17 < b.toNat →
    s.svc.sending = none → ∃ t, exec (.byteReceived b) s = .next t ∧ s.refusesRecord t .badLength) ∧
  (∀ (s : State) (b : Byte), s.released → s.svc.state = .receiving →
    (s.svc.buffer = [] ∨ (∃ k, s.svc.buffer = [k] ∧ b.toNat ≤ 17) ∨
      (2 ≤ s.svc.buffer.length ∧ s.svc.buffer.length < (byteAt s.svc.buffer 1).toNat + 2)) →
    exec (.byteReceived b) s = .next
      { s with svc := { s.svc with buffer := s.svc.buffer ++ [b], byteTimer := true } }) ∧
  (∀ (s : State) (r : Record), s.released → s.svc.state = .receiving → s.svc.buffer = r.wire →
    (∀ i image, r = .g i image → image.length = 16) →
    let t := { s with svc := { s.svc with
      state := .executing, byteTimer := false, buffer := [], accepted := s.svc.accepted + 1 } }
    (∀ q, s.svc.outstanding ≠ some (q, .silent)) →
    exec (.byteReceived (0 - byteSum r.wire)) s = .next { t with svc := { t.svc with due := some r } }) ∧
  (∀ (s : State) (r : Record) (q : Byte), s.released → s.svc.state = .receiving → s.svc.buffer = r.wire →
    (∀ i image, r = .g i image → image.length = 16) → s.svc.outstanding = some (q, .silent) →
    ∃ t, exec (.byteReceived (0 - byteSum r.wire)) s = .next t ∧ t.svc.state = .executing ∧
      t.svc.held = some r ∧ t.svc.due = s.svc.due ∧ t.svc.accepted = s.svc.accepted + 1) ∧
  (∀ (s : State) (k len : Byte) (payload : List Byte) (b : Byte), s.released → s.svc.state = .receiving →
    s.svc.buffer = [k, len] ++ payload → len.toNat = payload.length → s.svc.sending = none →
    (byteSum ([k, len] ++ payload ++ [b]) ≠ 0 →
      ∃ t, exec (.byteReceived b) s = .next t ∧ s.refusesRecord t .badCheck) ∧
    (byteSum ([k, len] ++ payload ++ [b]) = 0 → k ∉ [0x42, 0x43, 0x47, 0x4D, 0x41, 0x51, 0x45] →
      ∃ t, exec (.byteReceived b) s = .next t ∧ s.refusesRecord t .badKind) ∧
    (∀ n, byteSum ([k, len] ++ payload ++ [b]) = 0 →
      (k, n) ∈ [((0x42 : Byte), 1), (0x43, 8), (0x47, 17), (0x4D, 0), (0x41, 0), (0x51, 0), (0x45, 0)] →
      payload.length ≠ n → ∃ t, exec (.byteReceived b) s = .next t ∧ s.refusesRecord t .badLength)) ∧
  (∀ (s : State) (b : Byte), s.released → s.svc.state = .executing →
    exec (.byteReceived b) s = .next { s with svc := { s.svc with inputDropped := true } }) ∧
  ∀ s : State, s.released → s.svc.state = .receiving → s.svc.byteTimer = true → s.svc.sending = none →
    ∃ t, exec .interByteTimeout s = .next t ∧ s.refusesRecord t .timeout

/-- BREAK: the loader enters SYNC with its record, its timers and its waiting reply gone, the outstanding command becomes
SILENT, the divisor and the counts stay, and a waiting N reply so dropped acknowledges the halt; in SYNC and after service
mode has ended no break is recognised (R160, R162). That a waiting ready character is dropped with the waiting reply, and that
a record taken and not yet acted on is dropped with the record being executed, are the model's readings (log entries 11 and
13). -/
def Obligations.BreakReturnsToSync : Prop :=
  (∀ s : State, s.released → (s.svc.state = .sync ∨ (s.svc.state = .closing ∧ s.part.service = false)) →
    exec .serviceBreak s = .next s) ∧
  ∀ s : State, s.released → s.svc.state ≠ .sync → (s.svc.state = .closing → s.part.service = true) →
    ∃ t, exec .serviceBreak s = .next t ∧ t.svc.state = .sync ∧ t.svc.firstRun = none ∧ t.svc.buffer = [] ∧
      t.svc.byteTimer = false ∧ t.svc.confirmTimer = false ∧ t.svc.due = none ∧ t.svc.startupWait = none ∧
      t.svc.held = none ∧ t.svc.waiting = none ∧ t.svc.divisor = s.svc.divisor ∧
      t.svc.lastError = s.svc.lastError ∧ t.svc.accepted = s.svc.accepted ∧ t.svc.refused = s.svc.refused ∧
      t.svc.sending.map TxSending.bytes = s.svc.sending.map TxSending.bytes ∧
      (∀ q, s.svc.outstanding = some (q, .reply) →
        t.svc.outstanding = some (q, .silent) ∧ t.svc.inputDropped = false) ∧
      (∀ q, s.svc.outstanding = some (q, .silent) → t.svc.outstanding = some (q, .silent)) ∧
      (s.svc.outstanding = none → t.svc.outstanding = none ∧ t.svc.inputDropped = s.svc.inputDropped) ∧
      (∀ it, s.svc.waiting = some it → it.acks = true → s.store.engine = .halted → t.store.engine = .idle) ∧
      (s.svc.waiting = none → t.store = s.store) ∧ t.part = s.part ∧ t.irq = s.irq ∧ t.array = s.array

/-- The store records B, C, G, M and A submit their commands as the loader: the entry joins the queue and is outstanding with
the mark REPLY, or starts at once in an idle engine; a refused submission is answered by an N reply, and no command is queued.
HELD_RECORD does the same for the record held behind a SILENT command (R120, R122, R160). -/
def Obligations.StoreRecordsSubmit : Prop :=
  ∀ (s : State) (c : Instr) (r : Record) (kind : Byte) (body : CmdBody), s.released →
    ((storeRow c r = some (kind, body) ∧ s.svc.due = some r) ∨
      (c = .heldRecord ∧ s.svc.held = some r ∧ s.svc.outstanding = none ∧
        ∃ c', storeRow c' r = some (kind, body))) →
    s.store.owner = .loader →
    let entry : CmdEntry := { kind := kind, seq := s.store.seq, submitter := .loader, body := body }
    (s.store.queue.length < 4 →
      (s.store.engine = .starting ∨ s.store.engine = .running ∨
        (s.store.engine = .waiting ∧ s.store.wait ≠ .resultSpace)) →
      ∃ t, exec c s = .next t ∧
        t.store = { s.store with queue := s.store.queue ++ [entry], seq := s.store.seq + 1 } ∧
        t.svc.outstanding = some (s.store.seq, .reply) ∧ t.svc.state = s.svc.state ∧ t.svc.sending = s.svc.sending ∧
        (c ≠ .heldRecord → t.svc.due = none) ∧ (c = .heldRecord → t.svc.held = none)) ∧
    (s.store.queue = [] → s.store.engine = .idle → s.store.inFlight = none → s.store.results.length < 4 →
      ∃ t, exec c s = .next t ∧
        t.store = { s.store with
          engine := .running, wait := .none, seq := s.store.seq + 1
          inFlight := some { entry := entry, stage := .fresh, prog := none, erase := none, mapw := none } } ∧
        t.svc.outstanding = some (s.store.seq, .reply) ∧ t.svc.state = s.svc.state) ∧
    (s.store.engine = .halted → s.svc.sending = none →
      ∃ t, exec c s = .next t ∧ t.store = s.store ∧ t.svc.state = .ready ∧ s.repliesN t .queueHalted) ∧
    (s.store.engine ≠ .halted → 4 ≤ s.store.queue.length → s.svc.sending = none →
      ∃ t, exec c s = .next t ∧ t.store = s.store ∧ t.svc.state = .ready ∧ s.repliesN t .queueFull)

/-- Q_RECORD is answered with the status payload. E_RECORD is answered with a K reply and CLOSING, or with STAGING_OPEN while a
staging is open. Both wait while the store engine is STARTING (R160, R163, R164); how they are answered at the end of start-up
is stated with the scan's end. HELD_RECORD does the same with a Q or E record that a SILENT command has held, once the result of
that command has been removed (R160, R162). -/
def Obligations.StatusAndEndRecordsAreAnswered : Prop :=
  (∀ (s : State) (c : Instr), s.released → s.store.engine ≠ .starting → s.svc.sending = none →
    ((c = .qRecord ∧ s.svc.due = some .q) ∨
      (c = .heldRecord ∧ s.svc.held = some .q ∧ s.svc.outstanding = none)) →
    ∃ t, exec c s = .next t ∧ s.answersQ t ∧ (c = .qRecord → t.svc.due = none) ∧
      (c = .heldRecord → t.svc.held = none) ∧ t.store = s.store ∧ t.irq = s.irq ∧ t.part = s.part) ∧
  (∀ (s : State) (c : Instr), s.released → s.store.engine ≠ .starting → s.svc.sending = none →
    ((c = .eRecord ∧ s.svc.due = some .e) ∨
      (c = .heldRecord ∧ s.svc.held = some .e ∧ s.svc.outstanding = none)) →
    ∃ t, exec c s = .next t ∧ s.answersE t ∧ (c = .eRecord → t.svc.due = none) ∧
      (c = .heldRecord → t.svc.held = none) ∧ t.store = s.store ∧ t.part = s.part) ∧
  (∀ (s : State) (c : Instr) (r : Record), s.released → s.svc.due = some r → s.store.engine = .starting →
    ((c = .qRecord ∧ r = .q) ∨ (c = .eRecord ∧ r = .e)) →
    exec c s = .next { s with svc := { s.svc with due := none, startupWait := some r } }) ∧
  (∀ (s : State) (r : Record), s.released → s.svc.held = some r → s.svc.outstanding = none →
    s.store.engine = .starting → r = .q ∨ r = .e →
    exec .heldRecord s = .next { s with svc := { s.svc with held := none, startupWait := some r } }) ∧
  ∀ s : State, s.released → (s.svc.held = none ∨ s.svc.outstanding.isSome = true) → exec .heldRecord s = .next s

/-- TRANSMISSION_END: the end of the ready character starts the confirm timer, the end of an N reply for a failed command
acknowledges the halt, the end of the K reply to E ends service mode with the SERVICE flag, and the reply that waits begins
(R156, R157, R160, R163, R164). That a ready character left over from an earlier CONFIRM starts the timer too, where no other one
waits, is the model's own choice (log entry 25). -/
def Obligations.TransmissionEndMovesOn : Prop :=
  (∀ (s : State) (x : TxSending), s.released → s.svc.sending = some x → x.item = .ready → s.svc.state = .confirm →
    s.svc.waiting = none →
    exec .transmissionEnd s = .next { s with svc := { s.svc with sending := none, confirmTimer := true } }) ∧
  (∀ (s : State) (x : TxSending) (l : Byte) (pl : List Byte), s.released → s.svc.sending = some x →
    x.item = .reply l pl true false → s.store.engine = .halted → s.svc.waiting = none →
    exec .transmissionEnd s = .next
      { s with
        svc := { s.svc with sending := none }, store := { s.store with engine := .idle, wait := .none } }) ∧
  (∀ (s : State) (x : TxSending) (l : Byte) (pl : List Byte), s.released → s.svc.sending = some x →
    x.item = .reply l pl false true → s.svc.state = .closing → s.svc.waiting = none →
    exec .transmissionEnd s = .next
      { s with
        svc := { s.svc with sending := none }, part := { s.part with service := false }
        store := { s.store with owner := .host }, irq := s.irq.raise .service }) ∧
  ∀ (s : State) (x : TxSending) (l m : Byte) (pl pm : List Byte) (k c : Bool), s.released →
    s.svc.sending = some x → x.item = .reply l pl false false → s.svc.waiting = some (.reply m pm k c) →
    ∃ t, exec .transmissionEnd s = .next t ∧ s.replies t m pm ∧ t.svc.waiting = none ∧ t.store = s.store ∧
      t.irq = s.irq ∧ t.part = s.part ∧ t.svc.state = s.svc.state

/-! ## Invariants -/

/-- Every step keeps the queue at 4 entries or fewer, empty while HALTED, and the results with the held place at 4 or fewer
(R121, R122, R136). -/
def Obligations.EveryStepKeepsTheQueuesWithinBounds : Prop :=
  ∀ s t : State, s.queuesFit → step s = .next t → t.queuesFit

/-- Every step keeps every memory in its canonical form, and no two valid patch slots hold the same code (R94). -/
def Obligations.EveryStepKeepsTheMemoriesAndPatchCodes : Prop :=
  ∀ s t : State, s.memoriesCanonical → s.patchCodesDistinct → step s = .next t →
    t.memoriesCanonical ∧ t.patchCodesDistinct

/-- Every step keeps the registers at accepted values, and a disabled display dark, its loader STOPPED and its buffers empty,
in service mode always (R15, R18, R22, R35, R39, R71, R72, R81, R84, R113, R153, R174). -/
def Obligations.EveryStepKeepsRegistersInRangeAndTheDisplayDark : Prop :=
  ∀ s t : State, s.registersInRange → s.darkWhenDisabled → step s = .next t →
    t.registersInRange ∧ t.darkWhenDisabled

/-- Every step keeps the bank roles consistent with the store map, the display map, the staging record and the command in
flight; so the bank under an erase is named by neither map (R99, R100, R116, R125). -/
def Obligations.EveryStepKeepsTheBankRolesConsistent : Prop :=
  (∀ s t : State, s.rolesConsistent → step s = .next t → t.rolesConsistent) ∧
  ∀ (s : State) (f : InFlight) (e : EraseOp) (b : Bank) (l : Logical), s.rolesConsistent →
    s.store.inFlight = some f → f.erase = some e → e.target = .bank b →
    s.store.storeMap.get l ≠ b ∧ s.scan.displayMap.get l ≠ b

/-- The state after reset meets every invariant of the machine. -/
def Obligations.ResetMeetsTheInvariants : Prop :=
  State.reset.queuesFit ∧ State.reset.memoriesCanonical ∧ State.reset.patchCodesDistinct ∧
    State.reset.registersInRange ∧ State.reset.darkWhenDisabled ∧ State.reset.rolesConsistent
end

