-- ==== Sys2Proof/Laws/State.lean ====
section
/-! SUPPORT. What each flat update of the state leaves in each field: true by unfolding one record update. -/

namespace Sys2Proof.Machine

variable (s : State)

/-! `raise` writes `irq`. -/

@[simp] theorem raise_part (f : Flag) : (raise f s).part = s.part := rfl
@[simp] theorem raise_irq (f : Flag) : (raise f s).irq = s.irq.raise f := rfl
@[simp] theorem raise_win (f : Flag) : (raise f s).win = s.win := rfl
@[simp] theorem raise_ctl (f : Flag) : (raise f s).ctl = s.ctl := rfl
@[simp] theorem raise_cells (f : Flag) : (raise f s).cells = s.cells := rfl
@[simp] theorem raise_cellPort (f : Flag) : (raise f s).cellPort = s.cellPort := rfl
@[simp] theorem raise_mover (f : Flag) : (raise f s).mover = s.mover := rfl
@[simp] theorem raise_descs (f : Flag) : (raise f s).descs = s.descs := rfl
@[simp] theorem raise_attrs (f : Flag) : (raise f s).attrs = s.attrs := rfl
@[simp] theorem raise_patch (f : Flag) : (raise f s).patch = s.patch := rfl
@[simp] theorem raise_patchValid (f : Flag) : (raise f s).patchValid = s.patchValid := rfl
@[simp] theorem raise_scan (f : Flag) : (raise f s).scan = s.scan := rfl
@[simp] theorem raise_rows (f : Flag) : (raise f s).rows = s.rows := rfl
@[simp] theorem raise_array (f : Flag) : (raise f s).array = s.array := rfl
@[simp] theorem raise_arrPort (f : Flag) : (raise f s).arrPort = s.arrPort := rfl
@[simp] theorem raise_store (f : Flag) : (raise f s).store = s.store := rfl
@[simp] theorem raise_svc (f : Flag) : (raise f s).svc = s.svc := rfl
@[simp] theorem raise_freeCount (f : Flag) : (raise f s).freeCount = s.freeCount := rfl
@[simp] theorem raise_pending (f : Flag) : (raise f s).pending = s.pending := rfl

/-! `clearDisplayFlags` writes `irq`. -/

@[simp] theorem clearDisplayFlags_part : (clearDisplayFlags s).part = s.part := rfl
@[simp] theorem clearDisplayFlags_irq :
    (clearDisplayFlags s).irq = { s.irq with iflag0 := s.irq.iflag0 &&& 0xC0 } := rfl
@[simp] theorem clearDisplayFlags_win : (clearDisplayFlags s).win = s.win := rfl
@[simp] theorem clearDisplayFlags_ctl : (clearDisplayFlags s).ctl = s.ctl := rfl
@[simp] theorem clearDisplayFlags_cells : (clearDisplayFlags s).cells = s.cells := rfl
@[simp] theorem clearDisplayFlags_cellPort : (clearDisplayFlags s).cellPort = s.cellPort := rfl
@[simp] theorem clearDisplayFlags_mover : (clearDisplayFlags s).mover = s.mover := rfl
@[simp] theorem clearDisplayFlags_descs : (clearDisplayFlags s).descs = s.descs := rfl
@[simp] theorem clearDisplayFlags_attrs : (clearDisplayFlags s).attrs = s.attrs := rfl
@[simp] theorem clearDisplayFlags_patch : (clearDisplayFlags s).patch = s.patch := rfl
@[simp] theorem clearDisplayFlags_patchValid : (clearDisplayFlags s).patchValid = s.patchValid := rfl
@[simp] theorem clearDisplayFlags_scan : (clearDisplayFlags s).scan = s.scan := rfl
@[simp] theorem clearDisplayFlags_rows : (clearDisplayFlags s).rows = s.rows := rfl
@[simp] theorem clearDisplayFlags_array : (clearDisplayFlags s).array = s.array := rfl
@[simp] theorem clearDisplayFlags_arrPort : (clearDisplayFlags s).arrPort = s.arrPort := rfl
@[simp] theorem clearDisplayFlags_store : (clearDisplayFlags s).store = s.store := rfl
@[simp] theorem clearDisplayFlags_svc : (clearDisplayFlags s).svc = s.svc := rfl
@[simp] theorem clearDisplayFlags_freeCount : (clearDisplayFlags s).freeCount = s.freeCount := rfl
@[simp] theorem clearDisplayFlags_pending : (clearDisplayFlags s).pending = s.pending := rfl

/-! `refuse` writes `irq`, `win`. -/

@[simp] theorem refuse_part (c : WinFault) : (refuse c s).part = s.part := rfl
@[simp] theorem refuse_irq (c : WinFault) : (refuse c s).irq = s.irq.raise .winFault := rfl
@[simp] theorem refuse_ctl (c : WinFault) : (refuse c s).ctl = s.ctl := rfl
@[simp] theorem refuse_cells (c : WinFault) : (refuse c s).cells = s.cells := rfl
@[simp] theorem refuse_cellPort (c : WinFault) : (refuse c s).cellPort = s.cellPort := rfl
@[simp] theorem refuse_mover (c : WinFault) : (refuse c s).mover = s.mover := rfl
@[simp] theorem refuse_descs (c : WinFault) : (refuse c s).descs = s.descs := rfl
@[simp] theorem refuse_attrs (c : WinFault) : (refuse c s).attrs = s.attrs := rfl
@[simp] theorem refuse_patch (c : WinFault) : (refuse c s).patch = s.patch := rfl
@[simp] theorem refuse_patchValid (c : WinFault) : (refuse c s).patchValid = s.patchValid := rfl
@[simp] theorem refuse_scan (c : WinFault) : (refuse c s).scan = s.scan := rfl
@[simp] theorem refuse_rows (c : WinFault) : (refuse c s).rows = s.rows := rfl
@[simp] theorem refuse_array (c : WinFault) : (refuse c s).array = s.array := rfl
@[simp] theorem refuse_arrPort (c : WinFault) : (refuse c s).arrPort = s.arrPort := rfl
@[simp] theorem refuse_store (c : WinFault) : (refuse c s).store = s.store := rfl
@[simp] theorem refuse_svc (c : WinFault) : (refuse c s).svc = s.svc := rfl
@[simp] theorem refuse_freeCount (c : WinFault) : (refuse c s).freeCount = s.freeCount := rfl
@[simp] theorem refuse_pending (c : WinFault) : (refuse c s).pending = s.pending := rfl

/-! `stepAddr` writes `win`. -/

@[simp] theorem stepAddr_part : (stepAddr s).part = s.part := rfl
@[simp] theorem stepAddr_irq : (stepAddr s).irq = s.irq := rfl
@[simp] theorem stepAddr_win : (stepAddr s).win = { s.win with addr := s.win.addr + 1 } := rfl
@[simp] theorem stepAddr_ctl : (stepAddr s).ctl = s.ctl := rfl
@[simp] theorem stepAddr_cells : (stepAddr s).cells = s.cells := rfl
@[simp] theorem stepAddr_cellPort : (stepAddr s).cellPort = s.cellPort := rfl
@[simp] theorem stepAddr_mover : (stepAddr s).mover = s.mover := rfl
@[simp] theorem stepAddr_descs : (stepAddr s).descs = s.descs := rfl
@[simp] theorem stepAddr_attrs : (stepAddr s).attrs = s.attrs := rfl
@[simp] theorem stepAddr_patch : (stepAddr s).patch = s.patch := rfl
@[simp] theorem stepAddr_patchValid : (stepAddr s).patchValid = s.patchValid := rfl
@[simp] theorem stepAddr_scan : (stepAddr s).scan = s.scan := rfl
@[simp] theorem stepAddr_rows : (stepAddr s).rows = s.rows := rfl
@[simp] theorem stepAddr_array : (stepAddr s).array = s.array := rfl
@[simp] theorem stepAddr_arrPort : (stepAddr s).arrPort = s.arrPort := rfl
@[simp] theorem stepAddr_store : (stepAddr s).store = s.store := rfl
@[simp] theorem stepAddr_svc : (stepAddr s).svc = s.svc := rfl
@[simp] theorem stepAddr_freeCount : (stepAddr s).freeCount = s.freeCount := rfl
@[simp] theorem stepAddr_pending : (stepAddr s).pending = s.pending := rfl

/-! `drive` writes `win`. -/

@[simp] theorem drive_part (v : Byte) : (drive v s).part = s.part := rfl
@[simp] theorem drive_irq (v : Byte) : (drive v s).irq = s.irq := rfl
@[simp] theorem drive_win (v : Byte) : (drive v s).win = { s.win with dataOut := v } := rfl
@[simp] theorem drive_ctl (v : Byte) : (drive v s).ctl = s.ctl := rfl
@[simp] theorem drive_cells (v : Byte) : (drive v s).cells = s.cells := rfl
@[simp] theorem drive_cellPort (v : Byte) : (drive v s).cellPort = s.cellPort := rfl
@[simp] theorem drive_mover (v : Byte) : (drive v s).mover = s.mover := rfl
@[simp] theorem drive_descs (v : Byte) : (drive v s).descs = s.descs := rfl
@[simp] theorem drive_attrs (v : Byte) : (drive v s).attrs = s.attrs := rfl
@[simp] theorem drive_patch (v : Byte) : (drive v s).patch = s.patch := rfl
@[simp] theorem drive_patchValid (v : Byte) : (drive v s).patchValid = s.patchValid := rfl
@[simp] theorem drive_scan (v : Byte) : (drive v s).scan = s.scan := rfl
@[simp] theorem drive_rows (v : Byte) : (drive v s).rows = s.rows := rfl
@[simp] theorem drive_array (v : Byte) : (drive v s).array = s.array := rfl
@[simp] theorem drive_arrPort (v : Byte) : (drive v s).arrPort = s.arrPort := rfl
@[simp] theorem drive_store (v : Byte) : (drive v s).store = s.store := rfl
@[simp] theorem drive_svc (v : Byte) : (drive v s).svc = s.svc := rfl
@[simp] theorem drive_freeCount (v : Byte) : (drive v s).freeCount = s.freeCount := rfl
@[simp] theorem drive_pending (v : Byte) : (drive v s).pending = s.pending := rfl

/-! `withFlight` writes `store`. -/

@[simp] theorem withFlight_part (f : InFlight → InFlight) : (s.withFlight f).part = s.part := rfl
@[simp] theorem withFlight_irq (f : InFlight → InFlight) : (s.withFlight f).irq = s.irq := rfl
@[simp] theorem withFlight_win (f : InFlight → InFlight) : (s.withFlight f).win = s.win := rfl
@[simp] theorem withFlight_ctl (f : InFlight → InFlight) : (s.withFlight f).ctl = s.ctl := rfl
@[simp] theorem withFlight_cells (f : InFlight → InFlight) : (s.withFlight f).cells = s.cells := rfl
@[simp] theorem withFlight_cellPort (f : InFlight → InFlight) : (s.withFlight f).cellPort = s.cellPort := rfl
@[simp] theorem withFlight_mover (f : InFlight → InFlight) : (s.withFlight f).mover = s.mover := rfl
@[simp] theorem withFlight_descs (f : InFlight → InFlight) : (s.withFlight f).descs = s.descs := rfl
@[simp] theorem withFlight_attrs (f : InFlight → InFlight) : (s.withFlight f).attrs = s.attrs := rfl
@[simp] theorem withFlight_patch (f : InFlight → InFlight) : (s.withFlight f).patch = s.patch := rfl
@[simp] theorem withFlight_patchValid (f : InFlight → InFlight) : (s.withFlight f).patchValid = s.patchValid := rfl
@[simp] theorem withFlight_scan (f : InFlight → InFlight) : (s.withFlight f).scan = s.scan := rfl
@[simp] theorem withFlight_rows (f : InFlight → InFlight) : (s.withFlight f).rows = s.rows := rfl
@[simp] theorem withFlight_array (f : InFlight → InFlight) : (s.withFlight f).array = s.array := rfl
@[simp] theorem withFlight_arrPort (f : InFlight → InFlight) : (s.withFlight f).arrPort = s.arrPort := rfl
@[simp] theorem withFlight_store (f : InFlight → InFlight) :
    (s.withFlight f).store = { s.store with inFlight := s.store.inFlight.map f } := rfl
@[simp] theorem withFlight_svc (f : InFlight → InFlight) : (s.withFlight f).svc = s.svc := rfl
@[simp] theorem withFlight_freeCount (f : InFlight → InFlight) : (s.withFlight f).freeCount = s.freeCount := rfl
@[simp] theorem withFlight_pending (f : InFlight → InFlight) : (s.withFlight f).pending = s.pending := rfl

/-! `setRole` writes `store`. -/

@[simp] theorem setRole_part (b : Bank) (r : Role) : (s.setRole b r).part = s.part := rfl
@[simp] theorem setRole_irq (b : Bank) (r : Role) : (s.setRole b r).irq = s.irq := rfl
@[simp] theorem setRole_win (b : Bank) (r : Role) : (s.setRole b r).win = s.win := rfl
@[simp] theorem setRole_ctl (b : Bank) (r : Role) : (s.setRole b r).ctl = s.ctl := rfl
@[simp] theorem setRole_cells (b : Bank) (r : Role) : (s.setRole b r).cells = s.cells := rfl
@[simp] theorem setRole_cellPort (b : Bank) (r : Role) : (s.setRole b r).cellPort = s.cellPort := rfl
@[simp] theorem setRole_mover (b : Bank) (r : Role) : (s.setRole b r).mover = s.mover := rfl
@[simp] theorem setRole_descs (b : Bank) (r : Role) : (s.setRole b r).descs = s.descs := rfl
@[simp] theorem setRole_attrs (b : Bank) (r : Role) : (s.setRole b r).attrs = s.attrs := rfl
@[simp] theorem setRole_patch (b : Bank) (r : Role) : (s.setRole b r).patch = s.patch := rfl
@[simp] theorem setRole_patchValid (b : Bank) (r : Role) : (s.setRole b r).patchValid = s.patchValid := rfl
@[simp] theorem setRole_scan (b : Bank) (r : Role) : (s.setRole b r).scan = s.scan := rfl
@[simp] theorem setRole_rows (b : Bank) (r : Role) : (s.setRole b r).rows = s.rows := rfl
@[simp] theorem setRole_array (b : Bank) (r : Role) : (s.setRole b r).array = s.array := rfl
@[simp] theorem setRole_arrPort (b : Bank) (r : Role) : (s.setRole b r).arrPort = s.arrPort := rfl
@[simp] theorem setRole_svc (b : Bank) (r : Role) : (s.setRole b r).svc = s.svc := rfl
@[simp] theorem setRole_freeCount (b : Bank) (r : Role) : (s.setRole b r).freeCount = s.freeCount := rfl
@[simp] theorem setRole_pending (b : Bank) (r : Role) : (s.setRole b r).pending = s.pending := rfl

/-! `setEngine` writes `store`. -/

@[simp] theorem setEngine_part (e : Engine) (w : WaitReason) : (s.setEngine e w).part = s.part := rfl
@[simp] theorem setEngine_irq (e : Engine) (w : WaitReason) : (s.setEngine e w).irq = s.irq := rfl
@[simp] theorem setEngine_win (e : Engine) (w : WaitReason) : (s.setEngine e w).win = s.win := rfl
@[simp] theorem setEngine_ctl (e : Engine) (w : WaitReason) : (s.setEngine e w).ctl = s.ctl := rfl
@[simp] theorem setEngine_cells (e : Engine) (w : WaitReason) : (s.setEngine e w).cells = s.cells := rfl
@[simp] theorem setEngine_cellPort (e : Engine) (w : WaitReason) : (s.setEngine e w).cellPort = s.cellPort := rfl
@[simp] theorem setEngine_mover (e : Engine) (w : WaitReason) : (s.setEngine e w).mover = s.mover := rfl
@[simp] theorem setEngine_descs (e : Engine) (w : WaitReason) : (s.setEngine e w).descs = s.descs := rfl
@[simp] theorem setEngine_attrs (e : Engine) (w : WaitReason) : (s.setEngine e w).attrs = s.attrs := rfl
@[simp] theorem setEngine_patch (e : Engine) (w : WaitReason) : (s.setEngine e w).patch = s.patch := rfl
@[simp] theorem setEngine_patchValid (e : Engine) (w : WaitReason) :
    (s.setEngine e w).patchValid = s.patchValid := rfl
@[simp] theorem setEngine_scan (e : Engine) (w : WaitReason) : (s.setEngine e w).scan = s.scan := rfl
@[simp] theorem setEngine_rows (e : Engine) (w : WaitReason) : (s.setEngine e w).rows = s.rows := rfl
@[simp] theorem setEngine_array (e : Engine) (w : WaitReason) : (s.setEngine e w).array = s.array := rfl
@[simp] theorem setEngine_arrPort (e : Engine) (w : WaitReason) : (s.setEngine e w).arrPort = s.arrPort := rfl
@[simp] theorem setEngine_store (e : Engine) (w : WaitReason) :
    (s.setEngine e w).store = { s.store with engine := e, wait := w } := rfl
@[simp] theorem setEngine_svc (e : Engine) (w : WaitReason) : (s.setEngine e w).svc = s.svc := rfl
@[simp] theorem setEngine_freeCount (e : Engine) (w : WaitReason) : (s.setEngine e w).freeCount = s.freeCount := rfl
@[simp] theorem setEngine_pending (e : Engine) (w : WaitReason) : (s.setEngine e w).pending = s.pending := rfl

/-! `withSvc` writes `svc`. -/

@[simp] theorem withSvc_part (f : Service → Service) : (s.withSvc f).part = s.part := rfl
@[simp] theorem withSvc_irq (f : Service → Service) : (s.withSvc f).irq = s.irq := rfl
@[simp] theorem withSvc_win (f : Service → Service) : (s.withSvc f).win = s.win := rfl
@[simp] theorem withSvc_ctl (f : Service → Service) : (s.withSvc f).ctl = s.ctl := rfl
@[simp] theorem withSvc_cells (f : Service → Service) : (s.withSvc f).cells = s.cells := rfl
@[simp] theorem withSvc_cellPort (f : Service → Service) : (s.withSvc f).cellPort = s.cellPort := rfl
@[simp] theorem withSvc_mover (f : Service → Service) : (s.withSvc f).mover = s.mover := rfl
@[simp] theorem withSvc_descs (f : Service → Service) : (s.withSvc f).descs = s.descs := rfl
@[simp] theorem withSvc_attrs (f : Service → Service) : (s.withSvc f).attrs = s.attrs := rfl
@[simp] theorem withSvc_patch (f : Service → Service) : (s.withSvc f).patch = s.patch := rfl
@[simp] theorem withSvc_patchValid (f : Service → Service) : (s.withSvc f).patchValid = s.patchValid := rfl
@[simp] theorem withSvc_scan (f : Service → Service) : (s.withSvc f).scan = s.scan := rfl
@[simp] theorem withSvc_rows (f : Service → Service) : (s.withSvc f).rows = s.rows := rfl
@[simp] theorem withSvc_array (f : Service → Service) : (s.withSvc f).array = s.array := rfl
@[simp] theorem withSvc_arrPort (f : Service → Service) : (s.withSvc f).arrPort = s.arrPort := rfl
@[simp] theorem withSvc_store (f : Service → Service) : (s.withSvc f).store = s.store := rfl
@[simp] theorem withSvc_svc (f : Service → Service) : (s.withSvc f).svc = f s.svc := rfl
@[simp] theorem withSvc_freeCount (f : Service → Service) : (s.withSvc f).freeCount = s.freeCount := rfl
@[simp] theorem withSvc_pending (f : Service → Service) : (s.withSvc f).pending = s.pending := rfl

/-! `cellGrant` writes `cellPort`. -/

@[simp] theorem cellGrant_part : (cellGrant s).part = s.part := rfl
@[simp] theorem cellGrant_irq : (cellGrant s).irq = s.irq := rfl
@[simp] theorem cellGrant_win : (cellGrant s).win = s.win := rfl
@[simp] theorem cellGrant_ctl : (cellGrant s).ctl = s.ctl := rfl
@[simp] theorem cellGrant_cells : (cellGrant s).cells = s.cells := rfl
@[simp] theorem cellGrant_cellPort : (cellGrant s).cellPort = s.cellPort.grant := rfl
@[simp] theorem cellGrant_mover : (cellGrant s).mover = s.mover := rfl
@[simp] theorem cellGrant_descs : (cellGrant s).descs = s.descs := rfl
@[simp] theorem cellGrant_attrs : (cellGrant s).attrs = s.attrs := rfl
@[simp] theorem cellGrant_patch : (cellGrant s).patch = s.patch := rfl
@[simp] theorem cellGrant_patchValid : (cellGrant s).patchValid = s.patchValid := rfl
@[simp] theorem cellGrant_scan : (cellGrant s).scan = s.scan := rfl
@[simp] theorem cellGrant_rows : (cellGrant s).rows = s.rows := rfl
@[simp] theorem cellGrant_array : (cellGrant s).array = s.array := rfl
@[simp] theorem cellGrant_arrPort : (cellGrant s).arrPort = s.arrPort := rfl
@[simp] theorem cellGrant_store : (cellGrant s).store = s.store := rfl
@[simp] theorem cellGrant_svc : (cellGrant s).svc = s.svc := rfl
@[simp] theorem cellGrant_freeCount : (cellGrant s).freeCount = s.freeCount := rfl
@[simp] theorem cellGrant_pending : (cellGrant s).pending = s.pending := rfl

/-! `loaderCellRead` writes `cellPort`. -/

@[simp] theorem loaderCellRead_part (a : CellAddr) : (loaderCellRead a s).part = s.part := rfl
@[simp] theorem loaderCellRead_irq (a : CellAddr) : (loaderCellRead a s).irq = s.irq := rfl
@[simp] theorem loaderCellRead_win (a : CellAddr) : (loaderCellRead a s).win = s.win := rfl
@[simp] theorem loaderCellRead_ctl (a : CellAddr) : (loaderCellRead a s).ctl = s.ctl := rfl
@[simp] theorem loaderCellRead_cells (a : CellAddr) : (loaderCellRead a s).cells = s.cells := rfl
@[simp] theorem loaderCellRead_cellPort (a : CellAddr) :
    (loaderCellRead a s).cellPort = { s.cellPort with loaderWait := some a }.grant := rfl
@[simp] theorem loaderCellRead_mover (a : CellAddr) : (loaderCellRead a s).mover = s.mover := rfl
@[simp] theorem loaderCellRead_descs (a : CellAddr) : (loaderCellRead a s).descs = s.descs := rfl
@[simp] theorem loaderCellRead_attrs (a : CellAddr) : (loaderCellRead a s).attrs = s.attrs := rfl
@[simp] theorem loaderCellRead_patch (a : CellAddr) : (loaderCellRead a s).patch = s.patch := rfl
@[simp] theorem loaderCellRead_patchValid (a : CellAddr) : (loaderCellRead a s).patchValid = s.patchValid := rfl
@[simp] theorem loaderCellRead_scan (a : CellAddr) : (loaderCellRead a s).scan = s.scan := rfl
@[simp] theorem loaderCellRead_rows (a : CellAddr) : (loaderCellRead a s).rows = s.rows := rfl
@[simp] theorem loaderCellRead_array (a : CellAddr) : (loaderCellRead a s).array = s.array := rfl
@[simp] theorem loaderCellRead_arrPort (a : CellAddr) : (loaderCellRead a s).arrPort = s.arrPort := rfl
@[simp] theorem loaderCellRead_store (a : CellAddr) : (loaderCellRead a s).store = s.store := rfl
@[simp] theorem loaderCellRead_svc (a : CellAddr) : (loaderCellRead a s).svc = s.svc := rfl
@[simp] theorem loaderCellRead_freeCount (a : CellAddr) : (loaderCellRead a s).freeCount = s.freeCount := rfl
@[simp] theorem loaderCellRead_pending (a : CellAddr) : (loaderCellRead a s).pending = s.pending := rfl

/-! `hostCellRequest` writes `cellPort`, `win`. -/

@[simp] theorem hostCellRequest_part (op : CellOp) (r : CellReq) : (hostCellRequest op r s).part = s.part := rfl
@[simp] theorem hostCellRequest_irq (op : CellOp) (r : CellReq) : (hostCellRequest op r s).irq = s.irq := rfl
@[simp] theorem hostCellRequest_win (op : CellOp) (r : CellReq) :
    (hostCellRequest op r s).win = { s.win with cellOp := some op } := rfl
@[simp] theorem hostCellRequest_ctl (op : CellOp) (r : CellReq) : (hostCellRequest op r s).ctl = s.ctl := rfl
@[simp] theorem hostCellRequest_cells (op : CellOp) (r : CellReq) : (hostCellRequest op r s).cells = s.cells := rfl
@[simp] theorem hostCellRequest_cellPort (op : CellOp) (r : CellReq) :
    (hostCellRequest op r s).cellPort = { s.cellPort with hostWait := some r }.grant := rfl
@[simp] theorem hostCellRequest_mover (op : CellOp) (r : CellReq) : (hostCellRequest op r s).mover = s.mover := rfl
@[simp] theorem hostCellRequest_descs (op : CellOp) (r : CellReq) : (hostCellRequest op r s).descs = s.descs := rfl
@[simp] theorem hostCellRequest_attrs (op : CellOp) (r : CellReq) : (hostCellRequest op r s).attrs = s.attrs := rfl
@[simp] theorem hostCellRequest_patch (op : CellOp) (r : CellReq) : (hostCellRequest op r s).patch = s.patch := rfl
@[simp] theorem hostCellRequest_patchValid (op : CellOp) (r : CellReq) :
    (hostCellRequest op r s).patchValid = s.patchValid := rfl
@[simp] theorem hostCellRequest_scan (op : CellOp) (r : CellReq) : (hostCellRequest op r s).scan = s.scan := rfl
@[simp] theorem hostCellRequest_rows (op : CellOp) (r : CellReq) : (hostCellRequest op r s).rows = s.rows := rfl
@[simp] theorem hostCellRequest_array (op : CellOp) (r : CellReq) : (hostCellRequest op r s).array = s.array := rfl
@[simp] theorem hostCellRequest_arrPort (op : CellOp) (r : CellReq) :
    (hostCellRequest op r s).arrPort = s.arrPort := rfl
@[simp] theorem hostCellRequest_store (op : CellOp) (r : CellReq) : (hostCellRequest op r s).store = s.store := rfl
@[simp] theorem hostCellRequest_svc (op : CellOp) (r : CellReq) : (hostCellRequest op r s).svc = s.svc := rfl
@[simp] theorem hostCellRequest_freeCount (op : CellOp) (r : CellReq) :
    (hostCellRequest op r s).freeCount = s.freeCount := rfl
@[simp] theorem hostCellRequest_pending (op : CellOp) (r : CellReq) :
    (hostCellRequest op r s).pending = s.pending := rfl

/-! `moverCellRequest` writes `cellPort`. -/

@[simp] theorem moverCellRequest_part (r : CellReq) : (moverCellRequest r s).part = s.part := rfl
@[simp] theorem moverCellRequest_irq (r : CellReq) : (moverCellRequest r s).irq = s.irq := rfl
@[simp] theorem moverCellRequest_win (r : CellReq) : (moverCellRequest r s).win = s.win := rfl
@[simp] theorem moverCellRequest_ctl (r : CellReq) : (moverCellRequest r s).ctl = s.ctl := rfl
@[simp] theorem moverCellRequest_cells (r : CellReq) : (moverCellRequest r s).cells = s.cells := rfl
@[simp] theorem moverCellRequest_cellPort (r : CellReq) :
    (moverCellRequest r s).cellPort = { s.cellPort with moverWait := some r }.grant := rfl
@[simp] theorem moverCellRequest_mover (r : CellReq) : (moverCellRequest r s).mover = s.mover := rfl
@[simp] theorem moverCellRequest_descs (r : CellReq) : (moverCellRequest r s).descs = s.descs := rfl
@[simp] theorem moverCellRequest_attrs (r : CellReq) : (moverCellRequest r s).attrs = s.attrs := rfl
@[simp] theorem moverCellRequest_patch (r : CellReq) : (moverCellRequest r s).patch = s.patch := rfl
@[simp] theorem moverCellRequest_patchValid (r : CellReq) : (moverCellRequest r s).patchValid = s.patchValid := rfl
@[simp] theorem moverCellRequest_scan (r : CellReq) : (moverCellRequest r s).scan = s.scan := rfl
@[simp] theorem moverCellRequest_rows (r : CellReq) : (moverCellRequest r s).rows = s.rows := rfl
@[simp] theorem moverCellRequest_array (r : CellReq) : (moverCellRequest r s).array = s.array := rfl
@[simp] theorem moverCellRequest_arrPort (r : CellReq) : (moverCellRequest r s).arrPort = s.arrPort := rfl
@[simp] theorem moverCellRequest_store (r : CellReq) : (moverCellRequest r s).store = s.store := rfl
@[simp] theorem moverCellRequest_svc (r : CellReq) : (moverCellRequest r s).svc = s.svc := rfl
@[simp] theorem moverCellRequest_freeCount (r : CellReq) : (moverCellRequest r s).freeCount = s.freeCount := rfl
@[simp] theorem moverCellRequest_pending (r : CellReq) : (moverCellRequest r s).pending = s.pending := rfl

/-! `freeCellPort` writes `cellPort`. -/

@[simp] theorem freeCellPort_part : (freeCellPort s).part = s.part := rfl
@[simp] theorem freeCellPort_irq : (freeCellPort s).irq = s.irq := rfl
@[simp] theorem freeCellPort_win : (freeCellPort s).win = s.win := rfl
@[simp] theorem freeCellPort_ctl : (freeCellPort s).ctl = s.ctl := rfl
@[simp] theorem freeCellPort_cells : (freeCellPort s).cells = s.cells := rfl
@[simp] theorem freeCellPort_cellPort : (freeCellPort s).cellPort = { s.cellPort with access := none } := rfl
@[simp] theorem freeCellPort_mover : (freeCellPort s).mover = s.mover := rfl
@[simp] theorem freeCellPort_descs : (freeCellPort s).descs = s.descs := rfl
@[simp] theorem freeCellPort_attrs : (freeCellPort s).attrs = s.attrs := rfl
@[simp] theorem freeCellPort_patch : (freeCellPort s).patch = s.patch := rfl
@[simp] theorem freeCellPort_patchValid : (freeCellPort s).patchValid = s.patchValid := rfl
@[simp] theorem freeCellPort_scan : (freeCellPort s).scan = s.scan := rfl
@[simp] theorem freeCellPort_rows : (freeCellPort s).rows = s.rows := rfl
@[simp] theorem freeCellPort_array : (freeCellPort s).array = s.array := rfl
@[simp] theorem freeCellPort_arrPort : (freeCellPort s).arrPort = s.arrPort := rfl
@[simp] theorem freeCellPort_store : (freeCellPort s).store = s.store := rfl
@[simp] theorem freeCellPort_svc : (freeCellPort s).svc = s.svc := rfl
@[simp] theorem freeCellPort_freeCount : (freeCellPort s).freeCount = s.freeCount := rfl
@[simp] theorem freeCellPort_pending : (freeCellPort s).pending = s.pending := rfl

/-! `freeArrayPort` writes `arrPort`. -/

@[simp] theorem freeArrayPort_part : (freeArrayPort s).part = s.part := rfl
@[simp] theorem freeArrayPort_irq : (freeArrayPort s).irq = s.irq := rfl
@[simp] theorem freeArrayPort_win : (freeArrayPort s).win = s.win := rfl
@[simp] theorem freeArrayPort_ctl : (freeArrayPort s).ctl = s.ctl := rfl
@[simp] theorem freeArrayPort_cells : (freeArrayPort s).cells = s.cells := rfl
@[simp] theorem freeArrayPort_cellPort : (freeArrayPort s).cellPort = s.cellPort := rfl
@[simp] theorem freeArrayPort_mover : (freeArrayPort s).mover = s.mover := rfl
@[simp] theorem freeArrayPort_descs : (freeArrayPort s).descs = s.descs := rfl
@[simp] theorem freeArrayPort_attrs : (freeArrayPort s).attrs = s.attrs := rfl
@[simp] theorem freeArrayPort_patch : (freeArrayPort s).patch = s.patch := rfl
@[simp] theorem freeArrayPort_patchValid : (freeArrayPort s).patchValid = s.patchValid := rfl
@[simp] theorem freeArrayPort_scan : (freeArrayPort s).scan = s.scan := rfl
@[simp] theorem freeArrayPort_rows : (freeArrayPort s).rows = s.rows := rfl
@[simp] theorem freeArrayPort_array : (freeArrayPort s).array = s.array := rfl
@[simp] theorem freeArrayPort_arrPort : (freeArrayPort s).arrPort = { s.arrPort with access := none } := rfl
@[simp] theorem freeArrayPort_store : (freeArrayPort s).store = s.store := rfl
@[simp] theorem freeArrayPort_svc : (freeArrayPort s).svc = s.svc := rfl
@[simp] theorem freeArrayPort_freeCount : (freeArrayPort s).freeCount = s.freeCount := rfl
@[simp] theorem freeArrayPort_pending : (freeArrayPort s).pending = s.pending := rfl

/-! `pulseArray` writes `array`, `freeCount`. -/

@[simp] theorem pulseArray_part (p : ProgOp) : (pulseArray p s).part = s.part := rfl
@[simp] theorem pulseArray_irq (p : ProgOp) : (pulseArray p s).irq = s.irq := rfl
@[simp] theorem pulseArray_win (p : ProgOp) : (pulseArray p s).win = s.win := rfl
@[simp] theorem pulseArray_ctl (p : ProgOp) : (pulseArray p s).ctl = s.ctl := rfl
@[simp] theorem pulseArray_cells (p : ProgOp) : (pulseArray p s).cells = s.cells := rfl
@[simp] theorem pulseArray_cellPort (p : ProgOp) : (pulseArray p s).cellPort = s.cellPort := rfl
@[simp] theorem pulseArray_mover (p : ProgOp) : (pulseArray p s).mover = s.mover := rfl
@[simp] theorem pulseArray_descs (p : ProgOp) : (pulseArray p s).descs = s.descs := rfl
@[simp] theorem pulseArray_attrs (p : ProgOp) : (pulseArray p s).attrs = s.attrs := rfl
@[simp] theorem pulseArray_patch (p : ProgOp) : (pulseArray p s).patch = s.patch := rfl
@[simp] theorem pulseArray_patchValid (p : ProgOp) : (pulseArray p s).patchValid = s.patchValid := rfl
@[simp] theorem pulseArray_scan (p : ProgOp) : (pulseArray p s).scan = s.scan := rfl
@[simp] theorem pulseArray_rows (p : ProgOp) : (pulseArray p s).rows = s.rows := rfl
@[simp] theorem pulseArray_arrPort (p : ProgOp) : (pulseArray p s).arrPort = s.arrPort := rfl
@[simp] theorem pulseArray_store (p : ProgOp) : (pulseArray p s).store = s.store := rfl
@[simp] theorem pulseArray_svc (p : ProgOp) : (pulseArray p s).svc = s.svc := rfl
@[simp] theorem pulseArray_pending (p : ProgOp) : (pulseArray p s).pending = s.pending := rfl

/-! `subPulseArray` writes `array`, `freeCount`. -/

@[simp] theorem subPulseArray_part (u : EraseUnit) : (subPulseArray u s).part = s.part := rfl
@[simp] theorem subPulseArray_irq (u : EraseUnit) : (subPulseArray u s).irq = s.irq := rfl
@[simp] theorem subPulseArray_win (u : EraseUnit) : (subPulseArray u s).win = s.win := rfl
@[simp] theorem subPulseArray_ctl (u : EraseUnit) : (subPulseArray u s).ctl = s.ctl := rfl
@[simp] theorem subPulseArray_cells (u : EraseUnit) : (subPulseArray u s).cells = s.cells := rfl
@[simp] theorem subPulseArray_cellPort (u : EraseUnit) : (subPulseArray u s).cellPort = s.cellPort := rfl
@[simp] theorem subPulseArray_mover (u : EraseUnit) : (subPulseArray u s).mover = s.mover := rfl
@[simp] theorem subPulseArray_descs (u : EraseUnit) : (subPulseArray u s).descs = s.descs := rfl
@[simp] theorem subPulseArray_attrs (u : EraseUnit) : (subPulseArray u s).attrs = s.attrs := rfl
@[simp] theorem subPulseArray_patch (u : EraseUnit) : (subPulseArray u s).patch = s.patch := rfl
@[simp] theorem subPulseArray_patchValid (u : EraseUnit) : (subPulseArray u s).patchValid = s.patchValid := rfl
@[simp] theorem subPulseArray_scan (u : EraseUnit) : (subPulseArray u s).scan = s.scan := rfl
@[simp] theorem subPulseArray_rows (u : EraseUnit) : (subPulseArray u s).rows = s.rows := rfl
@[simp] theorem subPulseArray_arrPort (u : EraseUnit) : (subPulseArray u s).arrPort = s.arrPort := rfl
@[simp] theorem subPulseArray_store (u : EraseUnit) : (subPulseArray u s).store = s.store := rfl
@[simp] theorem subPulseArray_svc (u : EraseUnit) : (subPulseArray u s).svc = s.svc := rfl
@[simp] theorem subPulseArray_pending (u : EraseUnit) : (subPulseArray u s).pending = s.pending := rfl

/-! `loaderRests` writes `rows`. -/

@[simp] theorem loaderRests_part : (loaderRests s).part = s.part := rfl
@[simp] theorem loaderRests_irq : (loaderRests s).irq = s.irq := rfl
@[simp] theorem loaderRests_win : (loaderRests s).win = s.win := rfl
@[simp] theorem loaderRests_ctl : (loaderRests s).ctl = s.ctl := rfl
@[simp] theorem loaderRests_cells : (loaderRests s).cells = s.cells := rfl
@[simp] theorem loaderRests_cellPort : (loaderRests s).cellPort = s.cellPort := rfl
@[simp] theorem loaderRests_mover : (loaderRests s).mover = s.mover := rfl
@[simp] theorem loaderRests_descs : (loaderRests s).descs = s.descs := rfl
@[simp] theorem loaderRests_attrs : (loaderRests s).attrs = s.attrs := rfl
@[simp] theorem loaderRests_patch : (loaderRests s).patch = s.patch := rfl
@[simp] theorem loaderRests_patchValid : (loaderRests s).patchValid = s.patchValid := rfl
@[simp] theorem loaderRests_scan : (loaderRests s).scan = s.scan := rfl
@[simp] theorem loaderRests_rows : (loaderRests s).rows = { s.rows with loader := .resting, work := none } := rfl
@[simp] theorem loaderRests_array : (loaderRests s).array = s.array := rfl
@[simp] theorem loaderRests_arrPort : (loaderRests s).arrPort = s.arrPort := rfl
@[simp] theorem loaderRests_store : (loaderRests s).store = s.store := rfl
@[simp] theorem loaderRests_svc : (loaderRests s).svc = s.svc := rfl
@[simp] theorem loaderRests_freeCount : (loaderRests s).freeCount = s.freeCount := rfl
@[simp] theorem loaderRests_pending : (loaderRests s).pending = s.pending := rfl

/-! `loaderLeaves` writes `cellPort`, `arrPort`, `rows`. -/

@[simp] theorem loaderLeaves_part : (loaderLeaves s).part = s.part := rfl
@[simp] theorem loaderLeaves_irq : (loaderLeaves s).irq = s.irq := rfl
@[simp] theorem loaderLeaves_win : (loaderLeaves s).win = s.win := rfl
@[simp] theorem loaderLeaves_ctl : (loaderLeaves s).ctl = s.ctl := rfl
@[simp] theorem loaderLeaves_cells : (loaderLeaves s).cells = s.cells := rfl
@[simp] theorem loaderLeaves_mover : (loaderLeaves s).mover = s.mover := rfl
@[simp] theorem loaderLeaves_descs : (loaderLeaves s).descs = s.descs := rfl
@[simp] theorem loaderLeaves_attrs : (loaderLeaves s).attrs = s.attrs := rfl
@[simp] theorem loaderLeaves_patch : (loaderLeaves s).patch = s.patch := rfl
@[simp] theorem loaderLeaves_patchValid : (loaderLeaves s).patchValid = s.patchValid := rfl
@[simp] theorem loaderLeaves_scan : (loaderLeaves s).scan = s.scan := rfl
@[simp] theorem loaderLeaves_rows : (loaderLeaves s).rows = { s.rows with work := none } := rfl
@[simp] theorem loaderLeaves_array : (loaderLeaves s).array = s.array := rfl
@[simp] theorem loaderLeaves_arrPort : (loaderLeaves s).arrPort = s.arrPort.loaderLeaves := rfl
@[simp] theorem loaderLeaves_store : (loaderLeaves s).store = s.store := rfl
@[simp] theorem loaderLeaves_svc : (loaderLeaves s).svc = s.svc := rfl
@[simp] theorem loaderLeaves_freeCount : (loaderLeaves s).freeCount = s.freeCount := rfl
@[simp] theorem loaderLeaves_pending : (loaderLeaves s).pending = s.pending := rfl

/-! `loaderStops` writes `cellPort`, `arrPort`, `rows`. -/

@[simp] theorem loaderStops_part : (loaderStops s).part = s.part := rfl
@[simp] theorem loaderStops_irq : (loaderStops s).irq = s.irq := rfl
@[simp] theorem loaderStops_win : (loaderStops s).win = s.win := rfl
@[simp] theorem loaderStops_ctl : (loaderStops s).ctl = s.ctl := rfl
@[simp] theorem loaderStops_cells : (loaderStops s).cells = s.cells := rfl
@[simp] theorem loaderStops_mover : (loaderStops s).mover = s.mover := rfl
@[simp] theorem loaderStops_descs : (loaderStops s).descs = s.descs := rfl
@[simp] theorem loaderStops_attrs : (loaderStops s).attrs = s.attrs := rfl
@[simp] theorem loaderStops_patch : (loaderStops s).patch = s.patch := rfl
@[simp] theorem loaderStops_patchValid : (loaderStops s).patchValid = s.patchValid := rfl
@[simp] theorem loaderStops_scan : (loaderStops s).scan = s.scan := rfl
@[simp] theorem loaderStops_rows :
    (loaderStops s).rows = { loader := .stopped, work := none, buf0 := none, buf1 := none, loadingIs1 := false } := rfl
@[simp] theorem loaderStops_array : (loaderStops s).array = s.array := rfl
@[simp] theorem loaderStops_arrPort : (loaderStops s).arrPort = s.arrPort.loaderLeaves := rfl
@[simp] theorem loaderStops_store : (loaderStops s).store = s.store := rfl
@[simp] theorem loaderStops_svc : (loaderStops s).svc = s.svc := rfl
@[simp] theorem loaderStops_freeCount : (loaderStops s).freeCount = s.freeCount := rfl
@[simp] theorem loaderStops_pending : (loaderStops s).pending = s.pending := rfl

/-! `copyStoreMap` writes `scan`, `store`. -/

@[simp] theorem copyStoreMap_part : (copyStoreMap s).part = s.part := rfl
@[simp] theorem copyStoreMap_irq : (copyStoreMap s).irq = s.irq := rfl
@[simp] theorem copyStoreMap_win : (copyStoreMap s).win = s.win := rfl
@[simp] theorem copyStoreMap_ctl : (copyStoreMap s).ctl = s.ctl := rfl
@[simp] theorem copyStoreMap_cells : (copyStoreMap s).cells = s.cells := rfl
@[simp] theorem copyStoreMap_cellPort : (copyStoreMap s).cellPort = s.cellPort := rfl
@[simp] theorem copyStoreMap_mover : (copyStoreMap s).mover = s.mover := rfl
@[simp] theorem copyStoreMap_descs : (copyStoreMap s).descs = s.descs := rfl
@[simp] theorem copyStoreMap_attrs : (copyStoreMap s).attrs = s.attrs := rfl
@[simp] theorem copyStoreMap_patch : (copyStoreMap s).patch = s.patch := rfl
@[simp] theorem copyStoreMap_patchValid : (copyStoreMap s).patchValid = s.patchValid := rfl
@[simp] theorem copyStoreMap_rows : (copyStoreMap s).rows = s.rows := rfl
@[simp] theorem copyStoreMap_array : (copyStoreMap s).array = s.array := rfl
@[simp] theorem copyStoreMap_arrPort : (copyStoreMap s).arrPort = s.arrPort := rfl
@[simp] theorem copyStoreMap_svc : (copyStoreMap s).svc = s.svc := rfl
@[simp] theorem copyStoreMap_freeCount : (copyStoreMap s).freeCount = s.freeCount := rfl
@[simp] theorem copyStoreMap_pending : (copyStoreMap s).pending = s.pending := rfl

/-! `latchConfig` writes `scan`. -/

@[simp] theorem latchConfig_part : (latchConfig s).part = s.part := rfl
@[simp] theorem latchConfig_irq : (latchConfig s).irq = s.irq := rfl
@[simp] theorem latchConfig_win : (latchConfig s).win = s.win := rfl
@[simp] theorem latchConfig_ctl : (latchConfig s).ctl = s.ctl := rfl
@[simp] theorem latchConfig_cells : (latchConfig s).cells = s.cells := rfl
@[simp] theorem latchConfig_cellPort : (latchConfig s).cellPort = s.cellPort := rfl
@[simp] theorem latchConfig_mover : (latchConfig s).mover = s.mover := rfl
@[simp] theorem latchConfig_descs : (latchConfig s).descs = s.descs := rfl
@[simp] theorem latchConfig_attrs : (latchConfig s).attrs = s.attrs := rfl
@[simp] theorem latchConfig_patch : (latchConfig s).patch = s.patch := rfl
@[simp] theorem latchConfig_patchValid : (latchConfig s).patchValid = s.patchValid := rfl
@[simp] theorem latchConfig_rows : (latchConfig s).rows = s.rows := rfl
@[simp] theorem latchConfig_array : (latchConfig s).array = s.array := rfl
@[simp] theorem latchConfig_arrPort : (latchConfig s).arrPort = s.arrPort := rfl
@[simp] theorem latchConfig_store : (latchConfig s).store = s.store := rfl
@[simp] theorem latchConfig_svc : (latchConfig s).svc = s.svc := rfl
@[simp] theorem latchConfig_freeCount : (latchConfig s).freeCount = s.freeCount := rfl
@[simp] theorem latchConfig_pending : (latchConfig s).pending = s.pending := rfl

/-! `marqueeAdvance` writes `descs`. -/

@[simp] theorem marqueeAdvance_part : (marqueeAdvance s).part = s.part := rfl
@[simp] theorem marqueeAdvance_irq : (marqueeAdvance s).irq = s.irq := rfl
@[simp] theorem marqueeAdvance_win : (marqueeAdvance s).win = s.win := rfl
@[simp] theorem marqueeAdvance_ctl : (marqueeAdvance s).ctl = s.ctl := rfl
@[simp] theorem marqueeAdvance_cells : (marqueeAdvance s).cells = s.cells := rfl
@[simp] theorem marqueeAdvance_cellPort : (marqueeAdvance s).cellPort = s.cellPort := rfl
@[simp] theorem marqueeAdvance_mover : (marqueeAdvance s).mover = s.mover := rfl
@[simp] theorem marqueeAdvance_descs :
    (marqueeAdvance s).descs = advanceMarquees s.scan.cfg.cellw.toNat s.descs := rfl
@[simp] theorem marqueeAdvance_attrs : (marqueeAdvance s).attrs = s.attrs := rfl
@[simp] theorem marqueeAdvance_patch : (marqueeAdvance s).patch = s.patch := rfl
@[simp] theorem marqueeAdvance_patchValid : (marqueeAdvance s).patchValid = s.patchValid := rfl
@[simp] theorem marqueeAdvance_scan : (marqueeAdvance s).scan = s.scan := rfl
@[simp] theorem marqueeAdvance_rows : (marqueeAdvance s).rows = s.rows := rfl
@[simp] theorem marqueeAdvance_array : (marqueeAdvance s).array = s.array := rfl
@[simp] theorem marqueeAdvance_arrPort : (marqueeAdvance s).arrPort = s.arrPort := rfl
@[simp] theorem marqueeAdvance_store : (marqueeAdvance s).store = s.store := rfl
@[simp] theorem marqueeAdvance_svc : (marqueeAdvance s).svc = s.svc := rfl
@[simp] theorem marqueeAdvance_freeCount : (marqueeAdvance s).freeCount = s.freeCount := rfl
@[simp] theorem marqueeAdvance_pending : (marqueeAdvance s).pending = s.pending := rfl

/-! `countFrame` writes `irq`, `scan`. -/

@[simp] theorem countFrame_part : (countFrame s).part = s.part := rfl
@[simp] theorem countFrame_irq : (countFrame s).irq = s.irq.raise .frame := rfl
@[simp] theorem countFrame_win : (countFrame s).win = s.win := rfl
@[simp] theorem countFrame_ctl : (countFrame s).ctl = s.ctl := rfl
@[simp] theorem countFrame_cells : (countFrame s).cells = s.cells := rfl
@[simp] theorem countFrame_cellPort : (countFrame s).cellPort = s.cellPort := rfl
@[simp] theorem countFrame_mover : (countFrame s).mover = s.mover := rfl
@[simp] theorem countFrame_descs : (countFrame s).descs = s.descs := rfl
@[simp] theorem countFrame_attrs : (countFrame s).attrs = s.attrs := rfl
@[simp] theorem countFrame_patch : (countFrame s).patch = s.patch := rfl
@[simp] theorem countFrame_patchValid : (countFrame s).patchValid = s.patchValid := rfl
@[simp] theorem countFrame_rows : (countFrame s).rows = s.rows := rfl
@[simp] theorem countFrame_array : (countFrame s).array = s.array := rfl
@[simp] theorem countFrame_arrPort : (countFrame s).arrPort = s.arrPort := rfl
@[simp] theorem countFrame_store : (countFrame s).store = s.store := rfl
@[simp] theorem countFrame_svc : (countFrame s).svc = s.svc := rfl
@[simp] theorem countFrame_freeCount : (countFrame s).freeCount = s.freeCount := rfl
@[simp] theorem countFrame_pending : (countFrame s).pending = s.pending := rfl

/-! `enterVblank` writes `scan`. -/

@[simp] theorem enterVblank_part : (enterVblank s).part = s.part := rfl
@[simp] theorem enterVblank_irq : (enterVblank s).irq = s.irq := rfl
@[simp] theorem enterVblank_win : (enterVblank s).win = s.win := rfl
@[simp] theorem enterVblank_ctl : (enterVblank s).ctl = s.ctl := rfl
@[simp] theorem enterVblank_cells : (enterVblank s).cells = s.cells := rfl
@[simp] theorem enterVblank_cellPort : (enterVblank s).cellPort = s.cellPort := rfl
@[simp] theorem enterVblank_mover : (enterVblank s).mover = s.mover := rfl
@[simp] theorem enterVblank_descs : (enterVblank s).descs = s.descs := rfl
@[simp] theorem enterVblank_attrs : (enterVblank s).attrs = s.attrs := rfl
@[simp] theorem enterVblank_patch : (enterVblank s).patch = s.patch := rfl
@[simp] theorem enterVblank_patchValid : (enterVblank s).patchValid = s.patchValid := rfl
@[simp] theorem enterVblank_rows : (enterVblank s).rows = s.rows := rfl
@[simp] theorem enterVblank_array : (enterVblank s).array = s.array := rfl
@[simp] theorem enterVblank_arrPort : (enterVblank s).arrPort = s.arrPort := rfl
@[simp] theorem enterVblank_store : (enterVblank s).store = s.store := rfl
@[simp] theorem enterVblank_svc : (enterVblank s).svc = s.svc := rfl
@[simp] theorem enterVblank_freeCount : (enterVblank s).freeCount = s.freeCount := rfl
@[simp] theorem enterVblank_pending : (enterVblank s).pending = s.pending := rfl

/-! `doSwap` writes `irq`, `scan`. -/

@[simp] theorem doSwap_part : (doSwap s).part = s.part := rfl
@[simp] theorem doSwap_irq : (doSwap s).irq = s.irq.raise .swap := rfl
@[simp] theorem doSwap_win : (doSwap s).win = s.win := rfl
@[simp] theorem doSwap_ctl : (doSwap s).ctl = s.ctl := rfl
@[simp] theorem doSwap_cells : (doSwap s).cells = s.cells := rfl
@[simp] theorem doSwap_cellPort : (doSwap s).cellPort = s.cellPort := rfl
@[simp] theorem doSwap_mover : (doSwap s).mover = s.mover := rfl
@[simp] theorem doSwap_descs : (doSwap s).descs = s.descs := rfl
@[simp] theorem doSwap_attrs : (doSwap s).attrs = s.attrs := rfl
@[simp] theorem doSwap_patch : (doSwap s).patch = s.patch := rfl
@[simp] theorem doSwap_patchValid : (doSwap s).patchValid = s.patchValid := rfl
@[simp] theorem doSwap_rows : (doSwap s).rows = s.rows := rfl
@[simp] theorem doSwap_array : (doSwap s).array = s.array := rfl
@[simp] theorem doSwap_arrPort : (doSwap s).arrPort = s.arrPort := rfl
@[simp] theorem doSwap_store : (doSwap s).store = s.store := rfl
@[simp] theorem doSwap_svc : (doSwap s).svc = s.svc := rfl
@[simp] theorem doSwap_freeCount : (doSwap s).freeCount = s.freeCount := rfl
@[simp] theorem doSwap_pending : (doSwap s).pending = s.pending := rfl

/-! `moverEnd` writes `irq`, `mover`. -/

@[simp] theorem moverEnd_part (st : MvState) : (moverEnd st s).part = s.part := rfl
@[simp] theorem moverEnd_irq (st : MvState) : (moverEnd st s).irq = s.irq.raise .mover := rfl
@[simp] theorem moverEnd_win (st : MvState) : (moverEnd st s).win = s.win := rfl
@[simp] theorem moverEnd_ctl (st : MvState) : (moverEnd st s).ctl = s.ctl := rfl
@[simp] theorem moverEnd_cells (st : MvState) : (moverEnd st s).cells = s.cells := rfl
@[simp] theorem moverEnd_cellPort (st : MvState) : (moverEnd st s).cellPort = s.cellPort := rfl
@[simp] theorem moverEnd_mover (st : MvState) : (moverEnd st s).mover = s.mover.finish st := rfl
@[simp] theorem moverEnd_descs (st : MvState) : (moverEnd st s).descs = s.descs := rfl
@[simp] theorem moverEnd_attrs (st : MvState) : (moverEnd st s).attrs = s.attrs := rfl
@[simp] theorem moverEnd_patch (st : MvState) : (moverEnd st s).patch = s.patch := rfl
@[simp] theorem moverEnd_patchValid (st : MvState) : (moverEnd st s).patchValid = s.patchValid := rfl
@[simp] theorem moverEnd_scan (st : MvState) : (moverEnd st s).scan = s.scan := rfl
@[simp] theorem moverEnd_rows (st : MvState) : (moverEnd st s).rows = s.rows := rfl
@[simp] theorem moverEnd_array (st : MvState) : (moverEnd st s).array = s.array := rfl
@[simp] theorem moverEnd_arrPort (st : MvState) : (moverEnd st s).arrPort = s.arrPort := rfl
@[simp] theorem moverEnd_store (st : MvState) : (moverEnd st s).store = s.store := rfl
@[simp] theorem moverEnd_svc (st : MvState) : (moverEnd st s).svc = s.svc := rfl
@[simp] theorem moverEnd_freeCount (st : MvState) : (moverEnd st s).freeCount = s.freeCount := rfl
@[simp] theorem moverEnd_pending (st : MvState) : (moverEnd st s).pending = s.pending := rfl

/-! `moverStop` writes `cellPort`, `mover`. -/

@[simp] theorem moverStop_part : (moverStop s).part = s.part := rfl
@[simp] theorem moverStop_irq : (moverStop s).irq = s.irq := rfl
@[simp] theorem moverStop_win : (moverStop s).win = s.win := rfl
@[simp] theorem moverStop_ctl : (moverStop s).ctl = s.ctl := rfl
@[simp] theorem moverStop_cells : (moverStop s).cells = s.cells := rfl
@[simp] theorem moverStop_descs : (moverStop s).descs = s.descs := rfl
@[simp] theorem moverStop_attrs : (moverStop s).attrs = s.attrs := rfl
@[simp] theorem moverStop_patch : (moverStop s).patch = s.patch := rfl
@[simp] theorem moverStop_patchValid : (moverStop s).patchValid = s.patchValid := rfl
@[simp] theorem moverStop_scan : (moverStop s).scan = s.scan := rfl
@[simp] theorem moverStop_rows : (moverStop s).rows = s.rows := rfl
@[simp] theorem moverStop_array : (moverStop s).array = s.array := rfl
@[simp] theorem moverStop_arrPort : (moverStop s).arrPort = s.arrPort := rfl
@[simp] theorem moverStop_store : (moverStop s).store = s.store := rfl
@[simp] theorem moverStop_svc : (moverStop s).svc = s.svc := rfl
@[simp] theorem moverStop_freeCount : (moverStop s).freeCount = s.freeCount := rfl
@[simp] theorem moverStop_pending : (moverStop s).pending = s.pending := rfl

/-! `pushResult` writes `irq`, `store`. -/

@[simp] theorem pushResult_part (r : ResultRec) : (pushResult r s).part = s.part := rfl
@[simp] theorem pushResult_irq (r : ResultRec) : (pushResult r s).irq = s.irq.raise .result := rfl
@[simp] theorem pushResult_win (r : ResultRec) : (pushResult r s).win = s.win := rfl
@[simp] theorem pushResult_ctl (r : ResultRec) : (pushResult r s).ctl = s.ctl := rfl
@[simp] theorem pushResult_cells (r : ResultRec) : (pushResult r s).cells = s.cells := rfl
@[simp] theorem pushResult_cellPort (r : ResultRec) : (pushResult r s).cellPort = s.cellPort := rfl
@[simp] theorem pushResult_mover (r : ResultRec) : (pushResult r s).mover = s.mover := rfl
@[simp] theorem pushResult_descs (r : ResultRec) : (pushResult r s).descs = s.descs := rfl
@[simp] theorem pushResult_attrs (r : ResultRec) : (pushResult r s).attrs = s.attrs := rfl
@[simp] theorem pushResult_patch (r : ResultRec) : (pushResult r s).patch = s.patch := rfl
@[simp] theorem pushResult_patchValid (r : ResultRec) : (pushResult r s).patchValid = s.patchValid := rfl
@[simp] theorem pushResult_scan (r : ResultRec) : (pushResult r s).scan = s.scan := rfl
@[simp] theorem pushResult_rows (r : ResultRec) : (pushResult r s).rows = s.rows := rfl
@[simp] theorem pushResult_array (r : ResultRec) : (pushResult r s).array = s.array := rfl
@[simp] theorem pushResult_arrPort (r : ResultRec) : (pushResult r s).arrPort = s.arrPort := rfl
@[simp] theorem pushResult_store (r : ResultRec) :
    (pushResult r s).store = { s.store with results := s.store.results ++ [r], inFlight := none } := rfl
@[simp] theorem pushResult_svc (r : ResultRec) : (pushResult r s).svc = s.svc := rfl
@[simp] theorem pushResult_freeCount (r : ResultRec) : (pushResult r s).freeCount = s.freeCount := rfl
@[simp] theorem pushResult_pending (r : ResultRec) : (pushResult r s).pending = s.pending := rfl

/-! `passSlot` writes `store`. -/

@[simp] theorem passSlot_part (m : MapOp) : (passSlot m s).part = s.part := rfl
@[simp] theorem passSlot_irq (m : MapOp) : (passSlot m s).irq = s.irq := rfl
@[simp] theorem passSlot_win (m : MapOp) : (passSlot m s).win = s.win := rfl
@[simp] theorem passSlot_ctl (m : MapOp) : (passSlot m s).ctl = s.ctl := rfl
@[simp] theorem passSlot_cells (m : MapOp) : (passSlot m s).cells = s.cells := rfl
@[simp] theorem passSlot_cellPort (m : MapOp) : (passSlot m s).cellPort = s.cellPort := rfl
@[simp] theorem passSlot_mover (m : MapOp) : (passSlot m s).mover = s.mover := rfl
@[simp] theorem passSlot_descs (m : MapOp) : (passSlot m s).descs = s.descs := rfl
@[simp] theorem passSlot_attrs (m : MapOp) : (passSlot m s).attrs = s.attrs := rfl
@[simp] theorem passSlot_patch (m : MapOp) : (passSlot m s).patch = s.patch := rfl
@[simp] theorem passSlot_patchValid (m : MapOp) : (passSlot m s).patchValid = s.patchValid := rfl
@[simp] theorem passSlot_scan (m : MapOp) : (passSlot m s).scan = s.scan := rfl
@[simp] theorem passSlot_rows (m : MapOp) : (passSlot m s).rows = s.rows := rfl
@[simp] theorem passSlot_array (m : MapOp) : (passSlot m s).array = s.array := rfl
@[simp] theorem passSlot_arrPort (m : MapOp) : (passSlot m s).arrPort = s.arrPort := rfl
@[simp] theorem passSlot_svc (m : MapOp) : (passSlot m s).svc = s.svc := rfl
@[simp] theorem passSlot_freeCount (m : MapOp) : (passSlot m s).freeCount = s.freeCount := rfl
@[simp] theorem passSlot_pending (m : MapOp) : (passSlot m s).pending = s.pending := rfl

/-! `countErase` writes `store`. -/

@[simp] theorem countErase_part (b : Bank) : (countErase b s).part = s.part := rfl
@[simp] theorem countErase_irq (b : Bank) : (countErase b s).irq = s.irq := rfl
@[simp] theorem countErase_win (b : Bank) : (countErase b s).win = s.win := rfl
@[simp] theorem countErase_ctl (b : Bank) : (countErase b s).ctl = s.ctl := rfl
@[simp] theorem countErase_cells (b : Bank) : (countErase b s).cells = s.cells := rfl
@[simp] theorem countErase_cellPort (b : Bank) : (countErase b s).cellPort = s.cellPort := rfl
@[simp] theorem countErase_mover (b : Bank) : (countErase b s).mover = s.mover := rfl
@[simp] theorem countErase_descs (b : Bank) : (countErase b s).descs = s.descs := rfl
@[simp] theorem countErase_attrs (b : Bank) : (countErase b s).attrs = s.attrs := rfl
@[simp] theorem countErase_patch (b : Bank) : (countErase b s).patch = s.patch := rfl
@[simp] theorem countErase_patchValid (b : Bank) : (countErase b s).patchValid = s.patchValid := rfl
@[simp] theorem countErase_scan (b : Bank) : (countErase b s).scan = s.scan := rfl
@[simp] theorem countErase_rows (b : Bank) : (countErase b s).rows = s.rows := rfl
@[simp] theorem countErase_array (b : Bank) : (countErase b s).array = s.array := rfl
@[simp] theorem countErase_arrPort (b : Bank) : (countErase b s).arrPort = s.arrPort := rfl
@[simp] theorem countErase_svc (b : Bank) : (countErase b s).svc = s.svc := rfl
@[simp] theorem countErase_freeCount (b : Bank) : (countErase b s).freeCount = s.freeCount := rfl
@[simp] theorem countErase_pending (b : Bank) : (countErase b s).pending = s.pending := rfl

/-! `joinWritten` writes `store`. -/

@[simp] theorem joinWritten_part (i : Nat) : (joinWritten i s).part = s.part := rfl
@[simp] theorem joinWritten_irq (i : Nat) : (joinWritten i s).irq = s.irq := rfl
@[simp] theorem joinWritten_win (i : Nat) : (joinWritten i s).win = s.win := rfl
@[simp] theorem joinWritten_ctl (i : Nat) : (joinWritten i s).ctl = s.ctl := rfl
@[simp] theorem joinWritten_cells (i : Nat) : (joinWritten i s).cells = s.cells := rfl
@[simp] theorem joinWritten_cellPort (i : Nat) : (joinWritten i s).cellPort = s.cellPort := rfl
@[simp] theorem joinWritten_mover (i : Nat) : (joinWritten i s).mover = s.mover := rfl
@[simp] theorem joinWritten_descs (i : Nat) : (joinWritten i s).descs = s.descs := rfl
@[simp] theorem joinWritten_attrs (i : Nat) : (joinWritten i s).attrs = s.attrs := rfl
@[simp] theorem joinWritten_patch (i : Nat) : (joinWritten i s).patch = s.patch := rfl
@[simp] theorem joinWritten_patchValid (i : Nat) : (joinWritten i s).patchValid = s.patchValid := rfl
@[simp] theorem joinWritten_scan (i : Nat) : (joinWritten i s).scan = s.scan := rfl
@[simp] theorem joinWritten_rows (i : Nat) : (joinWritten i s).rows = s.rows := rfl
@[simp] theorem joinWritten_array (i : Nat) : (joinWritten i s).array = s.array := rfl
@[simp] theorem joinWritten_arrPort (i : Nat) : (joinWritten i s).arrPort = s.arrPort := rfl
@[simp] theorem joinWritten_svc (i : Nat) : (joinWritten i s).svc = s.svc := rfl
@[simp] theorem joinWritten_freeCount (i : Nat) : (joinWritten i s).freeCount = s.freeCount := rfl
@[simp] theorem joinWritten_pending (i : Nat) : (joinWritten i s).pending = s.pending := rfl

/-! `startFilling` writes `store`. -/

@[simp] theorem startFilling_part : (startFilling s).part = s.part := rfl
@[simp] theorem startFilling_irq : (startFilling s).irq = s.irq := rfl
@[simp] theorem startFilling_win : (startFilling s).win = s.win := rfl
@[simp] theorem startFilling_ctl : (startFilling s).ctl = s.ctl := rfl
@[simp] theorem startFilling_cells : (startFilling s).cells = s.cells := rfl
@[simp] theorem startFilling_cellPort : (startFilling s).cellPort = s.cellPort := rfl
@[simp] theorem startFilling_mover : (startFilling s).mover = s.mover := rfl
@[simp] theorem startFilling_descs : (startFilling s).descs = s.descs := rfl
@[simp] theorem startFilling_attrs : (startFilling s).attrs = s.attrs := rfl
@[simp] theorem startFilling_patch : (startFilling s).patch = s.patch := rfl
@[simp] theorem startFilling_patchValid : (startFilling s).patchValid = s.patchValid := rfl
@[simp] theorem startFilling_scan : (startFilling s).scan = s.scan := rfl
@[simp] theorem startFilling_rows : (startFilling s).rows = s.rows := rfl
@[simp] theorem startFilling_array : (startFilling s).array = s.array := rfl
@[simp] theorem startFilling_arrPort : (startFilling s).arrPort = s.arrPort := rfl
@[simp] theorem startFilling_svc : (startFilling s).svc = s.svc := rfl
@[simp] theorem startFilling_freeCount : (startFilling s).freeCount = s.freeCount := rfl
@[simp] theorem startFilling_pending : (startFilling s).pending = s.pending := rfl

/-! `descriptorWrite` writes `descs`. -/

@[simp] theorem descriptorWrite_part (a : Nat) (v : Byte) : (descriptorWrite a v s).part = s.part := rfl
@[simp] theorem descriptorWrite_irq (a : Nat) (v : Byte) : (descriptorWrite a v s).irq = s.irq := rfl
@[simp] theorem descriptorWrite_win (a : Nat) (v : Byte) : (descriptorWrite a v s).win = s.win := rfl
@[simp] theorem descriptorWrite_ctl (a : Nat) (v : Byte) : (descriptorWrite a v s).ctl = s.ctl := rfl
@[simp] theorem descriptorWrite_cells (a : Nat) (v : Byte) : (descriptorWrite a v s).cells = s.cells := rfl
@[simp] theorem descriptorWrite_cellPort (a : Nat) (v : Byte) : (descriptorWrite a v s).cellPort = s.cellPort := rfl
@[simp] theorem descriptorWrite_mover (a : Nat) (v : Byte) : (descriptorWrite a v s).mover = s.mover := rfl
@[simp] theorem descriptorWrite_descs (a : Nat) (v : Byte) : (descriptorWrite a v s).descs = s.descs.write a v := rfl
@[simp] theorem descriptorWrite_attrs (a : Nat) (v : Byte) : (descriptorWrite a v s).attrs = s.attrs := rfl
@[simp] theorem descriptorWrite_patch (a : Nat) (v : Byte) : (descriptorWrite a v s).patch = s.patch := rfl
@[simp] theorem descriptorWrite_patchValid (a : Nat) (v : Byte) :
    (descriptorWrite a v s).patchValid = s.patchValid := rfl
@[simp] theorem descriptorWrite_scan (a : Nat) (v : Byte) : (descriptorWrite a v s).scan = s.scan := rfl
@[simp] theorem descriptorWrite_rows (a : Nat) (v : Byte) : (descriptorWrite a v s).rows = s.rows := rfl
@[simp] theorem descriptorWrite_array (a : Nat) (v : Byte) : (descriptorWrite a v s).array = s.array := rfl
@[simp] theorem descriptorWrite_arrPort (a : Nat) (v : Byte) : (descriptorWrite a v s).arrPort = s.arrPort := rfl
@[simp] theorem descriptorWrite_store (a : Nat) (v : Byte) : (descriptorWrite a v s).store = s.store := rfl
@[simp] theorem descriptorWrite_svc (a : Nat) (v : Byte) : (descriptorWrite a v s).svc = s.svc := rfl
@[simp] theorem descriptorWrite_freeCount (a : Nat) (v : Byte) :
    (descriptorWrite a v s).freeCount = s.freeCount := rfl
@[simp] theorem descriptorWrite_pending (a : Nat) (v : Byte) : (descriptorWrite a v s).pending = s.pending := rfl

/-! `attributeWrite` writes `attrs`. -/

@[simp] theorem attributeWrite_part (a : Nat) (v : Byte) : (attributeWrite a v s).part = s.part := rfl
@[simp] theorem attributeWrite_irq (a : Nat) (v : Byte) : (attributeWrite a v s).irq = s.irq := rfl
@[simp] theorem attributeWrite_win (a : Nat) (v : Byte) : (attributeWrite a v s).win = s.win := rfl
@[simp] theorem attributeWrite_ctl (a : Nat) (v : Byte) : (attributeWrite a v s).ctl = s.ctl := rfl
@[simp] theorem attributeWrite_cells (a : Nat) (v : Byte) : (attributeWrite a v s).cells = s.cells := rfl
@[simp] theorem attributeWrite_cellPort (a : Nat) (v : Byte) : (attributeWrite a v s).cellPort = s.cellPort := rfl
@[simp] theorem attributeWrite_mover (a : Nat) (v : Byte) : (attributeWrite a v s).mover = s.mover := rfl
@[simp] theorem attributeWrite_descs (a : Nat) (v : Byte) : (attributeWrite a v s).descs = s.descs := rfl
@[simp] theorem attributeWrite_attrs (a : Nat) (v : Byte) : (attributeWrite a v s).attrs = s.attrs.write a v := rfl
@[simp] theorem attributeWrite_patch (a : Nat) (v : Byte) : (attributeWrite a v s).patch = s.patch := rfl
@[simp] theorem attributeWrite_patchValid (a : Nat) (v : Byte) :
    (attributeWrite a v s).patchValid = s.patchValid := rfl
@[simp] theorem attributeWrite_scan (a : Nat) (v : Byte) : (attributeWrite a v s).scan = s.scan := rfl
@[simp] theorem attributeWrite_rows (a : Nat) (v : Byte) : (attributeWrite a v s).rows = s.rows := rfl
@[simp] theorem attributeWrite_array (a : Nat) (v : Byte) : (attributeWrite a v s).array = s.array := rfl
@[simp] theorem attributeWrite_arrPort (a : Nat) (v : Byte) : (attributeWrite a v s).arrPort = s.arrPort := rfl
@[simp] theorem attributeWrite_store (a : Nat) (v : Byte) : (attributeWrite a v s).store = s.store := rfl
@[simp] theorem attributeWrite_svc (a : Nat) (v : Byte) : (attributeWrite a v s).svc = s.svc := rfl
@[simp] theorem attributeWrite_freeCount (a : Nat) (v : Byte) : (attributeWrite a v s).freeCount = s.freeCount := rfl
@[simp] theorem attributeWrite_pending (a : Nat) (v : Byte) : (attributeWrite a v s).pending = s.pending := rfl

/-! `endService` writes `part`, `irq`, `store`. -/

@[simp] theorem endService_irq : (endService s).irq = s.irq.raise .service := rfl
@[simp] theorem endService_win : (endService s).win = s.win := rfl
@[simp] theorem endService_ctl : (endService s).ctl = s.ctl := rfl
@[simp] theorem endService_cells : (endService s).cells = s.cells := rfl
@[simp] theorem endService_cellPort : (endService s).cellPort = s.cellPort := rfl
@[simp] theorem endService_mover : (endService s).mover = s.mover := rfl
@[simp] theorem endService_descs : (endService s).descs = s.descs := rfl
@[simp] theorem endService_attrs : (endService s).attrs = s.attrs := rfl
@[simp] theorem endService_patch : (endService s).patch = s.patch := rfl
@[simp] theorem endService_patchValid : (endService s).patchValid = s.patchValid := rfl
@[simp] theorem endService_scan : (endService s).scan = s.scan := rfl
@[simp] theorem endService_rows : (endService s).rows = s.rows := rfl
@[simp] theorem endService_array : (endService s).array = s.array := rfl
@[simp] theorem endService_arrPort : (endService s).arrPort = s.arrPort := rfl
@[simp] theorem endService_svc : (endService s).svc = s.svc := rfl
@[simp] theorem endService_freeCount : (endService s).freeCount = s.freeCount := rfl
@[simp] theorem endService_pending : (endService s).pending = s.pending := rfl

/-! `lowvReleased` writes `part`. -/

@[simp] theorem lowvReleased_irq : (lowvReleased s).irq = s.irq := rfl
@[simp] theorem lowvReleased_win : (lowvReleased s).win = s.win := rfl
@[simp] theorem lowvReleased_ctl : (lowvReleased s).ctl = s.ctl := rfl
@[simp] theorem lowvReleased_cells : (lowvReleased s).cells = s.cells := rfl
@[simp] theorem lowvReleased_cellPort : (lowvReleased s).cellPort = s.cellPort := rfl
@[simp] theorem lowvReleased_mover : (lowvReleased s).mover = s.mover := rfl
@[simp] theorem lowvReleased_descs : (lowvReleased s).descs = s.descs := rfl
@[simp] theorem lowvReleased_attrs : (lowvReleased s).attrs = s.attrs := rfl
@[simp] theorem lowvReleased_patch : (lowvReleased s).patch = s.patch := rfl
@[simp] theorem lowvReleased_patchValid : (lowvReleased s).patchValid = s.patchValid := rfl
@[simp] theorem lowvReleased_scan : (lowvReleased s).scan = s.scan := rfl
@[simp] theorem lowvReleased_rows : (lowvReleased s).rows = s.rows := rfl
@[simp] theorem lowvReleased_array : (lowvReleased s).array = s.array := rfl
@[simp] theorem lowvReleased_arrPort : (lowvReleased s).arrPort = s.arrPort := rfl
@[simp] theorem lowvReleased_store : (lowvReleased s).store = s.store := rfl
@[simp] theorem lowvReleased_svc : (lowvReleased s).svc = s.svc := rfl
@[simp] theorem lowvReleased_freeCount : (lowvReleased s).freeCount = s.freeCount := rfl
@[simp] theorem lowvReleased_pending : (lowvReleased s).pending = s.pending := rfl

/-! `backToSync` writes `svc`. -/

@[simp] theorem backToSync_part : (backToSync s).part = s.part := rfl
@[simp] theorem backToSync_irq : (backToSync s).irq = s.irq := rfl
@[simp] theorem backToSync_win : (backToSync s).win = s.win := rfl
@[simp] theorem backToSync_ctl : (backToSync s).ctl = s.ctl := rfl
@[simp] theorem backToSync_cells : (backToSync s).cells = s.cells := rfl
@[simp] theorem backToSync_cellPort : (backToSync s).cellPort = s.cellPort := rfl
@[simp] theorem backToSync_mover : (backToSync s).mover = s.mover := rfl
@[simp] theorem backToSync_descs : (backToSync s).descs = s.descs := rfl
@[simp] theorem backToSync_attrs : (backToSync s).attrs = s.attrs := rfl
@[simp] theorem backToSync_patch : (backToSync s).patch = s.patch := rfl
@[simp] theorem backToSync_patchValid : (backToSync s).patchValid = s.patchValid := rfl
@[simp] theorem backToSync_scan : (backToSync s).scan = s.scan := rfl
@[simp] theorem backToSync_rows : (backToSync s).rows = s.rows := rfl
@[simp] theorem backToSync_array : (backToSync s).array = s.array := rfl
@[simp] theorem backToSync_arrPort : (backToSync s).arrPort = s.arrPort := rfl
@[simp] theorem backToSync_store : (backToSync s).store = s.store := rfl
@[simp] theorem backToSync_freeCount : (backToSync s).freeCount = s.freeCount := rfl
@[simp] theorem backToSync_pending : (backToSync s).pending = s.pending := rfl

/-! `toReady` writes `svc`. -/

@[simp] theorem toReady_part : (toReady s).part = s.part := rfl
@[simp] theorem toReady_irq : (toReady s).irq = s.irq := rfl
@[simp] theorem toReady_win : (toReady s).win = s.win := rfl
@[simp] theorem toReady_ctl : (toReady s).ctl = s.ctl := rfl
@[simp] theorem toReady_cells : (toReady s).cells = s.cells := rfl
@[simp] theorem toReady_cellPort : (toReady s).cellPort = s.cellPort := rfl
@[simp] theorem toReady_mover : (toReady s).mover = s.mover := rfl
@[simp] theorem toReady_descs : (toReady s).descs = s.descs := rfl
@[simp] theorem toReady_attrs : (toReady s).attrs = s.attrs := rfl
@[simp] theorem toReady_patch : (toReady s).patch = s.patch := rfl
@[simp] theorem toReady_patchValid : (toReady s).patchValid = s.patchValid := rfl
@[simp] theorem toReady_scan : (toReady s).scan = s.scan := rfl
@[simp] theorem toReady_rows : (toReady s).rows = s.rows := rfl
@[simp] theorem toReady_array : (toReady s).array = s.array := rfl
@[simp] theorem toReady_arrPort : (toReady s).arrPort = s.arrPort := rfl
@[simp] theorem toReady_store : (toReady s).store = s.store := rfl
@[simp] theorem toReady_freeCount : (toReady s).freeCount = s.freeCount := rfl
@[simp] theorem toReady_pending : (toReady s).pending = s.pending := rfl

end Sys2Proof.Machine
end

