-- ==== Sys2Proof/Laws/StoreFrame.lean ====
section
/-! SUPPORT. What the store engine's work leaves alone: everything but the interrupt flags, the store, the service port, the
array port and the display map. -/

namespace Sys2Proof.Machine

/-- `t` differs from `s` in the interrupt unit, the store, the service port, the array port and the display map alone. -/
structure StoreSide (s t : State) : Prop where
  part : t.part = s.part
  win : t.win = s.win
  ctl : t.ctl = s.ctl
  cells : t.cells = s.cells
  cellPort : t.cellPort = s.cellPort
  mover : t.mover = s.mover
  descs : t.descs = s.descs
  attrs : t.attrs = s.attrs
  patch : t.patch = s.patch
  patchValid : t.patchValid = s.patchValid
  scan : t.scan = { s.scan with displayMap := t.scan.displayMap }
  rows : t.rows = s.rows
  array : t.array = s.array
  freeCount : t.freeCount = s.freeCount
  pending : t.pending = s.pending

theorem StoreSide.refl (s : State) : StoreSide s s := by constructor <;> rfl

theorem StoreSide.trans {s t u : State} (h : StoreSide s t) (k : StoreSide t u) : StoreSide s u := by
  constructor
  case scan => rw [k.scan, h.scan]
  all_goals first
    | exact k.part.trans h.part
    | exact k.win.trans h.win
    | exact k.ctl.trans h.ctl
    | exact k.cells.trans h.cells
    | exact k.cellPort.trans h.cellPort
    | exact k.mover.trans h.mover
    | exact k.descs.trans h.descs
    | exact k.attrs.trans h.attrs
    | exact k.patch.trans h.patch
    | exact k.patchValid.trans h.patchValid
    | exact k.rows.trans h.rows
    | exact k.array.trans h.array
    | exact k.freeCount.trans h.freeCount
    | exact k.pending.trans h.pending

/-- A record update of those fields. -/
theorem StoreSide.of (s : State) (q : Interrupts) (p : ArrayPort) (st : Store) (v : Service) :
    StoreSide s { s with irq := q, arrPort := p, store := st, svc := v } := by constructor <;> rfl

theorem storeSide_raise (f : Flag) (s : State) : StoreSide s (raise f s) := .of s _ _ _ _

theorem storeSide_withFlight (f : InFlight → InFlight) (s : State) : StoreSide s (s.withFlight f) := .of s _ _ _ _

theorem storeSide_withSvc (f : Service → Service) (s : State) : StoreSide s (s.withSvc f) := .of s _ _ _ _

theorem storeSide_arrayGrant (s : State) : StoreSide s (arrayGrant s) := by
  unfold arrayGrant
  split
  · exact .refl s
  · exact .of s _ _ _ _
  · split
    · exact .of s _ _ _ _
    · exact .refl s
  · exact .refl s

theorem storeSide_storeRequest (r : StoreReq) (s : State) : StoreSide s (storeRequest r s) := by
  unfold storeRequest
  split
  · exact .of s _ _ _ _
  · exact (StoreSide.of s _ _ _ _).trans (storeSide_arrayGrant _)

theorem storeSide_ackHalt (s : State) : StoreSide s (ackHalt s) := by
  unfold ackHalt
  split
  · exact .of s _ _ _ _
  · exact .refl s

theorem storeSide_queueItem (it : TxItem) (s : State) : StoreSide s (queueItem it s) := by
  unfold queueItem
  split
  · exact .of s _ _ _ _
  · exact .of s _ _ _ _
  · dsimp only
    split
    · exact (StoreSide.of s _ _ _ _).trans (storeSide_ackHalt _)
    · exact .of s _ _ _ _

theorem storeSide_queueN (e : ErrCode) (k : Bool) (s : State) : StoreSide s (queueN e k s) :=
  (StoreSide.of s _ _ _ _).trans (storeSide_queueItem _ _)

theorem storeSide_queueK (pl : List Byte) (k : Bool) (s : State) : StoreSide s (queueK pl k s) :=
  storeSide_queueItem _ _

theorem storeSide_qspaceFrom (old : List CmdEntry) (s : State) : StoreSide s (qspaceFrom old s) := by
  unfold qspaceFrom
  split
  · exact storeSide_raise _ _
  · exact .refl s

theorem storeSide_startHead (s : State) : StoreSide s (startHead s) := by
  unfold startHead
  split
  · exact .refl s
  · exact .of s _ _ _ _
  · split
    · exact (StoreSide.of s _ _ _ _).trans (storeSide_qspaceFrom _ _)
    · exact .of s _ _ _ _

theorem storeSide_startIfDue (s : State) : StoreSide s (startIfDue s) := by
  unfold startIfDue
  split
  · exact storeSide_startHead s
  · exact .refl s

theorem storeSide_enqueue (who : Submitter) (k : Byte) (b : CmdBody) (s : State) : StoreSide s (enqueue who k b s) :=
  (StoreSide.of s _ _ _ _).trans (storeSide_startIfDue _)

theorem storeSide_discardQueue (s : State) : StoreSide s (discardQueue s) :=
  (StoreSide.of s _ _ _ _).trans (storeSide_qspaceFrom _ _)

theorem storeSide_pushResult (r : ResultRec) (s : State) : StoreSide s (pushResult r s) := .of s _ _ _ _

theorem storeSide_loaderTakes (r : ResultRec) (s : State) : StoreSide s (loaderTakes r s) := by
  unfold loaderTakes
  split
  · exact .refl s
  · split
    · dsimp only
      have h := (StoreSide.of s s.irq s.arrPort { s.store with results := s.store.results.dropLast }
        { s.svc with outstanding := none }).trans (storeSide_startIfDue _)
      split
      · exact h.trans (storeSide_ackHalt _)
      · exact h
      · exact (h.trans (.of _ _ _ _ _)).trans (storeSide_queueK _ _ _)
      · exact (h.trans (.of _ _ _ _ _)).trans (storeSide_queueN _ _ _)
      · exact h.trans (.of _ _ _ _ _)
    · exact .refl s

theorem storeSide_endDone (p : Option Bank) (d c : Word16) (i : List Byte) (s : State) :
    StoreSide s (endDone p d c i s) := by
  unfold endDone
  split
  · exact .refl s
  · exact ((storeSide_pushResult _ _).trans (storeSide_startHead _)).trans (storeSide_loaderTakes _ _)

theorem storeSide_endFailed (e : ErrCode) (p : Option Bank) (d : Word16) (s : State) :
    StoreSide s (endFailed e p d s) := by
  unfold endFailed
  split
  · exact .refl s
  · exact (((storeSide_pushResult _ _).trans (storeSide_discardQueue _)).trans
      ((StoreSide.of _ _ _ _ _).trans (storeSide_raise _ _))).trans (storeSide_loaderTakes _ _)

theorem storeSide_endAborted (p : Option Bank) (s : State) : StoreSide s (endAborted p s) := by
  unfold endAborted
  split
  · exact .refl s
  · exact ((storeSide_pushResult _ _).trans (storeSide_discardQueue _)).trans (.of _ _ _ _ _)

theorem storeSide_setRole (b : Bank) (r : Role) (s : State) : StoreSide s (s.setRole b r) := .of s _ _ _ _

theorem storeSide_setEngine (e : Engine) (w : WaitReason) (s : State) : StoreSide s (s.setEngine e w) := .of s _ _ _ _

theorem storeSide_closeStaging (r : Role) (s : State) : StoreSide s (closeStaging r s) := by
  unfold closeStaging
  split
  · exact .refl s
  · exact .of s _ _ _ _

theorem storeSide_passSlot (m : MapOp) (s : State) : StoreSide s (passSlot m s) := .of s _ _ _ _

theorem storeSide_cutEffects (f : InFlight) (s : State) : StoreSide s (cutEffects f s) := by
  have h : StoreSide s (cutMapWrite f s) := by
    unfold cutMapWrite
    split
    · split
      · exact storeSide_passSlot _ _
      · exact .refl s
    · exact .refl s
  unfold cutEffects
  split <;> first | exact storeSide_closeStaging _ _ | exact h | exact .refl s

theorem storeSide_cutBySupply (s : State) : StoreSide s (cutBySupply s) := by
  unfold cutBySupply
  split
  · exact .refl s
  · split <;> exact (storeSide_cutEffects _ _).trans (storeSide_endFailed _ _ _ _)

theorem storeSide_presentPulse (r : StoreReq) (s : State) : StoreSide s (presentPulse r s) := by
  unfold presentPulse
  split
  · exact storeSide_cutBySupply s
  · exact storeSide_storeRequest r s

theorem storeSide_presentDeferred (s : State) : StoreSide s (presentDeferred s) := by
  unfold presentDeferred
  split
  · exact .refl s
  · dsimp only
    split
    · exact (StoreSide.of s _ _ _ _).trans (storeSide_storeRequest _ _)
    · exact (StoreSide.of s _ _ _ _).trans (storeSide_presentPulse _ _)
    · exact (StoreSide.of s _ _ _ _).trans (storeSide_presentPulse _ _)

theorem storeSide_startProg (u : ArrUnit) (l : List Byte) (n : Nat) (s : State) : StoreSide s (startProg u l n s) := by
  unfold startProg
  dsimp only
  split
  · exact storeSide_withFlight _ _
  · exact (storeSide_withFlight _ _).trans (storeSide_presentPulse _ _)

theorem storeSide_startPrewrite (u : EraseUnit) (k : Nat) (s : State) : StoreSide s (startPrewrite u k s) :=
  (storeSide_withFlight _ _).trans (storeSide_startProg _ _ _ _)

theorem storeSide_startSubPulse (e : EraseOp) (s : State) : StoreSide s (startSubPulse e s) :=
  (storeSide_withFlight _ _).trans (storeSide_presentPulse _ _)

theorem storeSide_startSlot (m : MapOp) (ar : Area) (n : Fin 8) (s : State) : StoreSide s (startSlot m ar n s) :=
  (storeSide_withFlight _ _).trans (storeSide_startProg _ _ _ _)

theorem storeSide_startMarker (m : MapOp) (n : Nat) (s : State) : StoreSide s (startMarker m n s) :=
  (storeSide_withFlight _ _).trans (storeSide_startProg _ _ _ _)

theorem storeSide_mapFails (d : Word16) (s : State) : StoreSide s (mapFails d s) := by
  unfold mapFails
  split
  · exact .refl s
  · split <;> exact storeSide_endFailed _ _ _ _

theorem storeSide_chooseSlot (m : MapOp) (s : State) : StoreSide s (chooseSlot m s) := by
  unfold chooseSlot
  split
  · exact storeSide_startSlot _ _ _ _
  · exact (storeSide_withFlight _ _).trans (storeSide_startPrewrite _ _ _)

theorem storeSide_startMapWrite (v : Vector Bank 14) (w : Word16) (s : State) : StoreSide s (startMapWrite v w s) := by
  unfold startMapWrite
  split
  · exact storeSide_mapFails _ _
  · exact storeSide_chooseSlot _ _

theorem storeSide_slotFails (m : MapOp) (s : State) : StoreSide s (slotFails m s) := by
  unfold slotFails
  dsimp only
  split
  · exact (storeSide_passSlot _ _).trans (storeSide_mapFails _ _)
  · exact ((storeSide_passSlot _ _).trans (storeSide_withFlight _ _)).trans (storeSide_chooseSlot _ _)

theorem storeSide_copyStoreMap (s : State) : StoreSide s (copyStoreMap s) := by constructor <;> rfl

theorem storeSide_commitChanges (g : Staging) (s : State) : StoreSide s (commitChanges g s) := by
  unfold commitChanges
  dsimp only
  split
  · exact .of s _ _ _ _
  · exact (StoreSide.of s _ _ _ _).trans (storeSide_copyStoreMap _)

theorem storeSide_mapSucceeds (m : MapOp) (s : State) : StoreSide s (mapSucceeds m s) := by
  have h : StoreSide s { s with store := { s.store with journal := s.store.journal.written m } } := .of s _ _ _ _
  unfold mapSucceeds
  dsimp only
  split
  · split
    · exact h.trans (storeSide_endFailed _ _ _ _)
    · exact (h.trans (storeSide_commitChanges _ _)).trans (storeSide_endDone _ _ _ _ _)
    · exact h
  · exact h

theorem storeSide_retireBank (b : Bank) (c : Byte) (s : State) : StoreSide s (retireBank b c s) :=
  (((storeSide_setRole b .retired s).trans (storeSide_raise _ _)).trans (storeSide_withFlight _ _)).trans
    (storeSide_startMapWrite _ _ _)

theorem storeSide_eraseFails (e : EraseOp) (c : Byte) (s : State) : StoreSide s (eraseFails e c s) := by
  unfold eraseFails
  split
  · exact storeSide_retireBank _ _ _
  · exact storeSide_mapFails _ _

theorem storeSide_openStaging (b : Bank) (l : Logical) (n : Nat) (s : State) : StoreSide s (openStaging b l n s) :=
  (StoreSide.of s _ _ _ _).trans (storeSide_endDone _ _ _ _ _)

theorem storeSide_bankErased (b : Bank) (e : EraseOp) (s : State) : StoreSide s (bankErased b e s) := by
  have h : StoreSide s (countErase b s) := .of s _ _ _ _
  unfold bankErased
  dsimp only
  split
  · exact h
  · split
    · split
      · exact h.trans (storeSide_openStaging _ _ _ _)
      · exact h
    · exact (h.trans (storeSide_setRole _ _ _)).trans (storeSide_endDone _ _ _ _ _)

theorem storeSide_areaErased (ar : Area) (s : State) : StoreSide s (areaErased ar s) := by
  unfold areaErased
  split
  · exact .refl s
  · exact (StoreSide.of s _ _ _ _).trans (storeSide_startSlot _ _ _ _)

theorem storeSide_eraseVerified (e : EraseOp) (raw : List Byte) (s : State) : StoreSide s (eraseVerified e raw s) := by
  unfold eraseVerified
  split
  · split
    · exact (storeSide_withFlight _ _).trans (storeSide_startProg _ _ _ _)
    · exact storeSide_areaErased _ _
  · split
    · exact storeSide_startSubPulse _ _
    · exact storeSide_withFlight _ _

theorem storeSide_cloneFrom (i n : Nat) (s : State) : StoreSide s (cloneFrom i n s) := by
  unfold cloneFrom
  split
  · split
    · exact (storeSide_withFlight _ _).trans (storeSide_storeRequest _ _)
    · exact storeSide_endDone _ _ _ _ _
  · exact .refl s

theorem storeSide_cloneDone (i n p : Nat) (s : State) : StoreSide s (cloneDone i n p s) :=
  (StoreSide.of s _ _ _ _).trans (storeSide_cloneFrom _ _ _)

theorem storeSide_programDone (p : Nat) (s : State) : StoreSide s (programDone p s) := by
  unfold programDone
  split
  · exact .refl s
  · exact (StoreSide.of s _ _ _ _).trans (storeSide_endDone _ _ _ _ _)

theorem storeSide_writeGlyph (b : Bank) (g : Nat) (raw : List Byte) (k : State → State) (s : State)
    (h : StoreSide s (k s)) : StoreSide s (writeGlyph b g raw k s) := by
  unfold writeGlyph
  split
  · exact h
  · exact storeSide_startProg _ _ _ _

theorem storeSide_cloneProgram (i n : Nat) (raw : List Byte) (s : State) : StoreSide s (cloneProgram i n raw s) := by
  unfold cloneProgram
  split
  · exact .refl s
  · exact storeSide_writeGlyph _ _ _ _ _ (storeSide_cloneDone _ _ _ _)

theorem storeSide_eraseProgDone (e : EraseOp) (s : State) : StoreSide s (eraseProgDone e s) := by
  unfold eraseProgDone
  split
  · split
    · exact storeSide_startPrewrite _ _ _
    · exact storeSide_startSubPulse _ _
  · split
    · exact storeSide_bankErased _ _ _
    · exact .refl s
  all_goals exact .refl s

theorem storeSide_progDone (f : InFlight) (p : ProgOp) (s : State) : StoreSide s (progDone f p s) := by
  refine (storeSide_withFlight (fun f => { f with prog := none }) s).trans ?_
  unfold progDone
  dsimp only
  split
  · exact storeSide_eraseProgDone _ _
  · split
    · exact storeSide_startMarker _ _ _
    · exact storeSide_mapSucceeds _ _
  · split
    · exact storeSide_cloneDone _ _ _ _
    · exact storeSide_programDone _ _

theorem storeSide_progVerified (f : InFlight) (p : ProgOp) (raw : List Byte) (s : State) :
    StoreSide s (progVerified f p raw s) := by
  unfold progVerified
  dsimp only
  split
  · exact storeSide_progDone _ _ _
  · split
    · exact (storeSide_withFlight _ _).trans (storeSide_presentPulse _ _)
    · exact storeSide_withFlight _ _

theorem storeSide_progFails (f : InFlight) (s : State) : StoreSide s (progFails f s) := by
  unfold progFails
  split
  · unfold eraseProgFails
    split <;> first | exact storeSide_eraseFails _ _ _ | exact .refl s
  · exact storeSide_slotFails _ _
  · split <;> exact (storeSide_closeStaging _ _).trans (storeSide_endFailed _ _ _ _)

/-! ## The commands -/

theorem storeSide_beginChoice (l : Logical) (s : State) : StoreSide s (beginChoice l s) := by
  unfold beginChoice
  split
  · exact (storeSide_setEngine _ _ _).trans (storeSide_openStaging _ _ _ _)
  · exact ((storeSide_setEngine _ _ _).trans (storeSide_withFlight _ _)).trans (storeSide_startPrewrite _ _ _)
  · exact (storeSide_setEngine _ _ _).trans (storeSide_withFlight _ _)
  · exact storeSide_endFailed _ _ _ _

theorem storeSide_stepBegin (s : State) : StoreSide s (stepBegin s) := by
  unfold stepBegin
  split
  · split
    · exact storeSide_endFailed _ _ _ _
    · split
      · exact storeSide_endFailed _ _ _ _
      · exact storeSide_beginChoice _ _
  · exact .refl s

theorem storeSide_stepChooseAgain (s : State) : StoreSide s (stepChooseAgain s) := by
  unfold stepChooseAgain
  split
  · split
    · split
      · exact .refl s
      · exact storeSide_beginChoice _ _
    · exact .refl s
  · exact .refl s

theorem storeSide_stepClone (s : State) : StoreSide s (stepClone s) := by
  unfold stepClone
  split
  · split
    · exact storeSide_endFailed _ _ _ _
    · split
      · exact storeSide_endFailed _ _ _ _
      · exact (StoreSide.of s _ _ _ _).trans (storeSide_cloneFrom _ _ _)
  · exact .refl s

theorem storeSide_stepProgram (s : State) : StoreSide s (stepProgram s) := by
  unfold stepProgram
  split
  · split
    · exact storeSide_endFailed _ _ _ _
    · split
      · exact storeSide_endFailed _ _ _ _
      · split
        · exact storeSide_endFailed _ _ _ _
        · exact (StoreSide.of s _ _ _ _).trans (storeSide_writeGlyph _ _ _ _ _ (storeSide_programDone _ _))
  · exact .refl s

theorem storeSide_stepCommit (s : State) : StoreSide s (stepCommit s) := by
  unfold stepCommit
  split
  · split
    · exact storeSide_endFailed _ _ _ _
    · exact (storeSide_withFlight _ _).trans (storeSide_startMapWrite _ _ _)
  · exact .refl s

theorem storeSide_stepAbandon (s : State) : StoreSide s (stepAbandon s) := by
  unfold stepAbandon
  split
  · split
    · exact storeSide_endFailed _ _ _ _
    · exact (storeSide_closeStaging _ _).trans (storeSide_endDone _ _ _ _ _)
  · exact .refl s

theorem storeSide_stepScrub (s : State) : StoreSide s (stepScrub s) := by
  unfold stepScrub
  split
  · split
    · exact storeSide_endDone _ _ _ _ _
    · exact (storeSide_withFlight _ _).trans (storeSide_startPrewrite _ _ _)
  · exact .refl s

theorem storeSide_stepReadglyph (s : State) : StoreSide s (stepReadglyph s) := by
  unfold stepReadglyph
  split
  · split
    · exact (storeSide_withFlight _ _).trans (storeSide_storeRequest _ _)
    · exact storeSide_endFailed _ _ _ _
  · exact .refl s

theorem storeSide_stepCheck (s : State) : StoreSide s (stepCheck s) := by
  unfold stepCheck
  split
  · split
    · exact storeSide_endFailed _ _ _ _
    · exact (storeSide_withFlight _ _).trans (storeSide_storeRequest _ _)
  · exact .refl s

theorem storeSide_stepBadKind (s : State) : StoreSide s (stepBadKind s) := by
  unfold stepBadKind
  split
  · exact storeSide_endFailed _ _ _ _
  · exact .refl s

theorem storeSide_storeReadDone (raw : List Byte) (s : State) : StoreSide s (storeReadDone raw s) := by
  unfold storeReadDone
  split
  · unfold scanRead
    dsimp only
    split
    · exact (StoreSide.of s _ _ _ _).trans (storeSide_storeRequest _ _)
    · exact .of s _ _ _ _
  · unfold flightRead
    split
    · split
      · exact storeSide_progVerified _ _ _ _
      · exact .refl s
    · split
      · exact storeSide_eraseVerified _ _ _
      · exact .refl s
    · exact storeSide_cloneProgram _ _ _ _
    · exact storeSide_endDone _ _ _ _ _
    · unfold checkRead
      dsimp only
      split
      · exact (storeSide_withFlight _ _).trans (storeSide_storeRequest _ _)
      · exact storeSide_endDone _ _ _ _ _
    · exact .refl s
  · exact .refl s

theorem storeSide_pulseLimitReached (s : State) : StoreSide s (pulseLimitReached s) := by
  unfold pulseLimitReached
  split
  · split
    · split
      · exact storeSide_progFails _ _
      · exact .refl s
    · exact .refl s
  · exact .refl s

theorem storeSide_subpulseBudgetSpent (s : State) : StoreSide s (subpulseBudgetSpent s) := by
  unfold subpulseBudgetSpent
  split
  · split
    · exact storeSide_eraseFails _ _ _
    · exact .refl s
  · exact .refl s

/-! ## The service port -/

theorem storeSide_actRecord (r : Record) (s : State) : StoreSide s (actRecord r s) := by
  unfold actRecord
  split
  · unfold submitRecord
    split
    · exact (storeSide_withSvc _ _).trans (storeSide_enqueue _ _ _ _)
    · exact (storeSide_withSvc _ _).trans (storeSide_queueN _ _ _)
    · exact (storeSide_withSvc _ _).trans (storeSide_queueN _ _ _)
    · exact storeSide_withSvc _ _
  · split
    · exact storeSide_withSvc _ _
    · split
      · exact (storeSide_withSvc _ _).trans (storeSide_queueK _ _ _)
      · unfold answerE
        split
        · exact (storeSide_withSvc _ _).trans (storeSide_queueN _ _ _)
        · exact (storeSide_withSvc _ _).trans (storeSide_queueK _ _ _)

theorem storeSide_startUpScanEnd (s : State) : StoreSide s (startUpScanEnd s) := by
  unfold startUpScanEnd
  split
  · rename_i p _
    have h : StoreSide s (finishScan p s) := by
      have h1 := ((StoreSide.of s s.irq s.arrPort
        { s.store with
          storeMap := (adoptedRecord p.slots).map
          roles := scannedRoles (adoptedRecord p.slots).map (adoptedRecord p.slots).mask p.headers
          journal := scannedJournal p.slots, staging := none, scan := none, engine := .idle, wait := .none }
        s.svc).trans (storeSide_copyStoreMap _)).trans (storeSide_startHead _)
      unfold finishScan
      dsimp only
      split
      · exact h1.trans (storeSide_raise _ _)
      · exact (h1.trans (storeSide_raise _ _)).trans (storeSide_raise _ _)
    unfold actStartupWait
    split
    · exact (h.trans (storeSide_withSvc _ _)).trans (storeSide_actRecord _ _)
    · exact h
  · exact .refl s

end Sys2Proof.Machine
end

