-- ==== Sys2Proof/Laws/Flags.lean ====
section
/-! SUPPORT. The interrupt flags: what setting one does to each. -/

namespace Sys2Proof.Machine

theorem setBit_getLsbD {n : Nat} (w : BitVec n) (i j : Nat) (h : j < n) :
    (setBit w i).getLsbD j = (decide (i = j) || w.getLsbD j) := by
  unfold setBit
  rw [BitVec.getLsbD_or, BitVec.getLsbD_shiftLeft, BitVec.getLsbD_ofNat]
  rcases Nat.lt_trichotomy i j with hij | rfl | hij
  · have h1 : Nat.testBit 1 (j - i) = false := by
      rw [show j - i = (j - i - 1) + 1 by omega]
      simp [Nat.testBit_succ]
    simp [h1, show i ≠ j by omega]
  · simp [h, show 0 < n by omega]
  · simp [hij, show i ≠ j by omega]

/-- Setting a flag sets that flag and no other. -/
theorem isSet_raise (q : Interrupts) (f g : Flag) : (q.raise f).isSet g = (decide (f = g) || q.isSet g) := by
  have h : (decide (f = g) || q.isSet g) =
      if f.second = g.second then (decide (f.bit = g.bit) || q.isSet g) else q.isSet g := by
    cases f <;> cases g <;> rfl
  have hb : g.bit < 8 := by cases g <;> decide
  rw [h]
  unfold Interrupts.raise Interrupts.isSet
  cases f.second <;> cases g.second <;> simp only [if_true, Bool.false_eq_true, Bool.true_eq_false, if_false] <;>
    exact setBit_getLsbD _ _ _ hb

@[simp] theorem isSet_raise_self (q : Interrupts) (f : Flag) : (q.raise f).isSet f = true := by simp [isSet_raise]

/-- A set flag stays set when another is set. -/
theorem isSet_raise_of {q : Interrupts} {f : Flag} (g : Flag) (h : q.isSet f = true) : (q.raise g).isSet f = true := by
  simp [isSet_raise, h]

@[simp] theorem raise_ien0 (q : Interrupts) (f : Flag) : (q.raise f).ien0 = q.ien0 := by
  unfold Interrupts.raise; split <;> rfl

@[simp] theorem raise_ien1 (q : Interrupts) (f : Flag) : (q.raise f).ien1 = q.ien1 := by
  unfold Interrupts.raise; split <;> rfl

end Sys2Proof.Machine
end

