-- ==== Sys2Proof/Laws/StoreQueue.lean ====
section
/-! SUPPORT. The ends of store commands: what a push, a completion, a failure and a start leave. -/

namespace Sys2Proof.Machine

/-! ## What the queue operations keep -/

/-- The parts of the store that the ends of commands and the starts leave alone. -/
structure Store.SameRest (a b : Store) : Prop where
  seq : b.seq = a.seq
  owner : b.owner = a.owner
  staging : b.staging = a.staging
  storeMap : b.storeMap = a.storeMap
  roles : b.roles = a.roles
  journal : b.journal = a.journal
  scan : b.scan = a.scan
  comp : b.comp = a.comp
  compSeq : b.compSeq = a.compSeq

theorem Store.SameRest.refl (a : Store) : a.SameRest a := by constructor <;> rfl

theorem Store.SameRest.trans {a b c : Store} (h : a.SameRest b) (k : b.SameRest c) : a.SameRest c :=
  ⟨k.seq.trans h.seq, k.owner.trans h.owner, k.staging.trans h.staging, k.storeMap.trans h.storeMap,
    k.roles.trans h.roles, k.journal.trans h.journal, k.scan.trans h.scan, k.comp.trans h.comp,
    k.compSeq.trans h.compSeq⟩

@[simp] theorem qspaceFrom_store (old : List CmdEntry) (s : State) : (qspaceFrom old s).store = s.store := by
  unfold qspaceFrom; split <;> rfl

@[simp] theorem qspaceFrom_svc (old : List CmdEntry) (s : State) : (qspaceFrom old s).svc = s.svc := by
  unfold qspaceFrom; split <;> rfl

@[simp] theorem qspaceFrom_arrPort (old : List CmdEntry) (s : State) : (qspaceFrom old s).arrPort = s.arrPort := by
  unfold qspaceFrom; split <;> rfl

theorem qspaceFrom_isSet {old : List CmdEntry} {s : State} (f : Flag) (h : s.irq.isSet f = true) :
    (qspaceFrom old s).irq.isSet f = true := by
  unfold qspaceFrom; split
  · exact isSet_raise_of _ h
  · exact h

theorem startHead_sameRest (s : State) : s.store.SameRest (startHead s).store := by
  unfold startHead
  split
  · exact .refl _
  · exact ⟨rfl, rfl, rfl, rfl, rfl, rfl, rfl, rfl, rfl⟩
  · split
    · rw [qspaceFrom_store]; exact ⟨rfl, rfl, rfl, rfl, rfl, rfl, rfl, rfl, rfl⟩
    · exact ⟨rfl, rfl, rfl, rfl, rfl, rfl, rfl, rfl, rfl⟩

@[simp] theorem startHead_svc (s : State) : (startHead s).svc = s.svc := by
  unfold startHead
  split
  · rfl
  · rfl
  · split
    · rw [qspaceFrom_svc]
    · rfl

@[simp] theorem startHead_arrPort (s : State) : (startHead s).arrPort = s.arrPort := by
  unfold startHead
  split
  · rfl
  · rfl
  · split
    · rw [qspaceFrom_arrPort]
    · rfl

@[simp] theorem startHead_results (s : State) : (startHead s).store.results = s.store.results := by
  unfold startHead
  split
  · rfl
  · rfl
  · split
    · rw [qspaceFrom_store]
    · rfl

theorem startHead_isSet {s : State} (f : Flag) (h : s.irq.isSet f = true) : (startHead s).irq.isSet f = true := by
  unfold startHead
  split
  · exact h
  · exact h
  · split
    · exact qspaceFrom_isSet f h
    · exact h

@[simp] theorem discardQueue_svc (s : State) : (discardQueue s).svc = s.svc := by
  unfold discardQueue; rw [qspaceFrom_svc]

@[simp] theorem discardQueue_arrPort (s : State) : (discardQueue s).arrPort = s.arrPort := by
  unfold discardQueue; rw [qspaceFrom_arrPort]

@[simp] theorem discardQueue_store (s : State) : (discardQueue s).store = { s.store with queue := [] } := by
  unfold discardQueue; rw [qspaceFrom_store]

/-- A start with nothing in flight and the queue empty. -/
theorem startHead_empty {s : State} (h : s.store.inFlight = none) (hq : s.store.queue = []) :
    startHead s = { s with store := { s.store with engine := .idle, wait := .none } } := by
  unfold startHead; rw [h, hq]

/-- A start of the head command with a free place. -/
theorem startHead_head {s : State} {e : CmdEntry} {q : List CmdEntry} (h : s.store.inFlight = none)
    (hq : s.store.queue = e :: q) (hr : s.store.results.length < 4) :
    startHead s =
      { s with
        irq := if q.length = 3 then s.irq.raise .qspace else s.irq
        store := { s.store with
          engine := .running, wait := .none, queue := q
          inFlight := some { entry := e, stage := .fresh, prog := none, erase := none, mapw := none } } } := by
  unfold startHead
  rw [h, hq]
  simp only [if_pos hr, qspaceFrom, List.length_cons, Nat.reduceEqDiff]
  split <;> rfl

/-- A start that waits for a place. -/
theorem startHead_full {s : State} (h : s.store.inFlight = none) (hq : s.store.queue ≠ [])
    (hr : 4 ≤ s.store.results.length) :
    startHead s = { s with store := { s.store with engine := .waiting, wait := .resultSpace } } := by
  unfold startHead
  rw [h]
  rcases hq' : s.store.queue with _ | ⟨e, q⟩
  · exact absurd hq' hq
  · simp only [if_neg (Nat.not_lt.2 hr)]

/-! ## The ends of commands -/

/-- With no outstanding command of the loader, a push leaves the results to the host. -/
theorem loaderTakes_none {s : State} (r : ResultRec) (h : s.svc.outstanding = none) : loaderTakes r s = s := by
  unfold loaderTakes; rw [h]

theorem endDone_eq {s : State} {f : InFlight} (p : Option Bank) (d c : Word16) (i : List Byte)
    (h : s.store.inFlight = some f) (ho : s.svc.outstanding = none) :
    endDone p d c i s = startHead (pushResult (makeResult s f .done .none p 0 d c i) s) := by
  unfold endDone
  rw [h]
  exact loaderTakes_none _ (by simpa using ho)

theorem endFailed_eq {s : State} {f : InFlight} (e : ErrCode) (p : Option Bank) (d : Word16)
    (h : s.store.inFlight = some f) (ho : s.svc.outstanding = none) :
    endFailed e p d s =
      raise .halt ((discardQueue (pushResult (makeResult s f .failed e p s.store.queue.length d 0 noImage) s)).setEngine
        .halted .none) := by
  unfold endFailed
  rw [h]
  exact loaderTakes_none _ (by simpa using ho)

/-- A completed command: DONE is pushed and the next head starts if it can. -/
theorem endDone_completes {s : State} {f : InFlight} (p : Option Bank) (d c : Word16) (i : List Byte)
    (h : s.store.inFlight = some f) (ho : s.svc.outstanding = none) : s.completes (endDone p d c i s) f p d c i := by
  rw [endDone_eq p d c i h ho]
  have hr := startHead_sameRest (pushResult (makeResult s f .done .none p 0 d c i) s)
  refine ⟨⟨_, ⟨startHead_results _, startHead_isSet _ (by simp), rfl, rfl, rfl, ?_, ?_, ?_⟩, rfl, rfl, rfl, rfl, rfl,
    rfl, rfl⟩, ?_, ?_, ?_⟩
  · rw [hr.journal]; rfl
  · rintro b hb
    rw [hr.roles]
    subst hb
    exact ⟨rfl, rfl⟩
  · rintro hb
    have : p = none := hb
    subst this
    exact ⟨rfl, rfl⟩
  · intro hq
    rw [startHead_empty (by simp) (by simpa using hq)]
    exact ⟨rfl, rfl, by simp, by simpa using hq⟩
  · intro e q hq hl
    rw [startHead_head (by simp) (by simpa using hq) (by simpa using Nat.succ_lt_succ hl)]
    exact ⟨rfl, rfl, rfl, rfl⟩
  · intro hq hl
    rw [startHead_full (by simp) (by simpa using hq) (by simpa using Nat.succ_le_succ hl)]
    exact ⟨rfl, rfl, by simp, by simp⟩

theorem endDone_sameRest {s : State} {f : InFlight} (p : Option Bank) (d c : Word16) (i : List Byte)
    (h : s.store.inFlight = some f) (ho : s.svc.outstanding = none) :
    s.store.SameRest (endDone p d c i s).store ∧ (endDone p d c i s).svc = s.svc ∧
      (endDone p d c i s).arrPort = s.arrPort := by
  rw [endDone_eq p d c i h ho]
  have h0 : s.store.SameRest (pushResult (makeResult s f .done .none p 0 d c i) s).store :=
    ⟨rfl, rfl, rfl, rfl, rfl, rfl, rfl, rfl, rfl⟩
  exact ⟨h0.trans (startHead_sameRest _), by simp, by simp⟩

/-- A failed command: FAILED is pushed, the queue is discarded and the engine halts. -/
theorem endFailed_halts {s : State} {f : InFlight} (e : ErrCode) (p : Option Bank) (d : Word16)
    (h : s.store.inFlight = some f) (ho : s.svc.outstanding = none) : s.halts (endFailed e p d s) f e p d := by
  rw [endFailed_eq e p d h ho]
  refine ⟨⟨makeResult s f .failed e p s.store.queue.length d 0 noImage, ⟨?_, ?_, rfl, rfl, rfl, ?_, ?_, ?_⟩, rfl, rfl,
    rfl, rfl, rfl, rfl, rfl⟩, ?_, ?_, ?_, ?_, ?_, ?_⟩
  · simp
  · simp only [raise_irq]
    exact isSet_raise_of _ (qspaceFrom_isSet _ (isSet_raise_self _ _))
  · simp [makeResult]
  · rintro b hb
    subst hb
    simp [State.bankEntry, makeResult]
  · rintro hb
    have : p = none := hb
    subst this
    exact ⟨rfl, rfl⟩
  · simp
  · simp
  · simp
  · simp
  · simp
  · intro hq
    simp only [raise_irq, setEngine_irq]
    apply isSet_raise_of
    simp [discardQueue, qspaceFrom, hq]

theorem endFailed_sameRest {s : State} {f : InFlight} (e : ErrCode) (p : Option Bank) (d : Word16)
    (h : s.store.inFlight = some f) (ho : s.svc.outstanding = none) :
    s.store.SameRest (endFailed e p d s).store ∧ (endFailed e p d s).svc = s.svc ∧
      (endFailed e p d s).arrPort = s.arrPort := by
  rw [endFailed_eq e p d h ho]
  refine ⟨?_, by simp, by simp⟩
  simp only [raise_store, setEngine_store, discardQueue_store, pushResult_store]
  exact ⟨rfl, rfl, rfl, rfl, rfl, rfl, rfl, rfl, rfl⟩

/-- What a completion says depends on the state before only through its results and its queue. -/
theorem State.completes.from {s s' t : State} {f : InFlight} {p : Option Bank} {d c : Word16} {i : List Byte}
    (h : s'.completes t f p d c i) (hr : s'.store.results = s.store.results) (hq : s'.store.queue = s.store.queue) :
    s.completes t f p d c i := by
  unfold State.completes State.pushed at *
  rw [hr, hq] at h
  exact h

theorem State.halts.from {s s' t : State} {f : InFlight} {e : ErrCode} {p : Option Bank} {d : Word16}
    (h : s'.halts t f e p d) (hr : s'.store.results = s.store.results) (hq : s'.store.queue = s.store.queue) :
    s.halts t f e p d := by
  unfold State.halts State.pushed at *
  rw [hr, hq] at h
  exact h

end Sys2Proof.Machine
end

