-- ==== Sys2Proof/Laws/ArrayPort.lean ====
section
/-! SUPPORT. The array arbiter's grant and the requests presented to it. -/

namespace Sys2Proof.Machine

/-- Nothing is granted while an access is in progress. -/
theorem arrayGrant_busy {s : State} (h : s.arrPort.access.isSome = true) : arrayGrant s = s := by
  obtain ⟨acc, h⟩ := Option.isSome_iff_exists.1 h
  unfold arrayGrant; rw [h]

/-- Nothing is granted when nothing waits. -/
theorem arrayGrant_idle {s : State} (h : s.arrPort.loaderWait = none) (k : s.arrPort.storeWait = none) :
    arrayGrant s = s := by
  unfold arrayGrant
  rw [h, k]
  split <;> first | rfl | simp_all

@[simp] theorem arrayGrant_irq (s : State) : (arrayGrant s).irq = s.irq := by
  unfold arrayGrant; (repeat' split) <;> rfl

@[simp] theorem arrayGrant_svc (s : State) : (arrayGrant s).svc = s.svc := by
  unfold arrayGrant; (repeat' split) <;> rfl

@[simp] theorem arrayGrant_scan (s : State) : (arrayGrant s).scan = s.scan := by
  unfold arrayGrant; (repeat' split) <;> rfl

@[simp] theorem arrayGrant_part (s : State) : (arrayGrant s).part = s.part := (storeSide_arrayGrant s).part
@[simp] theorem arrayGrant_win (s : State) : (arrayGrant s).win = s.win := (storeSide_arrayGrant s).win
@[simp] theorem arrayGrant_ctl (s : State) : (arrayGrant s).ctl = s.ctl := (storeSide_arrayGrant s).ctl
@[simp] theorem arrayGrant_cells (s : State) : (arrayGrant s).cells = s.cells := (storeSide_arrayGrant s).cells
@[simp] theorem arrayGrant_cellPort (s : State) : (arrayGrant s).cellPort = s.cellPort :=
  (storeSide_arrayGrant s).cellPort
@[simp] theorem arrayGrant_mover (s : State) : (arrayGrant s).mover = s.mover := (storeSide_arrayGrant s).mover
@[simp] theorem arrayGrant_descs (s : State) : (arrayGrant s).descs = s.descs := (storeSide_arrayGrant s).descs
@[simp] theorem arrayGrant_attrs (s : State) : (arrayGrant s).attrs = s.attrs := (storeSide_arrayGrant s).attrs
@[simp] theorem arrayGrant_patch (s : State) : (arrayGrant s).patch = s.patch := (storeSide_arrayGrant s).patch
@[simp] theorem arrayGrant_patchValid (s : State) : (arrayGrant s).patchValid = s.patchValid :=
  (storeSide_arrayGrant s).patchValid
@[simp] theorem arrayGrant_rows (s : State) : (arrayGrant s).rows = s.rows := (storeSide_arrayGrant s).rows
@[simp] theorem arrayGrant_array (s : State) : (arrayGrant s).array = s.array := (storeSide_arrayGrant s).array
@[simp] theorem arrayGrant_pending (s : State) : (arrayGrant s).pending = s.pending := (storeSide_arrayGrant s).pending

/-- A grant changes nothing of the store but the counts of the command in flight. -/
theorem arrayGrant_store (s : State) :
    ∃ g : InFlight → InFlight, (arrayGrant s).store = { s.store with inFlight := s.store.inFlight.map g } ∧
      ∀ f, (g f).entry = f.entry ∧ (g f).stage = f.stage ∧ (g f).mapw = f.mapw ∧ (f.prog = none → (g f).prog = none) ∧
        (f.erase = none → (g f).erase = none) := by
  have h0 : s.store = { s.store with inFlight := s.store.inFlight.map id } := by simp
  unfold arrayGrant
  split
  · exact ⟨id, h0, fun f => ⟨rfl, rfl, rfl, id, id⟩⟩
  · exact ⟨id, h0, fun f => ⟨rfl, rfl, rfl, id, id⟩⟩
  · rename_i r _ _ _
    split
    · refine ⟨fun f => f.countGrant r, rfl, fun f => ?_⟩
      cases r <;> refine ⟨rfl, rfl, rfl, fun h => ?_, fun h => ?_⟩ <;> simp [InFlight.countGrant, h]
    · exact ⟨id, h0, fun f => ⟨rfl, rfl, rfl, id, id⟩⟩
  · exact ⟨id, h0, fun f => ⟨rfl, rfl, rfl, id, id⟩⟩

/-- A grant changes nothing of a store that has no command in flight, or one with no operation running. -/
theorem arrayGrant_store_quiet {s : State} (h : ∀ f, s.store.inFlight = some f → f.prog = none ∧ f.erase = none) :
    (arrayGrant s).store = s.store := by
  obtain ⟨g, hg, hk⟩ := arrayGrant_store s
  rw [hg]
  have hi : s.store.inFlight.map g = s.store.inFlight := by
    rcases hf : s.store.inFlight with _ | f
    · rfl
    · obtain ⟨h1, h2⟩ := h f hf
      obtain ⟨k1, k2, k3, k4, k5⟩ := hk f
      have : g f = f := by
        rcases hgf : g f with ⟨e', st', p', er', m'⟩
        rw [hgf] at k1 k2 k3 k4 k5
        cases f
        simp_all
      simp [this]
  rw [hi]

theorem storeBusy_idle {s : State} (h : s.arrPort.access = none) : s.storeBusy = false := by
  simp [State.storeBusy, h]

theorem storeBusy_withFlight (f : InFlight → InFlight) (s : State) : (s.withFlight f).storeBusy = s.storeBusy := rfl

/-- A request behind the engine's own discarded read is put off. -/
theorem storeRequest_busy (r : StoreReq) {s : State} (h : s.storeBusy = true) :
    storeRequest r s = { s with store := { s.store with deferred := some r } } := by
  simp [storeRequest, h]

/-- Any other request goes to the arbiter. -/
theorem storeRequest_free (r : StoreReq) {s : State} (h : s.storeBusy = false) :
    storeRequest r s = arrayGrant { s with arrPort := { s.arrPort with storeWait := some r } } := by
  simp [storeRequest, h]

/-- The request that the store engine presents is decided as R107 and R108 say. -/
theorem presents_storeRequest (r : StoreReq) (s : State) : s.presents (storeRequest r s) r := by
  refine ⟨?_, fun h => ?_, fun acc b h => ?_, fun g h k => ?_, fun h k m => ?_, fun h k m n => ?_⟩
  · rcases hb : s.storeBusy
    · obtain ⟨g, hg, -⟩ := arrayGrant_store { s with arrPort := { s.arrPort with storeWait := some r } }
      rw [storeRequest_free r hb, hg]
      simp [State.putsOff, hb]
    · simp [storeRequest_busy r hb, State.putsOff, hb]
  · rw [storeRequest_busy r h]
  · simp [storeRequest, b, arrayGrant, h]
  · simp [storeRequest, storeBusy_idle h, arrayGrant, h, k]
  · have : r.mayRun s.rows.loader = true := by
      rcases m with ⟨u, rfl⟩ | m
      · rfl
      · cases r <;> simp [StoreReq.mayRun, m]
    simp [storeRequest, storeBusy_idle h, arrayGrant, h, k, this]
  · have : r.mayRun s.rows.loader = false := by
      cases r
      · exact absurd rfl (m _)
      · simp [StoreReq.mayRun, n]
      · simp [StoreReq.mayRun, n]
    simp [storeRequest, storeBusy_idle h, arrayGrant, h, k, this]

/-- What a request says depends on the state before only through the array port, the loader's state and what the engine has
put off. -/
theorem State.presents.from {s s' t : State} {r : StoreReq} (h : s'.presents t r) (ha : s'.arrPort = s.arrPort)
    (hr : s'.rows.loader = s.rows.loader) (hd : s'.store.deferred = s.store.deferred) : s.presents t r := by
  unfold State.presents State.putsOff State.storeBusy at *
  rw [ha, hr, hd] at h
  exact h

/-- A read request changes nothing of the store but what the engine has put off. -/
theorem storeRequest_read_store (u : ArrUnit) (s : State) :
    (storeRequest (.read u) s).store = { s.store with deferred := s.putsOff (.read u) } := by
  have : ∀ f : Option InFlight, f.map (fun f => f.countGrant (.read u)) = f := by
    intro f; cases f <;> rfl
  rcases hb : s.storeBusy with _ | _
  case true => simp [storeRequest_busy _ hb, State.putsOff, hb]
  have hd : s.putsOff (.read u) = s.store.deferred := by simp [State.putsOff, hb]
  rw [storeRequest_free _ hb, hd]
  simp only [arrayGrant]
  rcases s.arrPort.access with _ | acc
  · rcases s.arrPort.loaderWait with _ | g
    · simp [StoreReq.mayRun, this]
    · rfl
  · rfl

/-- A completion goes through the grant that follows it. -/
theorem State.completes.grant {s t : State} {f : InFlight} {p : Option Bank} {d c : Word16} {i : List Byte}
    (h : s.completes t f p d c i) : s.completes (arrayGrant t) f p d c i := by
  obtain ⟨⟨r, hp, hr⟩, h1, h2, h3⟩ := h
  have hq : (arrayGrant t).store = t.store := by
    apply arrayGrant_store_quiet
    intro g hg
    rcases hq : s.store.queue with _ | ⟨e, q⟩
    · rw [(h1 hq).2.2.1] at hg; cases hg
    · by_cases hl : s.store.results.length < 3
      · rw [(h2 e q hq hl).2.2.2] at hg
        cases hg
        exact ⟨rfl, rfl⟩
      · rw [(h3 (by simp [hq]) (by omega)).2.2.1] at hg; cases hg
  unfold State.completes State.pushed at *
  rw [hq, arrayGrant_irq]
  exact ⟨⟨r, hp, hr⟩, h1, h2, h3⟩

end Sys2Proof.Machine
end

