-- ==== Sys2Proof/Laws/Loader.lean ====
section
/-! SUPPORT. The cell port's grant, and what the row loader's work leaves alone. -/

namespace Sys2Proof.Machine

/-- Nothing is granted while an access is in progress. -/
theorem grant_busy {p : CellPort} (h : p.access.isSome = true) : p.grant = p := by
  obtain ⟨acc, h⟩ := Option.isSome_iff_exists.1 h
  unfold CellPort.grant; rw [h]

/-- A grant takes one request, the first of the policy, or changes nothing. -/
theorem grant_cases (p : CellPort) :
    p.grant = p ∨ ∃ who r, p.grant = p.start who r ∧ p.access = none := by
  unfold CellPort.grant
  split
  · exact .inl rfl
  · exact .inr ⟨_, _, rfl, by assumption⟩
  · split <;> exact .inr ⟨_, _, rfl, by assumption⟩
  · exact .inr ⟨_, _, rfl, by assumption⟩
  · exact .inr ⟨_, _, rfl, by assumption⟩
  · exact .inl rfl

/-- The arbiter leaves an access in progress when something waited. -/
theorem grant_access {p : CellPort} (h : p.loaderWait.isSome = true ∨ p.hostWait.isSome = true ∨
    p.moverWait.isSome = true) : p.grant.access.isSome = true := by
  unfold CellPort.grant
  split
  · simp [*]
  · rfl
  · split <;> rfl
  · rfl
  · rfl
  · simp_all

/-- `t` differs from `s` in the interrupt flags, LISTFLT, the row buffers and the cell port alone. -/
structure LoaderSide (s t : State) : Prop where
  part : t.part = s.part
  win : t.win = s.win
  ctl : t.ctl = s.ctl
  cells : t.cells = s.cells
  mover : t.mover = s.mover
  descs : t.descs = s.descs
  attrs : t.attrs = s.attrs
  patch : t.patch = s.patch
  patchValid : t.patchValid = s.patchValid
  scan : t.scan = { s.scan with listCode := t.scan.listCode, listIndex := t.scan.listIndex }
  loadingIs1 : t.rows.loadingIs1 = s.rows.loadingIs1
  displaying : t.rows.displaying = s.rows.displaying
  array : t.array = s.array
  arrPort : t.arrPort = s.arrPort
  store : t.store = s.store
  svc : t.svc = s.svc
  freeCount : t.freeCount = s.freeCount
  pending : t.pending = s.pending
  flags : ∀ f, s.irq.isSet f = true → t.irq.isSet f = true
  otherFlags : ∀ f, f ≠ .listFault → t.irq.isSet f = s.irq.isSet f

theorem LoaderSide.refl (s : State) : LoaderSide s s := by constructor <;> intros <;> first | rfl | assumption

theorem setLoading_displaying (r : Rows) (b : Option RowInst) : (r.setLoading b).displaying = r.displaying := by
  unfold Rows.setLoading Rows.displaying
  split <;> rfl

theorem setLoading_loadingIs1 (r : Rows) (b : Option RowInst) : (r.setLoading b).loadingIs1 = r.loadingIs1 := by
  unfold Rows.setLoading
  split <;> rfl

@[simp] theorem setLoading_loading (r : Rows) (b : Option RowInst) : (r.setLoading b).loading = b := by
  rcases h : r.loadingIs1 <;> simp [Rows.setLoading, Rows.loading, h]

theorem loaderSide_loaderRests (s : State) : LoaderSide s (loaderRests s) := by
  constructor <;> intros <;> first | rfl | assumption

theorem loaderSide_beginEntry (i : RowInst) (j : Nat) (s : State) : LoaderSide s (beginEntry i j s) := by
  have h : ∀ k : State, k.rows = { s.rows.setLoading (some (i.setState j .filling)) with
      loader := .loading, work := some { entry := j, addr := i.addrs.getD j 0, phase := .cellRead } } →
      (k = { s with rows := k.rows, cellPort := k.cellPort }) → LoaderSide s k := by
    intro k hr hk
    have hd : k.rows.displaying = s.rows.displaying := by rw [hr]; exact setLoading_displaying _ _
    have hl : k.rows.loadingIs1 = s.rows.loadingIs1 := by rw [hr]; exact setLoading_loadingIs1 _ _
    rw [hk] at hd hl ⊢
    constructor <;> intros <;> first | rfl | assumption
  unfold beginEntry
  dsimp only
  split
  · exact h _ rfl rfl
  · exact h _ rfl rfl

theorem loaderSide_beginLoad (i : RowInst) (s : State) : LoaderSide s (beginLoad i s) := by
  unfold beginLoad
  split
  · have hd := setLoading_displaying s.rows (some i)
    have hl := setLoading_loadingIs1 s.rows (some i)
    constructor <;> intros <;> first | rfl | assumption
  · exact loaderSide_beginEntry _ _ _

theorem loaderSide_listFault (c : ListCode) (n : Nat) (s : State) : LoaderSide s (listFault c n s) := by
  constructor <;> intros <;> first
    | rfl
    | exact isSet_raise_of _ (by assumption)
    | (rename_i f hf; show (Interrupts.raise _ _).isSet f = _; rw [isSet_raise]; simp [Ne.symm hf])

theorem loaderSide_latchInst (i k : Nat) (s : State) : LoaderSide s (latchInst i k s) := by
  unfold latchInst
  dsimp only
  split
  · exact loaderSide_beginLoad _ _
  · exact loaderSide_listFault _ _ _

/-- The latch of a frame's first instance touches the loader's side alone. -/
theorem loaderSide_latchFirst (s : State) : LoaderSide s (latchFirst s) := by
  unfold latchFirst
  split
  · exact loaderSide_loaderRests _
  · exact loaderSide_latchInst _ _ _

/-- The latch at a row start touches the loader's side alone. -/
theorem loaderSide_latchFollowing (i : RowInst) (n : Nat) (s : State) : LoaderSide s (latchFollowing i n s) := by
  unfold latchFollowing
  split
  · split
    · exact loaderSide_latchInst _ _ _
    · exact loaderSide_loaderRests _
    · exact loaderSide_listFault _ _ _
  · exact loaderSide_loaderRests _

end Sys2Proof.Machine
end

