-- ==== Sys2Proof/Laws/Memory.lean ====
section
/-! SUPPORT. Memories: what a write changes, and that every memory operation keeps the canonical form. -/

namespace Sys2Proof.Machine

/-! ## Lists of cells -/

theorem cellsRise_cons (a : Nat) (v : Byte) (l : List Host.Cell) :
    cellsRise ((a, v) :: l) = true ↔ (∀ c ∈ l, a < c.1) ∧ cellsRise l = true := by
  induction l generalizing a v with
  | nil => simp [cellsRise]
  | cons c rest ih =>
    obtain ⟨b, w⟩ := c
    rw [cellsRise, Bool.and_eq_true, decide_eq_true_iff]
    constructor
    · rintro ⟨h, hr⟩
      refine ⟨fun c hc => ?_, hr⟩
      rcases List.mem_cons.1 hc with rfl | hc
      · exact h
      · exact h.trans (((ih b w).1 hr).1 c hc)
    · exact fun ⟨h, hr⟩ => ⟨h _ (List.mem_cons_self ..), hr⟩

theorem lookupCell_eq_none_of_lt (l : List Host.Cell) (a : Nat) (h : ∀ c ∈ l, a < c.1) : lookupCell l a = none := by
  induction l with
  | nil => rfl
  | cons c rest ih =>
    obtain ⟨b, w⟩ := c
    have hb : a < b := h _ (List.mem_cons_self ..)
    rw [lookupCell, if_neg (by omega), ih fun c hc => h c (List.mem_cons_of_mem _ hc)]

theorem lookupCell_insertCell (l : List Host.Cell) (a b : Nat) (v : Byte) (hl : cellsRise l = true) :
    lookupCell (insertCell l a v) b = if b = a then some v else lookupCell l b := by
  induction l with
  | nil => simp [insertCell, lookupCell]
  | cons c rest ih =>
    obtain ⟨x, w⟩ := c
    have hr := (cellsRise_cons x w rest).1 hl
    have hi := ih hr.2
    rw [insertCell]
    by_cases h1 : a < x
    · rw [if_pos h1, lookupCell]
    · rw [if_neg h1]
      by_cases h2 : a = x
      · subst h2
        rw [if_pos rfl, lookupCell, lookupCell]
        by_cases h3 : b = a <;> simp [h3]
      · rw [if_neg h2, lookupCell, lookupCell, hi]
        by_cases h3 : b = a
        · simp [h3, h2]
        · simp [h3]

theorem lookupCell_eraseCell (l : List Host.Cell) (a b : Nat) (hl : cellsRise l = true) :
    lookupCell (eraseCell l a) b = if b = a then none else lookupCell l b := by
  induction l with
  | nil => simp [eraseCell, lookupCell]
  | cons c rest ih =>
    obtain ⟨x, w⟩ := c
    have hr := (cellsRise_cons x w rest).1 hl
    have hi := ih hr.2
    rw [eraseCell]
    by_cases h1 : a = x
    · subst h1
      rw [if_pos rfl, lookupCell]
      by_cases h2 : b = a
      · simp [h2, lookupCell_eq_none_of_lt _ _ hr.1]
      · simp [h2]
    · rw [if_neg h1, lookupCell, lookupCell, hi]
      by_cases h2 : b = a
      · simp [h2, h1]
      · simp [h2]

theorem mem_insertCell {l : List Host.Cell} {a : Nat} {v : Byte} {c : Host.Cell} (h : c ∈ insertCell l a v) :
    c = (a, v) ∨ c ∈ l := by
  induction l with
  | nil => simpa [insertCell] using h
  | cons x rest ih =>
    obtain ⟨b, w⟩ := x
    simp only [insertCell] at h
    split_ifs at h with h1 h2
    · exact List.mem_cons.1 h
    · rcases List.mem_cons.1 h with h | h
      · exact .inl h
      · exact .inr (List.mem_cons_of_mem _ h)
    · rcases List.mem_cons.1 h with h | h
      · exact .inr (h ▸ List.mem_cons_self ..)
      · rcases ih h with h | h
        · exact .inl h
        · exact .inr (List.mem_cons_of_mem _ h)

theorem mem_eraseCell {l : List Host.Cell} {a : Nat} {c : Host.Cell} (h : c ∈ eraseCell l a) : c ∈ l := by
  induction l with
  | nil => simp [eraseCell] at h
  | cons x rest ih =>
    obtain ⟨b, w⟩ := x
    simp only [eraseCell] at h
    split_ifs at h with h1
    · exact List.mem_cons_of_mem _ h
    · rcases List.mem_cons.1 h with h | h
      · exact h ▸ List.mem_cons_self ..
      · exact List.mem_cons_of_mem _ (ih h)

theorem cellsRise_insertCell (l : List Host.Cell) (a : Nat) (v : Byte) (hl : cellsRise l = true) :
    cellsRise (insertCell l a v) = true := by
  induction l with
  | nil => rfl
  | cons x rest ih =>
    obtain ⟨b, w⟩ := x
    have hr := (cellsRise_cons b w rest).1 hl
    simp only [insertCell]
    split_ifs with h1 h2
    · refine (cellsRise_cons ..).2 ⟨fun c hc => ?_, hl⟩
      rcases List.mem_cons.1 hc with rfl | hc
      · exact h1
      · exact h1.trans (hr.1 c hc)
    · subst h2; exact (cellsRise_cons ..).2 hr
    · refine (cellsRise_cons ..).2 ⟨fun c hc => ?_, ih hr.2⟩
      rcases mem_insertCell hc with rfl | hc
      · show b < a; omega
      · exact hr.1 c hc

theorem cellsRise_eraseCell (l : List Host.Cell) (a : Nat) (hl : cellsRise l = true) :
    cellsRise (eraseCell l a) = true := by
  induction l with
  | nil => rfl
  | cons x rest ih =>
    obtain ⟨b, w⟩ := x
    have hr := (cellsRise_cons b w rest).1 hl
    simp only [eraseCell]
    split_ifs with h1
    · exact hr.2
    · exact (cellsRise_cons ..).2 ⟨fun c hc => hr.1 c (mem_eraseCell hc), ih hr.2⟩

/-! ## Memories -/

theorem Memory.wf_iff (m : Memory) :
    m.wf = true ↔ cellsRise m.cells = true ∧ ∀ c ∈ m.cells, c.2 ≠ fillByte m.fill c.1 := by
  simp [Memory.wf, bne_iff_ne]

/-- A write keeps the canonical form. -/
theorem Memory.write_wf {m : Memory} (a : Nat) (v : Byte) (h : m.wf = true) : (m.write a v).wf = true := by
  rw [Memory.wf_iff] at *
  unfold Memory.write
  split_ifs with hv
  · exact ⟨cellsRise_eraseCell _ _ h.1, fun c hc => h.2 c (mem_eraseCell hc)⟩
  · refine ⟨cellsRise_insertCell _ _ _ h.1, fun c hc => ?_⟩
    rcases mem_insertCell hc with rfl | hc
    · exact hv
    · exact h.2 c hc

/-- What every byte reads after a write. -/
theorem Memory.read_write {m : Memory} (a b : Nat) (v : Byte) (h : m.wf = true) :
    (m.write a v).read b = if b = a then v else m.read b := by
  have hr := ((Memory.wf_iff m).1 h).1
  unfold Memory.write Memory.read
  split_ifs with hv hb hb
  · subst hb; simp [lookupCell_eraseCell _ _ _ hr, hv]
  · simp [lookupCell_eraseCell _ _ _ hr, hb]
  · simp [lookupCell_insertCell _ _ _ _ hr, hb]
  · simp [lookupCell_insertCell _ _ _ _ hr, hb]

@[simp] theorem Memory.write_fill (m : Memory) (a : Nat) (v : Byte) : (m.write a v).fill = m.fill := rfl

/-- Writing a list of bytes keeps the canonical form. -/
theorem Memory.writeAll_wf {m : Memory} (l : List Host.Cell) (h : m.wf = true) : (m.writeAll l).wf = true := by
  induction l generalizing m with
  | nil => exact h
  | cons c rest ih => exact ih (Memory.write_wf _ _ h)

/-- What a byte reads after a list of writes that each put `f b` at their address `b`. -/
theorem Memory.read_writeAll {m : Memory} (l : List Host.Cell) (f : Nat → Byte) (hf : ∀ c ∈ l, c.2 = f c.1)
    (h : m.wf = true) (b : Nat) :
    (m.writeAll l).read b = if b ∈ l.map Prod.fst then f b else m.read b := by
  induction l generalizing m with
  | nil => simp [Memory.writeAll]
  | cons c rest ih =>
    have e : m.writeAll (c :: rest) = (m.write c.1 c.2).writeAll rest := rfl
    rw [e, ih (fun c hc => hf c (List.mem_cons_of_mem _ hc)) (Memory.write_wf _ _ h), Memory.read_write _ _ _ h]
    by_cases h1 : b ∈ rest.map Prod.fst
    · simp only [h1, List.map_cons, List.mem_cons, or_true, if_true]
    · simp only [h1, List.map_cons, List.mem_cons, or_false, if_false]
      split_ifs with h2
      · subst h2; exact hf c (List.mem_cons_self ..)
      · rfl

/-- A list of bytes read from a memory, one of them. -/
theorem byteAt_readBytes (m : Memory) (a n k : Nat) : byteAt (m.readBytes a n) k = if k < n then m.read (a + k) else 0 := by
  unfold byteAt Memory.readBytes
  by_cases h : k < n
  · simp [h, List.getD_eq_getElem?_getD]
  · simp [h, List.getD_eq_getElem?_getD]

/-! ## The memories that the machine writes -/

theorem Memory.writeCell_wf {m : Memory} (a : CellAddr) (w : Word16) (h : m.wf = true) : (m.writeCell a w).wf = true :=
  Memory.write_wf _ _ (Memory.write_wf _ _ h)

/-- A cell write changes its own two bytes and no other. -/
theorem Memory.read_writeCell {m : Memory} (a : CellAddr) (w : Word16) (h : m.wf = true) (b : Nat) :
    (m.writeCell a w).read b =
      if b = 2 * a.toNat + 1 then byteOf w 1 else if b = 2 * a.toNat then byteOf w 0 else m.read b := by
  rw [Memory.writeCell, Memory.read_write _ _ _ (Memory.write_wf _ _ h), Memory.read_write _ _ _ h]

theorem advanceOne_wf {m : Memory} (cellw n : Nat) (h : m.wf = true) : (advanceOne cellw m n).wf = true := by
  unfold advanceOne
  dsimp only
  split_ifs
  · exact Memory.write_wf _ _ (Memory.write_wf _ _ (Memory.write_wf _ _ h))
  · exact h

theorem foldl_advanceOne_wf {m : Memory} (cellw : Nat) (l : List Nat) (h : m.wf = true) :
    (l.foldl (advanceOne cellw) m).wf = true := by
  induction l generalizing m with
  | nil => exact h
  | cons n rest ih => exact ih (advanceOne_wf cellw n h)

/-- The marquee advance keeps the canonical form. -/
theorem advanceMarquees_wf {m : Memory} (cellw : Nat) (h : m.wf = true) : (advanceMarquees cellw m).wf = true :=
  foldl_advanceOne_wf cellw _ h

/-! ## Bytes of words -/

theorem byteOf_toNat {n : Nat} (w : BitVec n) (k : Nat) : (byteOf w k).toNat = w.toNat / 2 ^ (8 * k) % 256 := by
  simp [byteOf, Nat.shiftRight_eq_div_pow]

theorem word16_toNat (hi lo : Byte) : (word16 hi lo).toNat = 256 * hi.toNat + lo.toNat := by
  rw [word16, BitVec.toNat_append, ← Nat.shiftLeft_add_eq_or_of_lt lo.isLt, Nat.shiftLeft_eq]
  omega

@[simp] theorem word16_byteOf (w : Word16) : word16 (byteOf w 1) (byteOf w 0) = w := by
  apply BitVec.eq_of_toNat_eq
  rw [word16_toNat, byteOf_toNat, byteOf_toNat]
  have := w.isLt
  omega

@[simp] theorem byteOf_word16_zero (hi lo : Byte) : byteOf (word16 hi lo) 0 = lo := by
  apply BitVec.eq_of_toNat_eq
  rw [byteOf_toNat, word16_toNat]
  have := lo.isLt
  omega

@[simp] theorem byteOf_word16_one (hi lo : Byte) : byteOf (word16 hi lo) 1 = hi := by
  apply BitVec.eq_of_toNat_eq
  rw [byteOf_toNat, word16_toNat]
  have := lo.isLt
  have := hi.isLt
  omega

end Sys2Proof.Machine
end

