-- ==== Sys2Proof/Laws/Service.lean ====
section
/-! SUPPORT. Replies of the service load port, and the bytes of records. -/

namespace Sys2Proof.Machine

theorem byteSum_append (a b : List Byte) : byteSum (a ++ b) = byteSum a + byteSum b := by
  induction a with
  | nil => simp [byteSum]
  | cons x a ih => simp [byteSum, ih, BitVec.add_assoc]

/-- The check byte makes the sum 00H. -/
theorem byteSum_check (l : List Byte) : byteSum (l ++ [0 - byteSum l]) = 0 := by
  simp only [byteSum_append, byteSum]
  generalize byteSum l = y
  bv_omega

/-- The flags byte holds the two notes. -/
theorem replyFlags_getLsbD (dropped lost : Bool) (k : Nat) :
    (replyFlags dropped lost).getLsbD k = ((decide (k = 0) && dropped) || (decide (k = 1) && lost)) := by
  by_cases h : k < 8
  · revert dropped lost
    interval_cases k <;> decide
  · have h8 : 8 ≤ k := Nat.le_of_not_lt h
    simp [BitVec.getLsbD_of_ge _ _ h8, show k ≠ 0 by omega, show k ≠ 1 by omega]

/-- A reply that the transmitter has begun, with the notes of the state before. -/
theorem replies_of {s t : State} {letter : Byte} {pl : List Byte} {x c : Bool}
    (h : t.svc.sending = some { item := .reply letter pl x c
                                bytes := replyBytes letter pl (replyFlags s.svc.inputDropped s.svc.replyLost) })
    (h1 : t.svc.inputDropped = false) (h2 : t.svc.replyLost = false) : s.replies t letter pl := by
  refine ⟨⟨replyFlags s.svc.inputDropped s.svc.replyLost,
    0 - (letter + BitVec.ofNat 8 (pl.length + 1) + byteSum (pl ++ [replyFlags s.svc.inputDropped s.svc.replyLost])),
    ?_, replyFlags_getLsbD _ _, ?_⟩, h1, h2⟩
  · rw [h]
    simp [replyBytes]
  · simp only [byteSum_append, byteSum, List.cons_append, List.nil_append]
    generalize byteSum pl = y
    bv_omega

/-- With the transmitter idle an item begins at once. -/
theorem queueItem_idle {s : State} (it : TxItem) (h : s.svc.sending = none) :
    queueItem it s = { s with svc := beginSend it s.svc } := by
  unfold queueItem; rw [h]

/-- With the transmitter idle an N reply begins at once. -/
theorem queueN_repliesN {s : State} (e : ErrCode) (k : Bool) (h : s.svc.sending = none) :
    s.repliesN (queueN e k s) e := by
  unfold queueN
  rw [queueItem_idle _ (by exact h)]
  exact ⟨replies_of (x := k) (c := false) rfl rfl rfl, rfl⟩

/-- With the transmitter idle a K reply begins at once. -/
theorem queueK_replies {s : State} (pl : List Byte) (k : Bool) (h : s.svc.sending = none) :
    s.replies (queueK pl k s) 0x4B pl := by
  unfold queueK
  rw [queueItem_idle _ h]
  exact replies_of (x := false) (c := k) rfl rfl rfl

/-- A refused record, with the transmitter idle. -/
theorem refuseRecord_refuses {s : State} (e : ErrCode) (h : s.svc.sending = none) :
    s.refusesRecord (refuseRecord e s) e := by
  unfold refuseRecord queueN
  rw [queueItem_idle _ (by exact h)]
  exact ⟨⟨replies_of (x := false) (c := false) rfl rfl rfl, rfl⟩, rfl, rfl, rfl, rfl, rfl, rfl, rfl, rfl, rfl⟩

theorem natOfBytes_append (a b : List Byte) : natOfBytes (a ++ b) = natOfBytes a + 256 ^ a.length * natOfBytes b := by
  induction a with
  | nil => simp [natOfBytes]
  | cons x a ih => simp only [List.cons_append, natOfBytes, ih, List.length_cons, Nat.pow_succ]; ring

/-- The first bytes of a word, read back as a number. -/
theorem natOfBytes_bytesOf {n : Nat} (w : BitVec n) (k : Nat) : natOfBytes (bytesOf w k) = w.toNat % 256 ^ k := by
  induction k with
  | zero => simp [bytesOf, natOfBytes, Nat.mod_one]
  | succ k ih =>
    have e : bytesOf w (k + 1) = bytesOf w k ++ [byteOf w k] := by simp [bytesOf, List.range_succ]
    rw [e, natOfBytes_append, ih]
    have hl : (bytesOf w k).length = k := by simp [bytesOf]
    rw [hl, natOfBytes, natOfBytes, byteOf_toNat, pow_succ, Nat.mod_mul, show (2 : Nat) ^ (8 * k) = 256 ^ k by rw [pow_mul]; rfl]
    simp

/-- The wire form of a record is read back as the record. -/
theorem recordOf_wire (r : Record) (h : ∀ i image, r = .g i image → image.length = 16) :
    ∃ k n pl, r.wire = [k, n] ++ pl ∧ n.toNat = pl.length ∧ n.toNat ≤ 17 ∧ recordLength k = some pl.length ∧
      recordOf k pl = r := by
  cases r with
  | b l => exact ⟨0x42, 1, [l], rfl, rfl, by decide, rfl, rfl⟩
  | c skip =>
    refine ⟨0x43, 8, bytesOf skip 8, rfl, rfl, by decide, rfl, ?_⟩
    show Record.c (skipMask (bytesOf skip 8)) = .c skip
    have e : skipMask (bytesOf skip 8) = skip := by
      unfold skipMask
      rw [List.take_of_length_le (by simp [bytesOf]), natOfBytes_bytesOf]
      apply BitVec.eq_of_toNat_eq
      rw [BitVec.toNat_ofNat]
      have := skip.isLt
      omega
    rw [e]
  | g i image =>
    have hl := h i image rfl
    exact ⟨0x47, 17, i :: image, rfl, by simp [hl], by decide, by simp [hl]; rfl, rfl⟩
  | m => exact ⟨0x4D, 0, [], rfl, rfl, by decide, rfl, rfl⟩
  | a => exact ⟨0x41, 0, [], rfl, rfl, by decide, rfl, rfl⟩
  | q => exact ⟨0x51, 0, [], rfl, rfl, by decide, rfl, rfl⟩
  | e => exact ⟨0x45, 0, [], rfl, rfl, by decide, rfl, rfl⟩

end Sys2Proof.Machine
end

