-- ==== Sys2Proof/Laws/Steps.lean ====
section
/-! SUPPORT. How a command reaches its effect: events, strobes, and DATA accesses. -/

namespace Sys2Proof.Machine

/-- A state with no first latch to make is as it was. -/
@[simp] theorem takeLatch_none {s : State} (h : s.scan.latchDue = false) : takeLatch s = s := by simp [takeLatch, h]

/-- A first latch that was still to be made has been made. -/
theorem takeLatch_due {s : State} (h : s.scan.latchDue = true) :
    takeLatch s = arrayGrant (latchFirst { s with scan := { s.scan with latchDue := false } }) := by simp [takeLatch, h]

/-- A frame start that is due makes its first latch at once, or leaves it to the next step. -/
theorem frameStart_due {s : State} (h : s.frameDue = true) :
    frameStart s = openFrame { s with freeCount := s.freeCount + 1 } ∨
      frameStart s =
        let t := frameSettings { s with freeCount := s.freeCount + 1 }
        { t with scan := { t.scan with latchDue := true } } := by
  unfold frameStart
  rw [if_pos h]
  dsimp only
  split
  · exact .inl rfl
  · exact .inr rfl

/-- An event while RESET# does not hold the part has its effect. -/
theorem occur_released {f : State → State} {s : State} (h : s.released) : occur f s = .next (f s) := by
  simp [occur, h.1, h.2]

/-- Every step of the part answers a next state, after the first latch of a frame that was still to be made. -/
theorem occur_next (f : State → State) (s : State) :
    occur f s = .next (if s.part.resetHeld then s else f (takeLatch s)) := rfl

/-- An access that writes no descriptor byte is a step like any other. -/
theorem occurAccess_plain {x : Option Access} {f : State → State} {s : State} (h : x.any s.writesDescriptor = false) :
    occurAccess x f s = occur f s := by simp [occurAccess, h]

/-- Every access of the host window answers a next state. -/
theorem occurAccess_next (x : Option Access) (f : State → State) (s : State) : ∃ t, occurAccess x f s = .next t := by
  unfold occurAccess
  split
  · exact ⟨_, rfl⟩
  · exact ⟨_, rfl⟩

/-- A host write of a descriptor byte changes the table and the window address, and nothing else. -/
theorem takeAccess_descriptor {s : State} {x : Access} (h : s.writesDescriptor x = true) :
    ∃ v, x = .write 4 v ∧ takeAccess x s = stepAddr (descriptorWrite s.win.addr.toNat v s) := by
  cases x with
  | read port => simp [State.writesDescriptor] at h
  | write port v =>
    simp only [State.writesDescriptor, Bool.and_eq_true, decide_eq_true_eq, Bool.not_eq_true'] at h
    obtain ⟨⟨⟨hp, hm⟩, hs⟩, ha⟩ := h
    subst hp
    refine ⟨v, rfl, ?_⟩
    have hr : ¬spaceSize s.win.space ≤ s.win.addr.toNat := by
      have h2 : spaceSize 2 = 768 := rfl
      rw [hs, h2]
      omega
    simp [takeAccess, takeWrite, dataWrite, hm, hr]
    simp [spaceWrite, hs]

/-- A strobe with WAIT# high is taken at once. -/
theorem strobe_taken {s : State} (h : s.windowFree) (x : Access) : occurStrobe x s = .next (takeAccess x s) := by
  have hx : strobe x s = takeAccess x s := by simp [strobe, h.2]
  have hn : s.takesNow x = some x := by simp [State.takesNow, h.2]
  unfold occurStrobe
  rw [hn]
  by_cases hw : s.writesDescriptor x = true
  · obtain ⟨v, -, he⟩ := takeAccess_descriptor hw
    have hl : (takeAccess x s).scan.latchDue = false := by rw [he]; simpa using h.1.2
    simp [occurAccess, hw, h.1.1, hx, takeLatch_none hl]
  · rw [occurAccess_plain (by simpa using hw), occur_released h.1, hx]

/-- A host write of a descriptor byte is taken before the first latch of the frame that has just started. -/
theorem strobe_beforeLatch {s : State} {x : Access} (hr : s.part.resetHeld = false) (hw : s.waitLow = false)
    (hx : s.writesDescriptor x = true) : occurStrobe x s = .next (takeLatch (takeAccess x s)) := by
  simp [occurStrobe, occurAccess, State.takesNow, strobe, hr, hw, hx]

/-- A command strobe in normal mode carries out the command. -/
theorem strobe_command {s : State} (h : s.hostOpen) (code : Byte) :
    occurStrobe (.write 0 code) s = .next (command code s) := by
  rw [strobe_taken h.1]
  simp [takeAccess, takeWrite, unlessService, h.2]

/-- A DATA write within its space in normal mode. -/
theorem strobe_dataWrite {s : State} {sp : BitVec 3} {a : Nat} (h : s.dataAt sp a) (ha : a < spaceSize sp) (v : Byte) :
    occurStrobe (.write 4 v) s = .next (spaceWrite v s) := by
  obtain ⟨ho, hs, hw⟩ := h
  rw [strobe_taken ho.1]
  have h1 : ¬spaceSize s.win.space ≤ s.win.addr.toNat := by rw [hs, hw]; omega
  simp [takeAccess, takeWrite, dataWrite, ho.2, h1]

/-- A DATA read within its space in normal mode. -/
theorem strobe_dataRead {s : State} {sp : BitVec 3} {a : Nat} (h : s.dataAt sp a) (ha : a < spaceSize sp) :
    occurStrobe (.read 4) s = .next (spaceRead s) := by
  obtain ⟨ho, hs, hw⟩ := h
  rw [strobe_taken ho.1]
  have h1 : ¬spaceSize s.win.space ≤ s.win.addr.toNat := by rw [hs, hw]; omega
  simp [takeAccess, takeRead, dataRead, ho.2, h1]

/-- A DATA write at a location of the control block. -/
theorem spaceWrite_control {s : State} {a : Nat} (h : s.dataAt 0 a) (v : Byte) :
    spaceWrite v s = stepAddr (controlWrite a v s) := by
  obtain ⟨-, hs, hw⟩ := h
  simp [spaceWrite, hs, hw]

/-- A DATA write at a location of the cell store. -/
theorem spaceWrite_cells {s : State} {a : Nat} (h : s.dataAt 1 a) (v : Byte) :
    spaceWrite v s = if a % 2 = 0 then cellLowWrite v s else cellHighWrite v s := by
  obtain ⟨-, hs, hw⟩ := h
  simp [spaceWrite, hs, hw]

/-- A DATA read at a location of the control block. -/
theorem spaceRead_control {s : State} {a : Nat} (h : s.dataAt 0 a) :
    spaceRead s = stepAddr (captureRead a (drive (s.controlByte a) s)) := by
  obtain ⟨-, hs, hw⟩ := h
  simp [spaceRead, hs, hw]

/-- A DATA read at a location of the cell store. -/
theorem spaceRead_cells {s : State} {a : Nat} (h : s.dataAt 1 a) :
    spaceRead s = if a % 2 = 0 then cellLowRead s else cellHighRead s := by
  obtain ⟨-, hs, hw⟩ := h
  simp [spaceRead, hs, hw]

/-- The oldest held access is taken as at its strobe. -/
theorem heldAccess_taken {s : State} {x : Access} {rest : List Access} (hc : s.win.cellOp = none)
    (hh : s.win.held = x :: rest) : heldAccess s = takeAccess x { s with win := { s.win with held := rest } } := by
  unfold heldAccess
  rw [hc, hh]

end Sys2Proof.Machine
end

