-- ==== Sys2Proof/Laws/StoreWork.lean ====
section
/-! SUPPORT. The store engine's operations at the array port, and the choice of a spare. -/

namespace Sys2Proof.Machine

/-- A second grant after a grant changes nothing. -/
theorem arrayGrant_again (s : State) : arrayGrant (arrayGrant s) = arrayGrant s := by
  rcases ha : s.arrPort.access with _ | acc
  · rcases hl : s.arrPort.loaderWait with _ | g
    · rcases hw : s.arrPort.storeWait with _ | r
      · rw [arrayGrant_idle hl hw, arrayGrant_idle hl hw]
      · by_cases hr : r.mayRun s.rows.loader = true
        · exact arrayGrant_busy (by simp [arrayGrant, ha, hl, hw, hr])
        · have : arrayGrant s = s := by simp [arrayGrant, ha, hl, hw, hr]
          rw [this, this]
    · exact arrayGrant_busy (by simp [arrayGrant, ha, hl])
  · have : arrayGrant s = s := arrayGrant_busy (by rw [ha]; rfl)
    rw [this, this]

/-- The grant that follows a request finds nothing more to grant. -/
theorem arrayGrant_storeRequest (r : StoreReq) (s : State) : arrayGrant (storeRequest r s) = storeRequest r s := by
  rcases hb : s.storeBusy with _ | _
  · rw [storeRequest_free r hb, arrayGrant_again]
  · rw [storeRequest_busy r hb]
    apply arrayGrant_busy
    unfold State.storeBusy at hb
    rcases ha : s.arrPort.access with _ | acc
    · simp [ha] at hb
    · rfl

/-- A request counts its pulse exactly when it is granted at once. -/
theorem storeRequest_counts {s : State} {f : InFlight} (r : StoreReq) (h : s.store.inFlight = some f) :
    ∃ n, (storeRequest r s).countsGrant r 0 n ∧ (storeRequest r s).store = { s.store with
      inFlight := some (if n = 1 then f.countGrant r else f), deferred := s.putsOff r } := by
  have h0 : s.store = { s.store with inFlight := some f } := by rw [← h]
  rcases hb : s.storeBusy with _ | _
  case true =>
    refine ⟨0, ?_, ?_⟩
    · rw [storeRequest_busy _ hb]
      unfold State.countsGrant
      unfold State.storeBusy at hb
      rw [if_neg]
      rintro ⟨k, -⟩
      simp only at k
      rw [k] at hb
      cases r <;> simp at hb
    · rw [storeRequest_busy _ hb]
      simp [State.putsOff, hb, h]
  have hd : s.putsOff r = s.store.deferred := by simp [State.putsOff, hb]
  rw [storeRequest_free _ hb, hd]
  rcases ha : s.arrPort.access with _ | acc
  · rcases hl : s.arrPort.loaderWait with _ | g
    · by_cases hr : r.mayRun s.rows.loader = true
      · exact ⟨1, by simp [State.countsGrant, arrayGrant, ha, hl, hr], by simp [arrayGrant, ha, hl, hr, h]⟩
      · refine ⟨0, by simp [State.countsGrant, arrayGrant, ha, hl, hr], ?_⟩
        simpa [arrayGrant, ha, hl, hr] using h0
    · exact ⟨0, by simp [State.countsGrant, arrayGrant, ha, hl], by simpa [arrayGrant, ha, hl] using h0⟩
  · exact ⟨0, by simp [State.countsGrant, arrayGrant, ha], by simpa [arrayGrant, ha] using h0⟩

theorem countsGrant_add {t : State} {r : StoreReq} {n : Nat} (h : t.countsGrant r 0 n) (k : Nat) :
    t.countsGrant r k (k + n) := by
  unfold State.countsGrant at *
  split at h <;> simp_all

/-- A program pulse presented with LOWV# high. -/
theorem presentPulse_pulse {s : State} {f : InFlight} {p : ProgOp} (u : ArrUnit) (hl : s.part.lowv = false)
    (h : s.store.inFlight = some f) (hp : f.prog = some p) :
    s.presents (presentPulse (.pulse u) s) (.pulse u) ∧
      ∃ n, (presentPulse (.pulse u) s).countsGrant (.pulse u) p.pulses n ∧ (presentPulse (.pulse u) s).store =
        { s.store with
          inFlight := some { f with prog := some { p with pulses := n } }, deferred := s.putsOff (.pulse u) } := by
  have e : presentPulse (.pulse u) s = storeRequest (.pulse u) s := by simp [presentPulse, hl]
  rw [e]
  refine ⟨presents_storeRequest _ _, ?_⟩
  obtain ⟨n, hn, hs⟩ := storeRequest_counts (.pulse u) h
  refine ⟨p.pulses + n, countsGrant_add hn _, ?_⟩
  rw [hs]
  unfold State.countsGrant at hn
  split at hn <;> subst hn <;> simp [InFlight.countGrant, hp]
  rw [← hp]

/-- A sub-pulse presented with LOWV# high. -/
theorem presentPulse_subPulse {s : State} {f : InFlight} {e : EraseOp} (u : EraseUnit) (hl : s.part.lowv = false)
    (h : s.store.inFlight = some f) (he : f.erase = some e) :
    s.presents (presentPulse (.subPulse u) s) (.subPulse u) ∧
      ∃ n, (presentPulse (.subPulse u) s).countsGrant (.subPulse u) e.given n ∧ (presentPulse (.subPulse u) s).store =
        { s.store with
          inFlight := some { f with erase := some { e with given := n } }, deferred := s.putsOff (.subPulse u) } := by
  have e1 : presentPulse (.subPulse u) s = storeRequest (.subPulse u) s := by simp [presentPulse, hl]
  rw [e1]
  refine ⟨presents_storeRequest _ _, ?_⟩
  obtain ⟨n, hn, hs⟩ := storeRequest_counts (.subPulse u) h
  refine ⟨e.given + n, countsGrant_add hn _, ?_⟩
  rw [hs]
  unfold State.countsGrant at hn
  split at hn <;> subst hn <;> simp [InFlight.countGrant, he]
  rw [← he]

/-- With LOWV# high the grant that follows a presented pulse finds nothing more to grant. -/
theorem arrayGrant_presentPulse (r : StoreReq) {s : State} (hl : s.part.lowv = false) :
    arrayGrant (presentPulse r s) = presentPulse r s := by
  simp [presentPulse, hl, arrayGrant_storeRequest]

/-- A program operation begins with LOWV# high and the pulse count `k`, below the limit. -/
theorem startProg_counts {s : State} {f : InFlight} (u : ArrUnit) (l : List Byte) {k : Nat} (hk : k < 12)
    (hl : s.part.lowv = false) (h : s.store.inFlight = some f) :
    s.presents (startProg u l k s) (.pulse u) ∧ arrayGrant (startProg u l k s) = startProg u l k s ∧
      ∃ n, (startProg u l k s).countsGrant (.pulse u) k n ∧ (startProg u l k s).store = { s.store with
        inFlight := some { f with
          prog := some { place := u, target := l, set := pulsedPlaces l, pulses := n, phase := .pulsing } }
        deferred := s.putsOff (.pulse u) } := by
  have hf : firstSet l = pulsedPlaces l := by
    unfold firstSet differing pulsedPlaces
    apply List.filter_congr
    intro j hj
    rw [List.mem_range] at hj
    simp [byteAt, List.getD, hj, eq_comm]
  have e : startProg u l k s = presentPulse (.pulse u) (s.withFlight fun f => { f with
      prog := some { place := u, target := l, set := pulsedPlaces l, pulses := k, phase := .pulsing } }) := by
    unfold startProg
    dsimp only
    rw [if_neg (by omega), hf]
  rw [e]
  have hl' : (s.withFlight fun f => { f with
      prog := some { place := u, target := l, set := pulsedPlaces l, pulses := k, phase := .pulsing } }).part.lowv
        = false := hl
  obtain ⟨h1, n, h2, h3⟩ := presentPulse_pulse (f := { f with
    prog := some { place := u, target := l, set := pulsedPlaces l, pulses := k, phase := .pulsing } }) u hl'
    (by simp [State.withFlight, h]) rfl
  exact ⟨h1.from rfl rfl rfl, arrayGrant_presentPulse _ hl', n, h2, h3⟩
/-- With LOWV# asserted the operation is cut where it would present its first pulse. -/
theorem startProg_cut {s : State} (u : ArrUnit) (l : List Byte) {k : Nat} (hk : k < 12) (hl : s.part.lowv = true) :
    startProg u l k s = cutBySupply (s.withFlight fun f => { f with
      prog := some { place := u, target := l, set := firstSet l, pulses := k, phase := .pulsing } }) := by
  unfold startProg
  dsimp only
  rw [if_neg (by omega), presentPulse, withFlight_part, hl]
  rfl

/-- A wanted read of the command in flight completes: it is delivered on the free port. -/
theorem arrayReadComplete_flight {s : State} {f : InFlight} {u : ArrUnit}
    (h : s.arrPort.access = some (.store (.read u) false)) (hs : s.store.scan = none) (hf : s.store.inFlight = some f) :
    arrayReadComplete s = arrayGrant (flightRead f (s.rawBytes u) s.portFree) := by
  have hs' : (freeArrayPort s).store.scan = none := hs
  have hf' : (freeArrayPort s).store.inFlight = some f := hf
  simp only [arrayReadComplete, h, storeReadDone, hs', hf']
  rfl

/-- The verify read of a program operation decides how it goes on. -/
theorem flightRead_verify {f : InFlight} {p : ProgOp} (hp : f.prog = some p) (hv : p.phase = .verifying)
    (raw : List Byte) (s : State) : flightRead f raw s = progVerified f p raw s := by
  unfold flightRead; rw [hp]; simp [hv]

/-- A verify read that finds the target ends the operation. -/
theorem progVerified_done {f : InFlight} {p : ProgOp} {raw : List Byte} (h : raw = p.target) (s : State) :
    progVerified f p raw s = progDone f p s := by
  subst h
  have : differing p.target p.target = [] := by simp [differing]
  simp [progVerified, this]

/-! ## The operations that begin with a pulse -/

theorem prewriteUnit_eq (u : EraseUnit) (k : Nat) : u.prewriteUnit k = prewriteTarget u k := by cases u <;> rfl

theorem prewriteUnit_size (u : EraseUnit) (k : Nat) : (prewriteTarget u k).size = prewriteSize u k := by
  cases u
  · simp only [prewriteTarget, prewriteSize]; split <;> rfl
  · rfl

/-- Every byte of a prewrite is pulsed. -/
theorem pulsedPlaces_zero (n : Nat) : pulsedPlaces (List.replicate n 0) = List.range n := by
  unfold pulsedPlaces
  rw [List.filter_eq_self.2]
  · simp
  · intro k hk
    simp at hk
    simp [byteAt, List.getD, hk]

/-- An operation of a prewrite begins with LOWV# high. -/
theorem startPrewrite_counts {s : State} {f : InFlight} (u : EraseUnit) (k : Nat) (hl : s.part.lowv = false)
    (h : s.store.inFlight = some f) :
    s.presents (startPrewrite u k s) (.pulse (prewriteTarget u k)) ∧
      arrayGrant (startPrewrite u k s) = startPrewrite u k s ∧
      ∃ n, (startPrewrite u k s).countsGrant (.pulse (prewriteTarget u k)) 0 n ∧ (startPrewrite u k s).store =
        { s.store with
          inFlight := some { f with
            prog := some (prewriteOp u k n), erase := some { target := u, stage := .prewrite k, pace := 0, given := 0 } }
          deferred := s.putsOff (.pulse (prewriteTarget u k)) } := by
  let g := fun f : InFlight => { f with erase := some { target := u, stage := .prewrite k, pace := 0, given := 0 } }
  have e : startPrewrite u k s =
      startProg (prewriteTarget u k) (List.replicate (prewriteSize u k) 0) 0 (s.withFlight g) := by
    rw [← prewriteUnit_eq, ← prewriteUnit_size, ← prewriteUnit_eq]; rfl
  obtain ⟨h1, h2, n, h3, h4⟩ := startProg_counts (s := s.withFlight g) (f := g f) (prewriteTarget u k)
    (List.replicate (prewriteSize u k) 0) (k := 0) (by decide) hl (by simp [State.withFlight, h])
  rw [e]
  refine ⟨h1.from rfl rfl rfl, h2, n, h3, ?_⟩
  rw [h4, pulsedPlaces_zero]
  rfl

/-- The sub-pulse phase goes on, or begins, with LOWV# high. -/
theorem startSubPulse_counts {s : State} {f : InFlight} (e : EraseOp) (hl : s.part.lowv = false)
    (h : s.store.inFlight = some f) :
    s.presents (startSubPulse e s) (.subPulse e.target) ∧ arrayGrant (startSubPulse e s) = startSubPulse e s ∧
      ∃ n, (startSubPulse e s).countsGrant (.subPulse e.target) e.given n ∧ (startSubPulse e s).store =
        { s.store with
          inFlight := some { f with erase := some { e with stage := .subPulsing, given := n } }
          deferred := s.putsOff (.subPulse e.target) } := by
  let g := fun f : InFlight => { f with erase := some { e with stage := .subPulsing } }
  obtain ⟨h1, n, h3, h4⟩ := presentPulse_subPulse (s := s.withFlight g) (f := g f) (e := { e with stage := .subPulsing })
    e.target hl (by simp [State.withFlight, h]) rfl
  exact ⟨h1.from rfl rfl rfl, arrayGrant_presentPulse (s := s.withFlight g) _ hl, n, h3, h4⟩

/-- The record of a map write with this completion marker. -/
abbrev MapOp.bytes (m : MapOp) (marker : Byte) : List Byte :=
  recordBytes { generation := m.generation, map := m.map, mask := m.mask } marker

/-- The first operation of a slot begins with LOWV# high. -/
theorem startSlot_counts {s : State} {f : InFlight} (m : MapOp) (ar : Area) (n : Fin 8) (hl : s.part.lowv = false)
    (h : s.store.inFlight = some f) :
    s.presents (startSlot m ar n s) (.pulse (.slot ar n.val)) ∧ arrayGrant (startSlot m ar n s) = startSlot m ar n s ∧
      ∃ k, (startSlot m ar n s).countsGrant (.pulse (.slot ar n.val)) 0 k ∧ (startSlot m ar n s).store =
        { s.store with
          inFlight := some { f with
            erase := none, mapw := some { m with stage := .body, area := ar, slot := n }
            prog := some { place := .slot ar n.val, target := m.bytes 0xFF, set := pulsedPlaces (m.bytes 0xFF)
                           pulses := k, phase := .pulsing } }
          deferred := s.putsOff (.pulse (.slot ar n.val)) } := by
  let g := fun f : InFlight => { f with erase := none, mapw := some { m with stage := .body, area := ar, slot := n } }
  obtain ⟨h1, h2, k, h3, h4⟩ := startProg_counts (s := s.withFlight g) (f := g f) (.slot ar n.val) (m.bytes 0xFF)
    (k := 0) (by decide) hl (by simp [State.withFlight, h])
  exact ⟨h1.from rfl rfl rfl, h2, k, h3, h4⟩

/-- The second operation of a slot begins with LOWV# high and the pulse count below the limit. -/
theorem startMarker_counts {s : State} {f : InFlight} (m : MapOp) {k : Nat} (hk : k < 12) (hl : s.part.lowv = false)
    (h : s.store.inFlight = some f) :
    s.presents (startMarker m k s) (.pulse (.slot m.area m.slot.val)) ∧
      arrayGrant (startMarker m k s) = startMarker m k s ∧
      ∃ n, (startMarker m k s).countsGrant (.pulse (.slot m.area m.slot.val)) k n ∧ (startMarker m k s).store =
        { s.store with
          inFlight := some { f with
            mapw := some { m with stage := .marker }
            prog := some { place := .slot m.area m.slot.val, target := m.bytes 0, set := pulsedPlaces (m.bytes 0)
                           pulses := n, phase := .pulsing } }
          deferred := s.putsOff (.pulse (.slot m.area m.slot.val)) } := by
  let g := fun f : InFlight => { f with mapw := some { m with stage := .marker } }
  obtain ⟨h1, h2, n, h3, h4⟩ := startProg_counts (s := s.withFlight g) (f := g f) (.slot m.area m.slot.val) (m.bytes 0)
    hk hl (by simp [State.withFlight, h])
  exact ⟨h1.from rfl rfl rfl, h2, n, h3, h4⟩

theorem slotAfter_eq (n : Fin 8) : slotAfter n = afterSlot n := by revert n; decide

theorem areaToErase_eq (j : Journal) : j.areaToErase = j.spareArea := rfl

/-- A map write that finds a slot in the active area begins there. -/
theorem chooseSlot_next (m : MapOp) {n : Fin 8} {s : State} (h : s.store.journal.next = some n) :
    chooseSlot m s = startSlot m s.store.journal.active n s := by
  unfold chooseSlot; rw [h]

/-- A map write that finds none erases the area that does not hold the latest record. -/
theorem chooseSlot_erases (m : MapOp) {s : State} {f : InFlight} (hn : s.store.journal.next = none)
    (hl : s.part.lowv = false) (h : s.store.inFlight = some f) :
    s.erasesArea (chooseSlot m s) f m ∧ ∃ i, (chooseSlot m s).store =
      { s.store with inFlight := i, deferred := s.putsOff (.pulse (.slot s.store.journal.spareArea 0)) } := by
  let g := fun f : InFlight => { f with mapw := some { m with stage := .areaErase, area := s.store.journal.spareArea } }
  have e : chooseSlot m s = startPrewrite (.area s.store.journal.spareArea) 0 (s.withFlight g) := by
    unfold chooseSlot; rw [hn]; rfl
  obtain ⟨h1, h2, n, h3, h4⟩ := startPrewrite_counts (s := s.withFlight g) (f := g f) (.area s.store.journal.spareArea)
    0 hl (by simp [State.withFlight, h])
  rw [e]
  refine ⟨⟨h1.from rfl rfl rfl, n, h3, ?_⟩, _, h4⟩
  rw [h4]

/-! ## The choice of a spare -/

theorem foldl_const_none (l : List Bank) : l.foldl (fun (best : Option Bank) (_ : Bank) => best) none = none := by
  induction l with
  | nil => rfl
  | cons a l ih => exact ih

/-- With no bank of a role there is none to choose. -/
theorem lowestWith_none {v : Vector BankEntry 16} {r : Role} (h : ∀ b : Bank, (v.get b).role ≠ r) :
    lowestWith v r = none := by
  unfold lowestWith
  simp only [h, if_false]
  exact foldl_const_none _

/-- The bank that `b` is no better than, by count and then by number. -/
theorem lowestWith_foldl {v : Vector BankEntry 16} {r : Role} {b : Bank} (hb : (v.get b).role = r)
    (hmin : ∀ c : Bank, (v.get c).role = r → (v.get b).count.toNat < (v.get c).count.toNat ∨
      ((v.get b).count = (v.get c).count ∧ b.val ≤ c.val)) (l : List Bank) (hs : l.Pairwise fun x y => x.val < y.val)
    (best : Option Bank) (hbest : best = some b ∨ b ∈ l ∧ ∀ c, best = some c → (v.get c).role = r ∧ ∀ x ∈ l, c.val < x.val) :
    l.foldl (fun best c =>
      if (v.get c).role = r then
        match best with
        | none => some c
        | some d => if (v.get c).count < (v.get d).count then some c else best
      else best) best = some b := by
  induction l generalizing best with
  | nil =>
    rcases hbest with h | ⟨h, -⟩
    · exact h
    · cases h
  | cons c l ih =>
    rw [List.foldl_cons]
    apply ih (List.pairwise_cons.1 hs).2
    rcases hbest with rfl | ⟨hm, hc⟩
    · left
      by_cases hr : (v.get c).role = r
      · have : ¬(v.get c).count < (v.get b).count := by
          rw [BitVec.lt_def]
          rcases hmin c hr with h | ⟨h, -⟩
          · omega
          · rw [h]; omega
        simp [hr, this]
      · simp [hr]
    · by_cases hcb : c = b
      · subst hcb
        left
        rcases best with _ | d
        · simp [hb]
        · obtain ⟨hd, hlt⟩ := hc d rfl
          have h1 := hlt c (List.mem_cons_self ..)
          have : (v.get c).count < (v.get d).count := by
            rw [BitVec.lt_def]
            rcases hmin d hd with h | ⟨-, h⟩
            · exact h
            · omega
          simp [hb, this]
      · right
        refine ⟨(List.mem_cons.1 hm).resolve_left (Ne.symm hcb), ?_⟩
        have hl : ∀ x ∈ l, c.val < x.val := (List.pairwise_cons.1 hs).1
        intro x hx
        have hold : best = some x → (v.get x).role = r ∧ ∀ y ∈ l, x.val < y.val := fun h =>
          ⟨(hc x h).1, fun y hy => (hc x h).2 y (List.mem_cons_of_mem _ hy)⟩
        by_cases hr : (v.get c).role = r
        · rw [if_pos hr] at hx
          rcases best with _ | d
          · cases hx; exact ⟨hr, hl⟩
          · dsimp only at hx
            split at hx
            · cases hx; exact ⟨hr, hl⟩
            · exact hold hx
        · rw [if_neg hr] at hx
          exact hold hx

/-- The bank of the lowest count with a role, and of equals the lowest number, is the one chosen (R117). -/
theorem lowestWith_eq {s : State} {r : Role} {b : Bank} (h : s.lowestOf r b) : lowestWith s.store.roles r = some b := by
  refine lowestWith_foldl h.1 h.2 allBanks (by decide) none (.inr ⟨?_, by simp⟩)
  have : ∀ b : Bank, b ∈ allBanks := by decide
  exact this b

theorem anyDraining_iff (v : Vector BankEntry 16) :
    anyDraining v = true ↔ ∃ b : Bank, (v.get b).role = .spareDraining := by
  unfold anyDraining
  simp only [List.any_eq_true, decide_eq_true_eq]
  constructor
  · rintro ⟨e, he, hr⟩
    obtain ⟨i, hi, rfl⟩ := List.getElem_of_mem he
    exact ⟨⟨i, by simpa using hi⟩, by simpa [Vector.get] using hr⟩
  · rintro ⟨b, hb⟩
    exact ⟨v.get b, by simp [Vector.get, Vector.toList], hb⟩

/-- BEGIN's choice, by what the roles offer (R117). -/
theorem chooseSpare_clean {s : State} {b : Bank} (h : s.lowestOf .spareClean b) :
    chooseSpare s.store.roles = .clean b := by
  unfold chooseSpare; rw [lowestWith_eq h]

theorem chooseSpare_dirty {s : State} {b : Bank} (h : s.noBank .spareClean) (k : s.lowestOf .spareDirty b) :
    chooseSpare s.store.roles = .dirty b := by
  unfold chooseSpare; rw [lowestWith_none h, lowestWith_eq k]

theorem chooseSpare_none {s : State} (h : s.noBank .spareClean) (k : s.noBank .spareDirty) :
    chooseSpare s.store.roles = if anyDraining s.store.roles then .wait else .noSpare := by
  unfold chooseSpare; rw [lowestWith_none h, lowestWith_none k]

/-! ## The command in flight -/

theorem freshBody_of {s : State} {f : InFlight} (h : s.store.inFlight = some f) (k : f.stage = .fresh) :
    s.freshBody = some f.entry.body := by
  simp [State.freshBody, h, k]

theorem logicalOf_eq {v : Byte} {l : Logical} (h : v.toNat = l.val) : logicalOf v = some l := by
  unfold logicalOf
  have hl := l.isLt
  rw [if_pos (by omega), h]
  simp

theorem logicalOf_none {v : Byte} (h : 13 < v.toNat) : logicalOf v = none := by
  unfold logicalOf
  rw [if_neg (by omega)]

/-- A vector with one place set. -/
theorem vector_get_set {α : Type} {n : Nat} (v : Vector α n) (i j : Fin n) (x : α) :
    (v.set i.val x i.isLt).get j = if j = i then x else v.get j := by
  show (v.set i.val x i.isLt)[j.val] = if j = i then x else v[j.val]
  rw [Vector.getElem_set]
  simp only [Fin.ext_iff, eq_comm]

/-- Changing one role changes no count and no estimated mark. -/
theorem setRole_roles (s : State) (b c : Bank) (r : Role) :
    (s.setRole b r).store.roles.get c = if c = b then { s.store.roles.get c with role := r } else s.store.roles.get c := by
  show (s.store.roles.set b.val _ b.isLt).get c = _
  rw [vector_get_set]
  by_cases h : c = b
  · subst h; simp
  · simp [h]

end Sys2Proof.Machine
end

