-- ==== Sys2Proof/WellFormed.lean ====
section
/-! DEFINITION. Which command terms have the operands their row of the table describes. The machine gives every term a
meaning, well-formed or not: a strobe does what the port and the byte make it do. -/

namespace Sys2Proof

/-- The row's own operands: the byte of a DISPCTL write that sets or clears ENABLE (R23, R24), a code that is none of
the eight commands (R171), the ports of REGISTER_WRITE, IFLAG_CLEAR and IFLAG_READ (R166, R173), and a low run that
lasts at least one period (R155). Every other term is well-formed. -/
def Instr.wellFormed : Instr → Bool
  | .displayEnable v => v.getLsbD 0
  | .displayDisable v => !v.getLsbD 0
  | .badCommand code => decide (code = 0) || decide (8 < code.toNat)
  | .registerWrite port _ => decide (1 ≤ port.toNat) && decide (port.toNat ≤ 4)
  | .iflagClear port _ => decide (port = 5) || decide (port = 6)
  | .iflagRead port => decide (port = 5) || decide (port = 6)
  | .lowRun n => decide (1 ≤ n)
  | .powerOn => true
  | .reset => true
  | .resetRelease _ => true
  | .lowvAsserted => true
  | .lowvReleased => true
  | .frameStart => true
  | .lineStart => true
  | .endOfTheActiveDots => true
  | .displayReset => true
  | .swapList => true
  | .submit => true
  | .popResult => true
  | .ackHalt => true
  | .storeAbort => true
  | .moverStart => true
  | .moverAbort => true
  | .panelwLowByteWrite _ => true
  | .panelwHighByteWrite _ => true
  | .framecntLowByteRead => true
  | .framecntHighByteRead => true
  | .mvdoneLowByteRead => true
  | .mvdoneHighByteRead => true
  | .cellLowByteWrite _ => true
  | .cellHighByteWrite _ => true
  | .cellLowByteRead => true
  | .cellHighByteRead => true
  | .descriptorByteWrite _ => true
  | .attributeByteWrite _ => true
  | .patchSlotWrite _ => true
  | .winfaultClear _ => true
  | .heldWindowAccess => true
  | .cellPortComplete => true
  | .arrayReadComplete => true
  | .programPulseComplete => true
  | .pulseLimitReached => true
  | .eraseSubpulseComplete => true
  | .subpulseBudgetSpent => true
  | .storeCommandStart => true
  | .cmdBegin => true
  | .beginChooseAgain => true
  | .cmdClone => true
  | .cmdProgram => true
  | .cmdCommit => true
  | .cmdAbandon => true
  | .cmdScrub => true
  | .cmdReadglyph => true
  | .cmdCheck => true
  | .badKind => true
  | .startUpScanEnd => true
  | .byteReceived _ => true
  | .framingError => true
  | .serviceBreak => true
  | .interByteTimeout => true
  | .confirmTimeout => true
  | .bRecord => true
  | .cRecord => true
  | .gRecord => true
  | .mRecord => true
  | .aRecord => true
  | .qRecord => true
  | .eRecord => true
  | .heldRecord => true
  | .transmissionEnd => true
  | .dataRead => true

end Sys2Proof
end

