-- ==== Sys2Proof/Tests/Slice0.lean ====
section
/-! SUPPORT. Tests: ill-formed terms, small steps with results taken from spec/, and for every statement with hypotheses a
witness that meets them, clause by clause. -/

namespace Sys2Proof.Tests

open Sys2Proof Sys2Proof.Machine

/- The tests are checked one after another: waiting side by side for the kernel, they ask for more threads than the check gives. -/
set_option Elab.async false

/-! ## States -/

/-- The part after a start-up with the identity map, idle, in normal mode. -/
def idle : State :=
  { State.reset with
    scan := { State.reset.scan with displayMap := identityMap }
    arrPort := { State.reset.arrPort with access := none }
    store := { State.reset.store with
      engine := .idle, scan := none, storeMap := identityMap, roles := scannedRoles identityMap 0 [] } }

/-- DATA accesses fall at byte `a` of space `sp`. -/
def at_ (sp : BitVec 3) (a : Word16) (s : State) : State := { s with win := { s.win with space := sp, addr := a } }

/-- The part in service mode. -/
def service (s : State) : State :=
  { s with part := { s.part with service := true }, store := { s.store with owner := .loader } }

/-- The port of loader events. -/
def svc (st : SvcState) (s : State) : State := { s with svc := { s.svc with state := st } }

/-- The store engine in this state, with this wait reason. -/
def engine (e : Engine) (w : WaitReason) (s : State) : State :=
  { s with store := { s.store with engine := e, wait := w } }

/-- A queue of `n` ABANDON commands. -/
def queued (n : Nat) (s : State) : State :=
  { s with store := { s.store with queue := List.replicate n { kind := 5, seq := 0, submitter := .host, body := .abandon } } }

/-- A result of no interest. -/
def result : ResultRec :=
  { seq := 0, kind := 5, outcome := .done, error := .none, phys := none, discarded := 0, detail := 0, checkval := 0
    generation := 0, eraseCount := 0, submitter := .host, estimated := false, image := noImage }

/-- `n` results wait. -/
def results (n : Nat) (s : State) : State := { s with store := { s.store with results := List.replicate n result } }

/-- A command in flight. -/
def flight (body : CmdBody) (stage : CmdStage) : InFlight :=
  { entry := { kind := 0, seq := 9, submitter := .host, body := body }, stage := stage, prog := none, erase := none
    mapw := none }

/-- The engine runs this command. -/
def running (f : InFlight) (s : State) : State :=
  { s with store := { s.store with engine := .running, inFlight := some f } }

/-- A staging of bank 14 for logical bank 3. -/
def staging (filling : Bool) (s : State) : State :=
  { s with store := { s.store with
      staging := some { bank := 14, target := 3, filling := filling, written := 0 }
      roles := s.store.roles.set 14 { role := .staging, count := 5, estimated := false } } }

/-- A program operation on glyph 63 of bank 14 that writes an erased glyph's first byte. -/
def prog (phase : ProgPhase) (pulses : Nat) : ProgOp :=
  { place := .glyph 14 63, target := 0 :: List.replicate 15 0xFF, set := [0], pulses := pulses, phase := phase }

/-- A map write of slot 7 of area B. -/
def mapOp (stage : MapStage) (second : Bool) : MapOp :=
  { stage := stage, area := .b, slot := 7, second := second, generation := 1, map := identityMap, mask := 0 }

/-- An erase of this unit. -/
def erase (u : EraseUnit) (stage : EraseStage) : EraseOp := { target := u, stage := stage, pace := 3, given := 400 }

/-- This access is in progress at the array port. -/
def arrAccess (a : ArrAccess) (s : State) : State := { s with arrPort := { s.arrPort with access := some a } }

/-- This request of the store engine waits at the array port. -/
def arrWait (r : StoreReq) (s : State) : State := { s with arrPort := { s.arrPort with storeWait := some r } }

/-- This access is in progress at the cell port. -/
def cellAccess (who : CellClaimant) (r : CellReq) (ab : Bool) (s : State) : State :=
  { s with cellPort := { s.cellPort with access := some ⟨who, r, ab⟩ } }

/-- A patch slot 0 that is valid and holds code 5. -/
def patched (s : State) : State := { s with patch := s.patch.write 0 5, patchValid := 1 }

/-- A display that is enabled, at this place of a frame with PANELW 8, one visible line and one blank line. -/
def display (pos : FramePos) (part : LinePart) (s : State) : State :=
  { s with
    scan := { s.scan with
      enabled := true, pos := pos, part := part
      cfg := { panelw := 8, vislines := 2, hblank := 8, vblank := 1, cellw := 8, blinkp := 1 } }
    rows := { s.rows with loader := .resting } }

/-- A descriptor of a row of one line and two cells. -/
def row (marquee : Bool) : Descriptor :=
  { next := 255, mark := true, markAll := false, double := false, force := false, marquee := marquee, hide := false
    revRow := false, underRow := false, base := 0, width := 2, first := 0, count := 1, pan := 0, wide := false
    repeats := 0, forceAttr := 0, ringBase := 0, ringLen := 255, stepDots := 8, interval := 1, posCell := 254
    posDot := 255, fCount := 0 }

/-- Its instance at cell addresses 4095 and 0. -/
def inst : RowInst :=
  { index := 47, number := 0, desc := row false, pan := 0, addrs := [4095, 0], entries := [Entry.blank, Entry.blank] }

/-- The loading buffer holds that instance. -/
def loading (s : State) : State := { s with rows := { s.rows with buf0 := some inst } }

/-- The displaying buffer holds it, with its row start at visible line 0. -/
def showing (s : State) : State :=
  { s with rows := { s.rows with buf1 := some { inst with desc := { row false with double := true } } }
           scan := { s.scan with rowStart := some 0 } }

/-- The loader works on entry 0 of the instance in the loading buffer. -/
def working (s : State) : State :=
  { loading s with rows := { (loading s).rows with
      loader := .loading, work := some { entry := 0, addr := 4095, phase := .cellRead } } }

/-- Whether a step answers a next state of which `p` holds. -/
def after (o : Host.Outcome State Fault Refusal) (p : State → Bool) : Bool :=
  match o with
  | .next t => p t
  | _ => false

/-! ## Terms -/

theorem test_displayEnable_illFormed : (Instr.displayEnable 0xFE).wellFormed = false := by decide
theorem test_displayDisable_illFormed : (Instr.displayDisable 1).wellFormed = false := by decide
theorem test_badCommand_illFormed : (Instr.badCommand 8).wellFormed = false := by decide
theorem test_registerWrite_illFormed : (Instr.registerWrite 5 0).wellFormed = false := by decide
theorem test_iflagClear_illFormed : (Instr.iflagClear 7 0).wellFormed = false := by decide
theorem test_iflagRead_illFormed : (Instr.iflagRead 4).wellFormed = false := by decide
theorem test_lowRun_illFormed : (Instr.lowRun 0).wellFormed = false := by decide
theorem test_badCommand_wellFormed : (Instr.badCommand 9).wellFormed = true := by decide

/-- No row of the table gives bits, so no word spells a command. -/
theorem test_decode_none : decodeTableWord 8 0 = none := by decide

/-! ## Steps, with results from spec/ -/

/-- R49: cell 4095 is bytes 8190 and 8191 of space 1. -/
theorem test_cellOfAddr_last : cellOfAddr 8191 = 4095 := by decide

/-- R51 and R168: the completion of a cell write at the last byte of space 1 steps the address to 8192. -/
theorem test_cellPortComplete_write :
    after (exec .cellPortComplete { cellAccess .host (.write 4095 0xABCD) false (at_ 1 8191 idle) with
      win := { (at_ 1 8191 idle).win with cellOp := some .write } })
      (fun t => t.cell 4095 == 0xABCD && t.cells.read 8190 == 0xCD && t.win.addr == 8192) = true := by decide +kernel

/-- R45: an operation begun while a write cut loose by DISPLAY RESET is in progress presents its first request at the
completion of that write. -/
theorem test_moverStart_putOff :
    after (exec .moverStart (cellAccess .mover (.write 0 1) true
        { idle with mover := { idle.mover with mvkind := 1, mvcnt := 1, mvdst := 5, mvval := 7 } }))
      (fun t => t.cellPort.moverWait == none && after (exec .cellPortComplete t) fun u =>
        u.cellPort.access == some ⟨.mover, .write 5 7, false⟩ && u.cell 0 == 1) = true := by decide +kernel

/-- R168: the address wraps from 65,535 to 0 after a refused read. -/
theorem test_dataRead_wraps :
    after (exec .dataRead (at_ 7 0xFFFF idle)) (fun t => t.win.addr == 0 && t.win.winfault == .range) = true := by
  decide +kernel

/-- R36: low byte 00H, then high byte 02H, makes PANELW 512. -/
theorem test_panelw_512 :
    after (exec (.panelwLowByteWrite 0) (at_ 0 1 idle)) (fun t =>
      after (exec (.panelwHighByteWrite 2) t) fun u => u.ctl.panelw == 512 && u.win.winfault == .none) = true := by
  decide +kernel

/-- R61: a COPY to the next cell runs descending. -/
theorem test_copyDescends : copyDescends 4095 0 2 = true := by decide

/-- R20: a window at ring offset 254 of 255 with 255 dots and a step of 8 moves on round the ring. -/
theorem test_advancedPosition : advancedPosition (row true) 8 = (31, 7, 0) := by decide +kernel

/-- R21, worked example of chapter 1 at frame start F4: POSCELL 0, POSDOT 1 and FCOUNT 1 in the table of descriptor 0, CELLW 6,
a ring of 10 cells from cell 2000, STEP 4 and INTERVAL 2, WIDTH 4, and the host at POSDOT. -/
def atF4 : State :=
  let d := display (.visible 1) .blankDots (at_ 2 14 idle)
  { d with
    ctl := { d.ctl with cellw := 6 }, scan := { d.scan with headact := 0 }
    descs := d.descs.writeAll [(0, 255), (1, 0x10), (4, 4), (8, 0xD0), (9, 7), (10, 10), (11, 4), (12, 2), (14, 1), (15, 1)] }

/-- The frame start F4, its first latch left to the next step. -/
def latchLeft : State :=
  let t := frameSettings atF4
  { t with scan := { t.scan with latchDue := true } }

/-- R21: with the advance first the host's POSDOT 8 stands in the table, and the latch uses pan 2 and offsets 1 to 4. -/
theorem test_descriptorWrite_afterAdvance :
    after (exec (.descriptorByteWrite 8) latchLeft) (fun t =>
      decide ([13, 14, 15].map t.descs.read = [0, 8, 0]) && decide (t.rows.loading.map RowInst.pan = some 2) &&
        decide (t.rows.loading.map RowInst.addrs = some [2001, 2002, 2003, 2004]) && !t.scan.latchDue) = true := by
  decide +kernel

/-- R40: with no FRAME_START, as while DCLK is stopped, a descriptor write in the last line's blank dots opens no frame. -/
theorem test_descriptorWrite_opensNoFrame :
    after (exec (.descriptorByteWrite 8) atF4)
      (fun t => t.frameDue && t.scan.framecnt == 0 && t.rows == atF4.rows && t.descs.read 14 == 8) = true := by
  decide +kernel

/-- R89: with WIDE each stream column is shown twice. -/
theorem test_lineDots_wide :
    lineDots { panelw := 8, vislines := 1, hblank := 8, vblank := 1, cellw := 5, blinkp := 1 } true
      { inst with desc := { row false with wide := true }, pan := 1
                  entries := [{ Entry.blank with state := .complete, slices := [0b01010000] }] } 0
      = [true, true, false, false, true, true, false, false] := by decide +kernel

/-- R141: a record with its marker reads back as that record. -/
theorem test_record_reads_back :
    classify (recordBytes { generation := 0x010203, map := identityMap, mask := 0x8000 } 0)
      = .valid { generation := 0x010203, map := identityMap, mask := 0x8000 } := by decide +kernel

/-- R151: with no valid slot the identity map is taken and MAPDEFAULT is set. -/
theorem test_scanEnd_default :
    after (exec .startUpScanEnd { State.reset with store := { State.reset.store with
        scan := some { slots := List.replicate 16 .spoiled, headers := List.replicate 16 none } } })
      (fun t => t.store.storeMap == identityMap && t.irq.isSet .mapDefault && t.irq.isSet .startDone &&
        t.store.engine == .idle && (t.store.roles.get 15).role == .spareDirty) = true := by decide +kernel

/-- R149 and R151: of two valid slots the higher generation is adopted, and the next slot is the first erased one. -/
theorem test_scanEnd_adopts :
    after (exec .startUpScanEnd { State.reset with store := { State.reset.store with
        scan := some {
          slots := [.valid { generation := 2, map := identityMap, mask := 0 },
            .valid { generation := 3, map := identityMap, mask := 0x4000 }, .spoiled] ++ List.replicate 13 .erased
          headers := List.replicate 15 none ++ [some 7] } } })
      (fun t => t.store.journal == { active := .a, next := some 3, latest := some (.a, 1), generation := 3
                                     retiredMask := 0x4000 } &&
        (t.store.roles.get 14).role == .retired && (t.store.roles.get 0).count == 7 &&
        (t.store.roles.get 15).estimated == false && !t.irq.isSet .mapDefault) = true := by decide +kernel

/-- R117: of two clean spares BEGIN takes the lower number when the counts agree. -/
theorem test_chooseSpare :
    chooseSpare ((scannedRoles identityMap 0 []).map fun e =>
      if e.role = .spareDirty then { e with role := .spareClean } else e) = .clean 14 := by decide +kernel

/-- R155: two runs of 1736 periods make the divisor 347. -/
theorem test_lowRun_divisor :
    after (exec (.lowRun 1736) { svc .sync idle with svc := { (svc .sync idle).svc with firstRun := some 1736 } })
      (fun t => t.svc.divisor == 347 && t.svc.state == .confirm) = true := by decide +kernel

/-- R163: the Q reply has LENGTH 10, and its bytes after 7EH sum to 00H. -/
theorem test_qReply :
    after (exec .qRecord { svc .executing idle with svc := { (svc .executing idle).svc with due := some .q } })
      (fun t => match t.svc.sending with
        | some x => x.bytes.length == 14 && byteAt x.bytes 2 == 10 && byteSum (x.bytes.drop 1) == 0
        | none => false) = true := by decide +kernel

/-- R173 and the layout of space 6: LOWV is bit 3 of IFLAG1, and SUPPLY_LOW has the code 0DH. -/
theorem test_supplyLow_code : ErrCode.supplyLow.code = 0x0D ∧ (idle.irq.raise .lowv).iflag1 = 0x08 := by decide

/-! ## Witnesses: states and operands that meet the hypotheses of the statements, clause by clause -/

theorem witness_StepRunsTheFrontCommand : idle.pending = [] := by decide

theorem witness_ReleaseOfResetChoosesTheMode :
    (resetPart idle).part.resetHeld = true ∧
      (resetPart idle).arrPort = { loaderWait := none, storeWait := none, access := none } := ⟨rfl, rfl⟩

/-- A PROGRAM whose pulse is in progress. -/
def pulsing : State :=
  arrAccess (.store (.pulse (.glyph 14 63)) false)
    (running { flight (.program 63 []) .programming with prog := some (prog .pulsing 1) } (staging true idle))

/-- A PROGRAM whose pulse waits. -/
def waitingPulse : State :=
  arrWait (.pulse (.glyph 14 63))
    (running { flight (.program 63 []) .programming with prog := some (prog .pulsing 1) } (staging true idle))

/-- A record of generation 1 with the identity map. -/
def record1 : MapRecord := { generation := 1, map := identityMap, mask := 0 }

/-- A COMMIT whose pulse on slot 7 of area B is in progress: the body of a record there, and then its marker. -/
def slotPulse (from_ to_ : Byte) : State :=
  let s := arrAccess (.store (.pulse (.slot .b 7)) false)
    (running { flight .commit .committing with
      mapw := some (mapOp .marker false)
      prog := some { place := .slot .b 7, target := recordBytes record1 to_, set := [15], pulses := 1, phase := .pulsing } }
      (staging true idle))
  { s with array := s.array.writeAll ((List.range 16).map fun k =>
      ((ArrUnit.slot .b 7).base + k, byteAt (recordBytes record1 from_) k)) }

theorem witness_ResetRestoresEveryBlock :
    ((cellAccess .host (.write 4095 1) false idle).cells.wf = true ∧ idle.array.wf = true ∧
      idle.pulseInProgress = false) ∧
    (pulsing.cells.wf = true ∧ pulsing.array.wf = true ∧ pulsing.pulseInProgress = true ∧
      pulsing.progOp = some (prog .pulsing 1) ∧ pulsing.rawBytes (.glyph 14 63) ≠ (prog .pulsing 1).target) ∧
    (let s := slotPulse 0xFF 0;
      s.array.wf = true ∧ s.arrPort.access = some (.store (.pulse (.slot .b 7)) false) ∧
        s.rawBytes (.slot .b 7) = recordBytes record1 0xFF ∧
        s.progOp.map ProgOp.target = some (recordBytes record1 0)) := by decide +kernel

theorem witness_PowerOnLeavesTheTablesUndefined :
    pulsing.array.wf = true ∧ (slotPulse 0xFF 0xFF).array.wf = true ∧
      byteAt ((slotPulse 0xFF 0xFF).rawBytes (.slot .b 7)) 15 ≠ 0 := by decide +kernel

/-- R115 and R142: a cut of the pulse that programs a completion marker leaves the slot spoiled. -/
theorem test_reset_spoilsTheSlot :
    let s := slotPulse 0xFF 0
    classify (s.rawBytes (.slot .b 7)) = .spoiled ∧ classify (recordBytes record1 0) = .valid record1 := by
  decide +kernel

/-- A retirement whose map write has a pulse in progress on slot 7 of area B. -/
def retiringPulse : State :=
  arrAccess (.store (.pulse (.slot .b 7)) false)
    (running { flight .scrub (.retiring 15 0xFF) with
      mapw := some (mapOp .body false), prog := some { prog .pulsing 1 with place := .slot .b 7 } } idle)

theorem witness_LowvEndsThePulseWork :
    (idle.part.resetHeld = false ∧ idle.part.lowv = false ∧ idle.pulseInProgress = false ∧ idle.pulseWaiting = false) ∧
    (pulsing.part.resetHeld = false ∧ pulsing.part.lowv = false ∧ pulsing.store.inFlight.isSome = true ∧
      (∀ b c, CmdStage.programming ≠ .retiring b c) ∧ pulsing.svc.outstanding = none ∧ pulsing.array.wf = true ∧
      pulsing.pulseInProgress = true ∧ pulsing.arrPort.storeWait = none ∧ pulsing.store.deferred = none) ∧
    (waitingPulse.pulseInProgress = false ∧ waitingPulse.pulseWaiting = true) ∧
    (retiringPulse.pulseInProgress = true ∧ retiringPulse.arrPort.storeWait = none ∧
      retiringPulse.store.deferred = none ∧ retiringPulse.svc.outstanding = none ∧
      (retiringPulse.store.inFlight.map InFlight.stage) = some (.retiring 15 0xFF)) :=
  ⟨by decide, ⟨by decide, by decide, by decide, by simp, by decide, by decide, by decide, by decide, by decide⟩,
    by decide, by decide⟩

theorem witness_FrameStartSettlesTheFrame :
    (let s := display (.visible 1) .blankDots idle;
      s.released ∧ s.frameDue = true ∧ s.scan.headact = 0xFF) ∧
    (atF4.released ∧ atF4.frameDue = true ∧ atF4.rows.loading = none ∧ atF4.scan.headact ≠ 0xFF) ∧
    (latchLeft.part.resetHeld = false ∧ latchLeft.scan.latchDue = true ∧ isPinEvent .cellPortComplete = false ∧
      mayWriteData .cellPortComplete = false ∧ (at_ 2 768 latchLeft).win.addr.toNat = 768) := by decide +kernel

theorem witness_MarqueeAdvanceMovesTheWindow :
    idle.descs.wf = true ∧ (768 : Nat) ≤ 768 ∧ 15 * 16 % 16 < 13 ∧ (row true).advances 8 = true ∧
      (row true).posCell < (row true).ringLen ∧ (row true).posDot ≤ 255 := by decide

theorem witness_LinesShowTheirSlices :
    (let s := { display (.vblank 0) .blankLine idle with
        scan := { (display (.vblank 0) .blankLine idle).scan with
          cfg := { (display (.vblank 0) .blankLine idle).scan.cfg with vblank := 2 } } };
      s.released ∧ s.scan.pos = .vblank 0 ∧ 0 + 1 < s.scan.cfg.vblank.toNat) ∧
    (let s := showing (display (.visible 0) .blankDots idle);
      s.released ∧ s.scan.pos = .visible 0 ∧ s.scan.part = .blankDots ∧ 0 + 1 < s.scan.cfg.vislines.toNat ∧
        s.scan.rowStart = some 0 ∧ (s.rows.displaying.map fun i => decide (0 + 1 < 0 + i.desc.height)) = some true) ∧
    ((display (.vblank 0) .blankLine idle).lineDue 0 ∧ (display (.vblank 0) .blankLine idle).rows.loading = none ∧
      (display (.vblank 0) .blankLine idle).scan.rowStart = none) ∧
    (let s := { display (.visible 0) .blankDots idle with
        rows := { idle.rows with buf1 := some inst }, scan := { (display (.visible 0) .blankDots idle).scan with
          rowStart := some 0 } };
      s.released ∧ s.lineDue 1 ∧ s.rows.loading = none ∧ s.scan.rowStart = some 0 ∧ s.rows.displaying = some inst ∧
        0 + inst.desc.height ≤ 1) ∧
    (display (.visible 0) .activeDots idle).released ∧
    (display (.visible 0) .activeDots idle).scan.part = .activeDots :=
  ⟨by decide, by decide, ⟨.inl ⟨0, by decide⟩, by decide, by decide⟩,
    ⟨by decide, .inr ⟨0, by decide⟩, by decide, by decide, by decide, by decide⟩, by decide, by decide⟩

/-- The loading buffer holds that instance with this NEXT, so many further instances, and the loader in this state. -/
def rowDue (next repeats : Nat) (loader : LoaderState) : State :=
  let s := display (.vblank 0) .blankLine idle
  { s with rows := { s.rows with
      loader := loader, buf0 := some { inst with desc := { row false with next := next, repeats := repeats } } } }

theorem witness_RowStartExchangesTheBuffers :
    (let s := rowDue 255 0 .resting;
      s.released ∧ s.instOn 0 = none ∧ s.rows.loading.isSome = true ∧ s.rows.loader ≠ .loading ∧
        0 + (row false).height < s.scan.cfg.vislines.toNat ∧ 1 ≤ (row false).height) ∧
    ((rowDue 255 0 .resting).lineDue 0 ∧ (loading (display (.visible 0) .blankDots idle)).lineDue 1 ∧
      ¬1 + (row false).height < (display (.visible 0) .blankDots idle).scan.cfg.vislines.toNat) ∧
    ((rowDue 255 1 .loading).rows.loader = .loading ∧
      ((rowDue 255 1 .loading).rows.loading.map fun i => decide (i.number < i.desc.repeats)) = some true) ∧
    (((rowDue 47 0 .resting).rows.loading.map fun i => i.desc.next) = some 47 ∧ 47 < 48) ∧
    (((rowDue 48 0 .resting).rows.loading.map fun i => i.desc.next) = some 48 ∧ 48 ≤ 254 ∧ 254 < 255) :=
  ⟨by decide, ⟨.inl ⟨0, by decide⟩, .inr ⟨0, by decide⟩, by decide⟩, by decide, by decide, by decide⟩

theorem witness_EnableRaisesAFrameStart :
    (at_ 0 0 idle).dataAt 0 0 ∧ (1 : Byte).getLsbD 0 = true ∧ (at_ 0 0 idle).scan.enabled = false ∧
      (at_ 0 0 (display (.vblank 0) .blankLine idle)).dataAt 0 0 ∧
      (at_ 0 0 (display (.vblank 0) .blankLine idle)).scan.enabled = true := by decide

/-- The loader has a read of the array in progress, or waiting behind the store engine's, with a pulse waiting. -/
def loaderReads (waiting : Bool) (s : State) : State :=
  let g : GlyphRead := { bank := 15, glyph := 63, first := 0, count := 1 }
  if waiting then { s with arrPort := { s.arrPort with loaderWait := some g } }
  else arrAccess (.loader g false) (arrWait (.pulse (.glyph 14 63)) s)

theorem witness_DisableEndsTheFrame :
    (at_ 0 0 (display (.vblank 0) .blankLine idle)).dataAt 0 0 ∧ (0xFE : Byte).getLsbD 0 = false ∧
      (at_ 0 0 (display (.vblank 0) .blankLine idle)).scan.enabled = true ∧ (at_ 0 0 idle).dataAt 0 0 ∧
      (at_ 0 0 idle).scan.enabled = false := by decide

/-- R108 and R109: a disable that stops a LOADING loader lets the waiting pulse run, and its operation counts it. -/
theorem test_disable_grantsThePulse :
    after (exec (.displayDisable 0) (at_ 0 0 (display (.visible 0) .activeDots (working waitingPulse))))
      (fun t => t.arrPort.access == some (.store (.pulse (.glyph 14 63)) false) && t.arrPort.storeWait == none &&
        (t.progOp.map ProgOp.pulses) == some 2) = true := by decide +kernel

theorem witness_DisplayResetRestoresTheDisplaySide :
    idle.hostOpen ∧
    (let s := cellAccess .mover (.write 4095 1) false idle;
      s.hostOpen ∧ s.cells.wf = true ∧ s.cellPort.access = some ⟨.mover, .write 4095 1, false⟩) := by decide

theorem witness_SwapListWaitsOrActsAtOnce :
    (display (.visible 1) .blankDots idle).hostOpen ∧ (display (.visible 1) .blankDots idle).scan.enabled = true ∧
      (display (.visible 1) .blankDots idle).frameDue = true ∧ idle.hostOpen ∧ idle.scan.enabled = false := by decide

theorem witness_PanelDotsFollowTheDotStream :
    inst.desc.hide = false ∧ inst.entries.length = inst.desc.width ∧
      7 < (display .none .off idle).scan.cfg.panelw.toNat := by decide

theorem witness_CellDotsFollowTheirOrder :
    Entry.blank.state ≠ .complete ∧ ({ Entry.blank with state := .complete } : Entry).state = .complete ∧
      ({ Entry.blank with mark := some { style := .bar, blink := true } } : Entry).mark =
        some { style := .bar, blink := true } ∧
      (7 : Nat) < 8 ∧ ({ row false with hide := true } : Descriptor).hide = true := by decide

theorem witness_SubmitQueuesTheComposedCommand :
    (let s := { idle with store := { idle.store with owner := .loader } };
      s.hostOpen ∧ s.store.owner ≠ .host) ∧
    (let s := engine .halted .none idle;
      s.hostOpen ∧ s.store.owner = .host ∧ s.store.engine = .halted) ∧
    (let s := queued 4 (engine .running .none idle);
      s.hostOpen ∧ s.store.owner = .host ∧ s.store.engine ≠ .halted ∧ 4 ≤ s.store.queue.length) ∧
    (let s := queued 3 (engine .waiting .draining idle);
      s.hostOpen ∧ s.store.owner = .host ∧ s.store.queue.length < 4 ∧ s.store.engine = .waiting ∧
        s.store.wait ≠ .resultSpace) ∧
    (let s := queued 3 (results 3 (engine .waiting .resultSpace idle));
      s.hostOpen ∧ s.store.owner = .host ∧ s.store.queue.length < 4 ∧ s.store.inFlight = none ∧
        s.store.results.length < 4) ∧
    (let s := results 4 idle;
      s.hostOpen ∧ s.store.owner = .host ∧ s.store.engine = .idle ∧ s.store.inFlight = none ∧
        4 ≤ s.store.results.length) ∧
    (let s := results 3 idle;
      s.hostOpen ∧ s.store.owner = .host ∧ s.store.engine = .idle ∧ s.store.queue = [] ∧ s.store.inFlight = none ∧
        s.store.results.length < 4) := by decide

theorem witness_PopFreesAPlaceAndAckEndsTheHalt :
    (idle.hostOpen ∧ idle.store.results = []) ∧
    (let s := results 1 (engine .running .none idle);
      s.hostOpen ∧ s.store.results = [result] ∧ s.store.engine ≠ .waiting ∧ s.store.engine ≠ .idle) ∧
    (let s := results 4 idle;
      s.hostOpen ∧ s.store.results = result :: List.replicate 3 result ∧ s.store.engine = .idle ∧
        s.store.wait = .none ∧ s.store.queue = []) ∧
    (let s := queued 4 (results 4 (engine .waiting .resultSpace idle));
      s.hostOpen ∧ s.store.results = result :: List.replicate 3 result ∧ s.store.engine = .waiting ∧
        s.store.wait = .resultSpace ∧ s.store.inFlight = none ∧ s.store.queue ≠ []) ∧
    (engine .halted .none idle).hostOpen ∧ (engine .halted .none idle).store.engine = .halted ∧ idle.hostOpen ∧
      idle.store.engine ≠ .halted := by decide

theorem witness_StoreAbortPushesAnAbortedResult :
    (pulsing.hostOpen ∧ pulsing.store.inFlight.isSome = true ∧ pulsing.array.wf = true ∧
      pulsing.store.engine = .running) ∧
    (let s := arrAccess (.store (.read (.glyph 13 63)) false) (running (flight (.readGlyph 895) (.reading 13)) idle);
      s.hostOpen ∧ s.arrPort.access = some (.store (.read (.glyph 13 63)) false)) ∧
    (idle.hostOpen ∧ idle.store.engine = .idle) ∧
    (let s := queued 4 (engine .waiting .resultSpace idle);
      s.hostOpen ∧ s.store.engine = .waiting ∧ s.store.wait = .resultSpace) ∧
    (engine .starting .none idle).hostOpen ∧ (engine .starting .none idle).store.engine = .starting := by decide

/-- The mover with this kind and count. -/
def moverSet (kind : Byte) (count : Word16) (s : State) : State :=
  { s with mover := { s.mover with mvkind := kind, mvcnt := count, mvsrc := 0xFFFF } }

/-- The mover runs. -/
def moverRuns (s : State) : State :=
  { s with mover := { s.mover with
      mvstate := .running, position := 1
      op := some { kind := .copy, src := 4095, dst := 0, count := 3, value := 0, descending := true } } }

theorem witness_MoverStartsAndAborts :
    ((moverRuns idle).hostOpen ∧ (moverRuns idle).mover.mvstate = .running) ∧
    (let s := moverSet 1 4097 idle;
      s.hostOpen ∧ s.mover.mvstate ≠ .running ∧ 4096 < s.mover.mvcnt.toNat) ∧
    ((moverSet 3 1 idle).mover.mvkind ≠ 1 ∧ (moverSet 3 1 idle).mover.mvkind ≠ 2) ∧
    (let s := moverSet 2 4096 idle;
      s.hostOpen ∧ s.mover.mvstate ≠ .running ∧ s.mover.mvkind = 2 ∧ 1 ≤ s.mover.mvcnt.toNat ∧
        s.mover.mvcnt.toNat ≤ 4096 ∧ s.cellPort.access = none) ∧
    (let s := cellAccess .mover (.write 0 1) true (moverSet 1 1 idle);
      s.hostOpen ∧ s.mover.mvkind = 1 ∧ 1 ≤ s.mover.mvcnt.toNat ∧ s.mover.mvstate ≠ .running ∧
        s.cellPort.access = some ⟨.mover, .write 0 1, true⟩) ∧
    (idle.hostOpen ∧ idle.mover.mvstate ≠ .running) ∧
    (let s := cellAccess .mover (.read 4095) false (moverRuns idle);
      s.hostOpen ∧ s.mover.mvstate = .running ∧ s.moverCellInProgress = true) ∧
    (moverRuns idle).moverCellInProgress = false := by decide

/-- A command of the loader in flight. -/
def loadersFlight (body : CmdBody) (stage : CmdStage) : InFlight :=
  { flight body stage with entry := { (flight body stage).entry with submitter := .loader } }

/-- The engine runs it in service mode, and it is outstanding with this mark. -/
def awaited (f : InFlight) (m : SvcMark) (s : State) : State :=
  let r := running f (service s)
  { r with svc := { r.svc with state := .executing, outstanding := some (9, m) } }

theorem witness_LoaderTakesItsResults :
    (let f := loadersFlight .abandon .fresh;
      let s := awaited f .reply (staging false idle);
      s.started f .abandon ∧ s.loaderAwaits f .reply ∧ s.store.staging.isSome = true) ∧
    (let f := loadersFlight (.stageBank 13) .fresh;
      let s := awaited f .silent (results 3 idle);
      s.started f (.stageBank 13) ∧ s.loaderAwaits f .silent ∧ s.store.staging = none ∧
        (13 : Byte).toNat = (13 : Logical).val) ∧
    (let f := { loadersFlight (.program 63 []) .programming with
        prog := some { prog .verifying 12 with target := List.replicate 16 0xFF } };
      let s := arrAccess (.store (.read (.glyph 14 63)) false) (awaited f .silent (staging true idle));
      s.released ∧ s.loaderAwaits f .silent ∧ s.store.scan = none ∧ s.store.staging.isSome = true ∧
        s.rawBytes (.glyph 14 63) = List.replicate 16 0xFF) ∧
    (let f := { loadersFlight .commit .committing with
        mapw := some (mapOp .marker false)
        prog := some { prog .verifying 12 with target := List.replicate 16 0xFF } };
      let s := arrAccess (.store (.read (.glyph 14 63)) false) (awaited f .reply (staging true idle));
      s.released ∧ s.loaderAwaits f .reply ∧ s.rawBytes (.glyph 14 63) = List.replicate 16 0xFF) ∧
    (let f := loadersFlight (.check 14) .fresh;
      let s := awaited f .reply idle;
      s.released ∧ s.loaderAwaits f .reply ∧ 13 < (14 : Byte).toNat) ∧
    (let f := { loadersFlight (.program 63 []) .programming with prog := some (prog .limit 12) };
      (awaited f .silent (staging true idle)).loaderAwaits f .silent ∧ f.plainProg (prog .limit 12)) ∧
    (let f := flight .abandon .fresh;
      let s := awaited f .reply (staging false idle);
      s.started f .abandon ∧ s.svc.outstanding = some (9, .reply) ∧ f.entry.submitter = .host) := by
  unfold State.loaderAwaits
  refine ⟨?_, ?_, ?_, ?_, ?_, ?_, ?_⟩ <;> decide +kernel

/-- The further clauses of the same statement: an erase and a CLONE that end, map writes and erases that fail, a retirement that
succeeds, and LOWV#. -/
theorem witness_LoaderTakes_later :
    (let p := { prog .verifying 12 with target := List.replicate 4 0xFF };
      let f := { loadersFlight (.stageBank 13) (.erasing 15) with
        prog := some p, erase := some (erase (.bank 15) .header) };
      let s := arrAccess (.store (.read (.header 15)) false) (awaited f .reply idle);
      s.released ∧ s.store.scan = none ∧ s.rawBytes (.header 15) = p.target ∧ s.loaderAwaits f .reply) ∧
    (let p := { prog .verifying 12 with target := List.replicate 16 0xFF };
      let f := { loadersFlight (.clone 0) (.cloning 63 5) with prog := some p };
      let s := arrAccess (.store (.read (.glyph 14 63)) false) (awaited f .silent (staging true idle));
      s.released ∧ f.plainProg p ∧ s.rawBytes (.glyph 14 63) = p.target ∧ s.loaderAwaits f .silent) ∧
    (let f := { loadersFlight .commit .committing with prog := some (prog .limit 12), mapw := some (mapOp .body true) };
      (awaited f .reply (staging true idle)).loaderAwaits f .reply ∧ (mapOp .body true).second = true) ∧
    (let f := { loadersFlight .commit .committing with erase := some (erase (.area .b) .spent) };
      (awaited f .reply (staging true idle)).loaderAwaits f .reply ∧ (erase (.area .b) .spent).stage = .spent) ∧
    (let f := { loadersFlight (.stageBank 13) (.erasing 15) with erase := some (erase (.bank 15) .spent) };
      let s := { awaited f .silent idle with part := { (awaited f .silent idle).part with lowv := true } };
      s.released ∧ s.part.lowv = true ∧ s.loaderAwaits f .silent) ∧
    (let p := { prog .verifying 12 with target := List.replicate 16 0xFF };
      let f := { loadersFlight (.stageBank 13) (.retiring 15 0xFF) with
        prog := some p, mapw := some (mapOp .marker false) };
      let s := arrAccess (.store (.read (.slot .b 7)) false) (awaited f .reply idle);
      s.released ∧ s.rawBytes (.slot .b 7) = p.target ∧ s.loaderAwaits f .reply) ∧
    (let f := { loadersFlight (.program 63 []) .programming with prog := some (prog .pulsing 1) };
      let s := arrAccess (.store (.pulse (.glyph 14 63)) false) (awaited f .reply (staging true idle));
      s.part.resetHeld = false ∧ s.part.lowv = false ∧ s.pulseInProgress = true ∧ s.arrPort.storeWait = none ∧
        s.store.deferred = none ∧ s.loaderAwaits f .reply) ∧
    (let f := { loadersFlight (.stageBank 13) (.retiring 15 0xFF) with
        prog := some (prog .pulsing 0), mapw := some (mapOp .body false) };
      let s := arrWait (.pulse (.slot .b 7)) (awaited f .reply idle);
      s.pulseInProgress = false ∧ s.pulseWaiting = true ∧ s.loaderAwaits f .reply) := by
  unfold State.loaderAwaits
  refine ⟨?_, ?_, ?_, ?_, ?_, ?_, ?_, ?_⟩ <;> decide +kernel

/-- R160 and R139: LOWV# ends the loader's PROGRAM; the loader removes the result and an N reply with SUPPLY_LOW begins. -/
theorem test_lowv_repliesN :
    (let f := { loadersFlight (.program 63 []) .programming with prog := some (prog .pulsing 1) };
      let s := arrWait (.pulse (.glyph 14 63)) (awaited f .reply (staging true idle));
      after (exec .lowvAsserted s) (fun t => t.store.results.isEmpty && t.svc.outstanding == none &&
        t.svc.state == .ready && t.svc.lastError == .supplyLow &&
        (t.svc.sending.map fun x => x.bytes.take 4) == some [0x7E, 0x4E, 2, 0x0D])) = true := by decide +kernel

theorem witness_RefusedCommandsAreRecorded :
    idle.hostOpen ∧ 8 < (9 : Byte).toNat ∧ (service idle).windowFree ∧ (service idle).part.service = true ∧
      Instr.submit ∈ [Instr.submit] := by decide

theorem witness_RegisterValuesAreJudged :
    (∀ k : Fin 34, (at_ 0 (BitVec.ofNat 16 k.val) idle).dataAt 0 k.val) ∧
      ((0 : Word16).toNat < 8) ∧ 8 ≤ (512 : Word16).toNat ∧ (512 : Word16).toNat ≤ 512 := by decide

theorem witness_WindowWritesAreJudged :
    (idle.hostOpen ∧ idle.windowFree ∧ (at_ 0 14 idle).dataAt 0 14 ∧ (at_ 0 15 idle).dataAt 0 15) ∧
    ((at_ 0 63 idle).dataAt 0 63 ∧ (at_ 0 12 idle).dataAt 0 12 ∧ (at_ 0 16 idle).dataAt 0 16) ∧
    ((at_ 5 28 idle).dataAt 5 28 ∧ (at_ 5 29 idle).dataAt 5 29 ∧ (at_ 6 31 idle).dataAt 6 31 ∧
      (at_ 7 94 idle).dataAt 7 94) ∧
    ((at_ 1 8192 idle).hostOpen ∧ spaceSize (at_ 1 8192 idle).win.space ≤ (at_ 1 8192 idle).win.addr.toNat) ∧
    ((service idle).windowFree ∧ (service idle).part.service = true ∧ (7 : Byte) = 7 ∧ (6 : Byte) ≠ 7) := by
  refine ⟨?_, ?_, ?_, ?_, ?_⟩ <;> decide

theorem witness_CountsAreReadThroughTheirCaptures :
    (at_ 0 17 idle).dataAt 0 17 ∧ (at_ 0 18 idle).dataAt 0 18 ∧ (at_ 0 31 idle).dataAt 0 31 ∧
      (at_ 0 32 idle).dataAt 0 32 := by decide

/-- The assembly latch and the read latch hold this cell. -/
def latched (c : CellAddr) (s : State) : State :=
  { s with win := { s.win with assembly := some (c, 0xCD), readLatch := some (c, 0xABCD) } }

theorem witness_CellBytesPassThroughTheLatches :
    ((at_ 1 8190 idle).dataAt 1 8190 ∧ 8190 < 8192 ∧ 8190 % 2 = 0) ∧
    (let s := latched 4095 (at_ 1 8191 idle);
      s.dataAt 1 8191 ∧ 8191 % 2 = 1 ∧ s.win.assembly = some (BitVec.ofNat 12 (8191 / 2), 0xCD) ∧
        s.win.readLatch = some (BitVec.ofNat 12 (8191 / 2), 0xABCD)) ∧
    (at_ 1 8191 idle).dataAt 1 8191 ∧ (at_ 1 8191 idle).win.assembly = none ∧
      (at_ 1 8191 idle).win.readLatch = none := by decide

theorem witness_TableWritesChangeOneByte :
    (let s := at_ 2 767 idle;
      s.dataAt 2 767 ∧ s.descs.wf = true) ∧
    (latchLeft.part.resetHeld = false ∧ latchLeft.scan.latchDue = true ∧ latchLeft.waitLow = false ∧
      latchLeft.part.service = false ∧ latchLeft.win.space = 2 ∧ latchLeft.win.addr.toNat = 14 ∧
      latchLeft.descs.wf = true ∧ latchLeft.rows.loading = none ∧ latchLeft.scan.headact ≠ 0xFF) ∧
    (at_ 3 127 idle).dataAt 3 127 ∧ (at_ 3 127 idle).attrs.wf = true := by decide +kernel

/-- Layout of space 2: byte 5 holds FIRST in its low and COUNT - 1 in its high four bits, and BASE has its low byte first. -/
theorem test_readDescriptor_layout :
    let d := readDescriptor (idle.descs.writeAll [(18, 0x34), (19, 0x12), (21, 0xE1), (22, 0xFD)]) 1
    d.base = 0x1234 ∧ d.first = 1 ∧ d.count = 15 ∧ d.pan = 5 ∧ d.wide = true ∧ d.repeats = 15 := by decide +kernel

theorem witness_PatchWritesAreChecked :
    (let s := patched (at_ 4 271 idle);
      s.dataAt 4 271 ∧ 271 % 18 < 2 ∧ s.patchValid.getLsbD 0 = true ∧ patchCode s.patch 0 = 5 ∧ s.patch.wf = true ∧
        (0x80 : Byte).getLsbD 7 = true) ∧
    (let s := patched { (at_ 4 271 idle) with patch := (idle.patch.write 270 5) };
      s.dataAt 4 271 ∧ (s.patchByte 270).toNat + 256 * ((0x80 : Byte).toNat % 4) = patchCode s.patch 0) ∧
    (at_ 4 287 idle).dataAt 4 287 ∧ ¬287 % 18 < 2 := by decide +kernel

theorem witness_FlagsAndStatusAreReadAndCleared :
    idle.hostOpen ∧ idle.windowFree ∧ (service idle).windowFree ∧ (service idle).part.service = true ∧
      (idle.win.winfault, (0 : Byte)) ∈ faultCodes ∧ (WinFault.serviceMode, (0x0C : Byte)) ∈ faultCodes := by
  unfold faultCodes
  decide

/-- A cell request of the window is outstanding. -/
def waiting (s : State) : State := { s with win := { s.win with cellOp := some .write } }

/-- These accesses are held. -/
def held (l : List Access) (s : State) : State := { s with win := { s.win with held := l } }

theorem witness_HeldAccessesAreTakenInOrder :
    ((waiting idle).released ∧ (waiting idle).waitLow = true) ∧ idle.windowFree ∧
    (let s := held [.write 3 1, .read 4] idle;
      s.released ∧ s.win.cellOp = none ∧ s.win.held = .write 3 1 :: [.read 4]) ∧
    (held [.write 7 0] idle).win.held = [.write 7 0] ∧ (held [.read 0] idle).win.held = [.read 0] ∧
    (let s := held [.write 4 8] latchLeft;
      s.part.resetHeld = false ∧ s.scan.latchDue = true ∧ s.part.service = false ∧ s.win.space = 2 ∧
        s.win.addr.toNat < 768 ∧ s.win.cellOp = none ∧ s.win.held = [.write 4 8]) ∧
    idle.win.held = [] := by decide +kernel

theorem witness_DataReadsStepTheAddress :
    (∀ k : Fin 64, (at_ 0 (BitVec.ofNat 16 k.val) idle).dataAt 0 k.val) ∧
    ((at_ 2 767 idle).dataAt 2 767 ∧ (at_ 3 127 idle).dataAt 3 127 ∧ (at_ 4 287 idle).dataAt 4 (18 * 15 + 17) ∧
      (at_ 4 271 idle).dataAt 4 (18 * 15 + 1)) ∧
    ((at_ 5 28 idle).dataAt 5 28 ∧ (at_ 5 29 idle).dataAt 5 29) ∧
    ((at_ 6 31 idle).dataAt 6 31 ∧ idle.store.results = [] ∧ (results 1 idle).store.results = [result] ∧
      (result.error, (0 : Byte)) ∈ errorCodes) ∧
    (∀ k : Fin 95, (service (at_ 7 (BitVec.ofNat 16 k.val) idle)).statusAt k.val) ∧
    (idle.svc.divisor < 65536 ∧ (idle.svc.lastError, (0 : Byte)) ∈ errorCodes) ∧
    ((at_ 1 8192 idle).hostOpen ∧ spaceSize (at_ 1 8192 idle).win.space ≤ (at_ 1 8192 idle).win.addr.toNat) ∧
    (let s := service (at_ 6 0 idle);
      s.windowFree ∧ s.part.service = true ∧ s.win.space ≠ 7) ∧
    after (exec .dataRead (at_ 7 94 idle)) (fun t => t.win.cellOp == none) = true := by
  unfold errorCodes
  refine ⟨?_, ?_, ?_, ?_, ?_, ?_, ?_, ?_, ?_⟩ <;> decide +kernel

theorem witness_CloneGoesOnGlyphByGlyph :
    (let s := arrAccess (.store (.read (.glyph 3 63)) false)
        (running (flight (.clone 0) (.cloning 63 768)) (staging true idle));
      s.released ∧ s.store.scan = none ∧ s.svc.outstanding = none ∧ s.store.staging.isSome = true ∧
        ((List.range 16).map fun k => s.array.read (1028 * 3 + 16 * 63 + k)) = List.replicate 16 0xFF) ∧
    (let s := { arrAccess (.store (.read (.glyph 3 0)) false)
        (running (flight (.clone 0) (.cloning 0 0)) (staging true idle)) with
          array := idle.array.write (1028 * 3) 0 };
      s.released ∧ s.part.lowv = false ∧
        ((List.range 16).map fun k => s.array.read (1028 * 3 + 16 * 0 + k)) ≠ List.replicate 16 0xFF) ∧
    (let p := { prog .verifying 12 with target := List.replicate 16 0xFF };
      let s := arrAccess (.store (.read (.glyph 14 62)) false)
        (running { flight (.clone 0x8000000000000000) (.cloning 62 5) with prog := some p } (staging true idle));
      s.released ∧ s.store.scan = none ∧ p.phase = .verifying ∧ s.rawBytes (.glyph 14 62) = p.target ∧
        (0x8000000000000000 : BitVec 64).getLsbD 63 = true ∧ (0 : BitVec 64).getLsbD 63 = false) := by decide +kernel

theorem witness_IntFollowsFlagsAndEnables :
    ({ idle.irq with ien1 := 0x7F } : Interrupts).ien1.getLsbD 7 = false ∧
      (Flag.mapDefault, true, 6) ∈ flagPlaces := by
  unfold flagPlaces
  decide

/-- Requests of every claimant wait at a free cell port. -/
def contended (turn : Turn) : CellPort :=
  { loaderWait := none, hostWait := some (.read 0), moverWait := some (.read 1), access := none, turn := turn }

theorem witness_CellPortServesTheHost :
    ((contended .mover).access = none ∧ (contended .mover).loaderWait = none ∧
      (contended .mover).hostWait = some (.read 0) ∧ (contended .mover).turn = .mover ∧
      (contended .host).moverWait = some (.read 1) ∧ (contended .host).turn = .host) ∧
    (let s := cellAccess .host (.write 4095 1) false (waiting idle);
      s.released ∧ s.cells.wf = true ∧ s.cellPort.access = some ⟨.host, .write 4095 1, false⟩ ∧
        s.win.cellOp = some .write) ∧
    (let s := cellAccess .host (.read 4095) false { idle with win := { idle.win with cellOp := some .readHigh } };
      s.released ∧ s.win.cellOp = some .readHigh ∧ CellOp.readHigh ≠ .write) := by decide

theorem witness_MoverStepsAreCounted :
    (let s := cellAccess .mover (.read 4095) false (moverRuns idle);
      s.released ∧ s.cellPort.access = some ⟨.mover, .read 4095, false⟩ ∧ s.mover.op.isSome = true) ∧
    (let s := cellAccess .mover (.write 1 0) false (moverRuns idle);
      s.released ∧ s.cells.wf = true ∧ s.mover.aborting = false ∧
        (s.mover.op.map fun o => o.descending) = some true ∧ s.mover.position = 0 + 1) ∧
    (let s := { moverRuns idle with mover := { (moverRuns idle).mover with position := 0 } };
      s.mover.aborting = false ∧ s.mover.position = 0) ∧
    (let s := { moverRuns idle with mover := { (moverRuns idle).mover with aborting := true } };
      s.mover.aborting = true) ∧
    (let s := cellAccess .mover (.write 1 0) true { idle with mover := { idle.mover with tail := true } };
      s.released ∧ s.cells.wf = true ∧ s.mover.tail = true ∧ s.mover.op = none) ∧
    (let s := cellAccess .mover (.read 1) true (moverRuns idle);
      s.released ∧ s.mover.tail = false ∧ s.mover.op.isSome = true ∧
        s.cellPort.access = some ⟨.mover, .read 1, true⟩) := by decide

theorem witness_ResolutionFollowsItsOrder :
    (let s := cellAccess .rowLoader (.read 4095) false (working (display (.vblank 0) .blankLine idle));
      s.released ∧ s.cellPort.access = some ⟨.rowLoader, .read 4095, false⟩ ∧
        s.rows.work = some { entry := 0, addr := 4095, phase := .cellRead } ∧
        (s.rows.loading.map fun i => decide (0 < i.entries.length)) = some true ∧
        (s.cell 4095).toNat % 1024 = 0 ∧ s.patchValid = 0 ∧ s.store.engine ≠ .starting) ∧
    (let s := cellAccess .rowLoader (.read 4095) false
        { working idle with
          cells := idle.cells.writeCell 4095 5, patch := idle.patch.write 0 5, patchValid := 1 };
      s.released ∧ patchCode s.patch 0 = (s.cell 4095).toNat % 1024 ∧ s.patchValid.getLsbD 0 = true) ∧
    (let s := { working idle with cells := idle.cells.writeCell 4095 896 };
      896 ≤ (s.cell 4095).toNat % 1024) := by decide +kernel

/-- The further clauses of the same statement: a read of an abandoned load, with and without a load begun since, and the last
entry of an instance complete with the array port free. -/
theorem witness_abandonedCellRead :
    (let s := cellAccess .rowLoader (.read 1) true (working (display (.vblank 0) .blankLine idle));
      s.released ∧ s.cellPort.access = some ⟨.rowLoader, .read 1, true⟩ ∧ s.rows.loader = .loading ∧
        s.rows.work = some { entry := 0, addr := 4095, phase := .cellRead }) ∧
    ((cellAccess .rowLoader (.read 1) true idle).rows.loader ≠ .loading ∧ idle.arrPort.access = none ∧
      (arrAccess (.store (.read (.header 15)) false) idle).arrPort.access.isSome = true) := by decide

/-- R73 and R79: the completion of an abandoned read presents the first cell read of the load that has begun since. -/
theorem test_abandonedReads_resume :
    after (exec .cellPortComplete (cellAccess .rowLoader (.read 1) true (working (display (.vblank 0) .blankLine idle))))
      (fun t => t.cellPort.access == some ⟨.rowLoader, .read 4095, false⟩ && t.rows.loading == some inst) = true ∧
    after (exec .arrayReadComplete
        (arrAccess (.loader { bank := 15, glyph := 63, first := 0, count := 1 } true) (working idle)))
      (fun t => t.cellPort.access == some ⟨.rowLoader, .read 4095, false⟩ && t.arrPort.access == none) = true := by
  decide +kernel

theorem witness_ArrayReadsAreDelivered :
    (let s := arrAccess (.loader { bank := 15, glyph := 63, first := 0, count := 1 } false) (working idle);
      s.released ∧ s.rows.work.isSome = true ∧
        (s.rows.loading.map fun i => i.entries[0]?.isSome) = some true) ∧
    (let s := arrAccess (.store (.read (.glyph 13 63)) false) (running (flight (.readGlyph 895) (.reading 13)) idle);
      s.released ∧ s.store.scan = none ∧ s.store.inFlight = some (flight (.readGlyph 895) (.reading 13)) ∧
        s.svc.outstanding = none) ∧
    (let s := arrAccess (.store (.read (.glyph 13 63)) false) (running (flight (.check 13) (.summing 13 63 0)) idle);
      s.released ∧ s.store.inFlight = some (flight (.check 13) (.summing 13 63 0))) ∧
    (State.reset.released ∧ State.reset.arrPort.access = some (.store (.read (.slot .a 0)) false) ∧
      State.reset.store.scan = some { slots := [], headers := [] }) ∧
    ((arrAccess (.store (.read (.header 15)) true) idle).released ∧ idle.store.deferred = none) ∧
    (let s := arrAccess (.store (.read (.header 15)) true)
        (running { flight (.program 63 []) .programming with prog := some (prog .pulsing 0) } idle);
      ({ s with store := { s.store with deferred := some (.pulse (.glyph 14 63)) } } : State).released ∧
        s.part.lowv = false) := by decide +kernel

/-- The further clauses of the same statement: an abandoned read of the loader, an entry with and without a next one, the orders
of the scan's reads, and a read of the loader that waits. -/
theorem witness_arrayReads_goOn :
    (let s := arrAccess (.loader { bank := 15, glyph := 63, first := 0, count := 1 } true) (working idle);
      s.released ∧ s.rows.loader = .loading ∧ s.rows.work.isSome = true ∧ 0 + 1 < inst.desc.width ∧
        inst.desc.width ≤ 1 + 1 ∧ s.cellPort.access.map CellAccess.who ≠ some .rowLoader) ∧
    ((arrAccess (.loader { bank := 15, glyph := 63, first := 0, count := 1 } true) idle).rows.loader ≠ .loading) ∧
    ((15 : Nat) = ([] ++ List.replicate 14 SlotClass.spoiled).length + 1 ∧
      (List.replicate 15 SlotClass.spoiled).length = 15 ∧ (List.replicate 16 SlotClass.spoiled).length = 16 ∧
      (15 : Bank).val = (List.replicate 14 (none : Option Word16)).length + 1) ∧
    (loaderReads true idle).arrPort.loaderWait.isSome = true := by decide

/-- R108: the last array read of a load lets the waiting pulse run; with the loader's read waiting, that is granted first. -/
theorem test_arrayGrant_afterTheLoad :
    (let s := loaderReads false (working waitingPulse);
      let last := { s with rows := { s.rows with work := some { entry := 1, addr := 0, phase := .arrayRead } } };
      after (exec .arrayReadComplete last) (fun t => t.arrPort.access == some (.store (.pulse (.glyph 14 63)) false) &&
        t.rows.loader == .resting && (t.progOp.map ProgOp.pulses) == some 2)) = true ∧
    after (exec .arrayReadComplete (loaderReads true (arrAccess (.store (.read (.header 15)) true) idle)))
      (fun t => t.arrPort.loaderWait == none && t.arrPort.access.any ArrAccess.isLoaders) = true := by decide +kernel

/-- R107: behind a store read whose data is discarded, a new command's request is put off and presented at its completion. -/
theorem test_storeRequest_putOff :
    after (exec .cmdCheck (arrAccess (.store (.read (.header 15)) true) (running (flight (.check 0) .fresh) idle)))
      (fun t => t.arrPort.storeWait == none && t.store.deferred == some (.read (.glyph 0 0)) &&
        after (exec .arrayReadComplete t) fun u =>
          u.arrPort.access == some (.store (.read (.glyph 0 0)) false) && u.store.deferred == none) = true := by
  decide +kernel

/-- A program verify of glyph 63 of bank 14 is in progress, for this command and this target. -/
def verifying (f : InFlight) (p : ProgOp) : State :=
  arrAccess (.store (.read p.place) false) (running { f with prog := some p } (staging true idle))

theorem witness_VerifyReadsDecide :
    (let p := { prog .verifying 12 with target := List.replicate 16 0xFF };
      let s := verifying (flight (.program 63 []) .programming) p;
      s.released ∧ s.store.scan = none ∧ s.store.staging.isSome = true ∧ s.svc.outstanding = none ∧
        s.rawBytes p.place = p.target) ∧
    (let p := prog .verifying 11;
      let s := verifying (flight (.program 63 []) .programming) p;
      s.released ∧ s.part.lowv = false ∧ s.rawBytes p.place ≠ p.target ∧ p.place.size = p.target.length ∧
        s.arrPort.storeWait = none ∧ p.pulses < 12) ∧
    (12 ≤ (prog .verifying 12).pulses) ∧
    (let s := arrAccess (.store (.read (.whole (.bank 15))) false)
        (running { flight .scrub (.erasing 15) with erase := some (erase (.bank 15) .verifying) } idle);
      s.released ∧ s.part.lowv = false ∧ s.store.scan = none ∧ s.arrPort.storeWait = none ∧
        400 ≤ (erase (.bank 15) .verifying).given) ∧
    (let s := arrAccess (.store (.read (.whole (.area .b))) false)
        (running { flight .commit .committing with
          erase := some { erase (.area .b) .verifying with given := 399 } } idle);
      s.released ∧ s.arrPort.storeWait = none ∧ (EraseUnit.area .b).size = 128 ∧
        ({ s with array := s.array.write ((EraseUnit.area .b).base + 127) 0 } : State).array.read
          ((EraseUnit.area .b).base + 127) ≠ 0xFF) := by decide +kernel

/-- Every byte of an erased bank reads FFH, as the third clause asks. -/
theorem witness_erasedBank (k : Nat) : idle.array.read (1028 * 15 + k) = 0xFF := rfl

/-- LOWV# is asserted. -/
def lowv (s : State) : State := { s with part := { s.part with lowv := true } }

/-- The clauses of the verify reads with LOWV# asserted. -/
theorem witness_VerifyReads_lowv :
    (let p := prog .verifying 11;
      let s := lowv (verifying (flight (.program 63 []) .programming) p);
      s.released ∧ s.part.lowv = true ∧ s.rawBytes p.place ≠ p.target ∧ p.place.size = p.target.length ∧
        p.pulses < 12 ∧ s.svc.outstanding = none) ∧
    (let f : InFlight := { flight .scrub (.erasing 15) with erase := some (erase (.bank 15) .verifying) };
      let s := lowv (arrAccess (.store (.read (.whole (.bank 15))) false) (running f idle));
      s.released ∧ s.part.lowv = true ∧ s.store.inFlight = some f ∧ f.prog = none ∧
        (erase (.bank 15) .verifying).target = .bank 15) ∧
    (let e := { erase (.area .b) .verifying with given := 399 };
      let s := { idle with array := idle.array.write (e.target.base + 127) 0 };
      s.array.read (e.target.base + 127) ≠ 0xFF ∧ e.given < 400 ∧ e.pace.toNat = 3) := by decide +kernel

/-- R114 and R139: with LOWV# asserted a verify that leaves bytes ends PROGRAM with SUPPLY_LOW and its staging. -/
theorem test_verify_lowv :
    after (exec .arrayReadComplete (lowv (verifying (flight (.program 63 []) .programming) (prog .verifying 1))))
      (fun t => (t.store.results.map ResultRec.error) == [.supplyLow] && t.store.engine == .halted &&
        t.store.staging == none && (t.store.roles.get 14).role == .spareDirty && t.arrPort.access == none) = true := by
  decide +kernel

/-- A COMMIT whose marker has been verified. -/
def committed : State :=
  verifying { flight .commit .committing with mapw := some (mapOp .marker false) }
    { prog .verifying 12 with target := List.replicate 16 0xFF }

theorem witness_CommitTakesEffectInOneStep :
    (committed.released ∧ committed.arrPort.access = some (.store (.read (.glyph 14 63)) false) ∧
      committed.store.scan = none ∧
      committed.rawBytes (.glyph 14 63) = ({ prog .verifying 12 with target := List.replicate 16 0xFF } : ProgOp).target ∧
      committed.store.staging = some { bank := 14, target := 3, filling := true, written := 0 } ∧
      committed.svc.outstanding = none ∧ committed.store.storeMap.get 3 ≠ 14) ∧
    (let s := at_ 0 0 (display (.visible 1) .activeDots committed);
      s.hostOpen ∧ s.dataAt 0 0 ∧ (0xFE : Byte).getLsbD 0 = false ∧ s.scan.enabled = true ∧
        s.store.engine ≠ .starting ∧ s.store.inFlight.isSome = true) := by decide +kernel

/-- R101: a commit and a DISPLAY RESET in either order leave the same maps and the same role of the old bank. -/
theorem test_commit_displayReset :
    let s := display (.visible 1) .activeDots committed
    let shown (t : State) := t.scan.displayMap == t.store.storeMap && t.store.storeMap.get 3 == 14 &&
      (t.store.roles.get 3).role == .spareDirty
    after (exec .arrayReadComplete s) (fun t => after (exec .displayReset t) shown) = true ∧
      after (exec .displayReset s) (fun t => after (exec .arrayReadComplete t) shown) = true := by decide +kernel

theorem witness_ErasesAndMapWritesGoOn :
    (let p := { prog .verifying 3 with target := List.replicate 16 0xFF };
      let s := arrAccess (.store (.read (.slot .b 7)) false)
        (running { flight .commit .committing with
          prog := some p, erase := some (erase (.area .b) (.prewrite 7)) } idle);
      s.released ∧ s.part.lowv = false ∧ s.store.scan = none ∧ p.phase = .verifying ∧
        s.rawBytes (.slot .b 7) = p.target) ∧
    (let p := { prog .verifying 3 with target := List.replicate 4 0xFF };
      let f : InFlight := { flight (.stageBank 13) (.erasing 15) with
        prog := some p, erase := some (erase (.bank 15) .header) };
      let s := arrAccess (.store (.read (.header 15)) false) (running f idle);
      s.released ∧ s.rawBytes (.header 15) = p.target ∧ s.svc.outstanding = none ∧
        f.entry.body = .stageBank 13 ∧ (13 : Byte).toNat = (13 : Logical).val) ∧
    (let s := arrAccess (.store (.read (.whole (.area .b))) false)
        (running { flight .commit .committing with
          erase := some (erase (.area .b) .verifying), mapw := some (mapOp .areaErase false) } idle);
      s.released ∧ s.part.lowv = false ∧ (∀ k, k < 128 → s.array.read ((EraseUnit.area .b).base + k) = 0xFF)) ∧
    (let s := slotPulse 0xFF 0xFF;
      let p : ProgOp := { prog .verifying 11 with target := recordBytes record1 0xFF };
      (arrAccess (.store (.read (.slot .b 7)) false) s).rawBytes (.slot .b 7) = p.target ∧ p.pulses < 12 ∧
        s.arrPort.storeWait = none ∧ 12 ≤ (prog .verifying 12).pulses) :=
  ⟨by decide +kernel, by decide +kernel, ⟨by decide, by decide, fun _ _ => rfl⟩, by decide +kernel⟩

/-- The clauses of the same statement with LOWV# asserted. -/
theorem witness_ErasesAndMapWrites_lowv :
    (let p := { prog .verifying 3 with target := List.replicate 16 0xFF };
      let s := lowv (arrAccess (.store (.read (.slot .b 7)) false)
        (running { flight .commit .committing with
          prog := some p, erase := some (erase (.area .b) (.prewrite 7)), mapw := some (mapOp .areaErase false) } idle));
      s.released ∧ s.part.lowv = true ∧ s.rawBytes (.slot .b 7) = p.target ∧ (mapOp .areaErase false).stage = .areaErase ∧
        s.svc.outstanding = none) ∧
    (let s := lowv (arrAccess (.store (.read (.whole (.area .b))) false)
        (running { flight .commit .committing with
          erase := some (erase (.area .b) .verifying), mapw := some (mapOp .areaErase false) } idle));
      s.released ∧ s.part.lowv = true ∧ (∀ k, k < 128 → s.array.read ((EraseUnit.area .b).base + k) = 0xFF)) ∧
    (let s := lowv (slotPulse 0xFF 0xFF);
      s.part.lowv = true ∧ s.rawBytes (.slot .b 7) = recordBytes record1 0xFF ∧ (mapOp .body false).stage = .body ∧
        (prog .verifying 11).pulses < 12 ∧ s.svc.outstanding = none) :=
  ⟨by decide +kernel, ⟨by decide, by decide, fun _ _ => rfl⟩, by decide +kernel⟩

theorem witness_PulsesMoveBitsOneWay :
    (pulsing.released ∧ pulsing.array.wf = true ∧
      pulsing.arrPort.access = some (.store (.pulse (.glyph 14 63)) false) ∧ pulsing.progOp = some (prog .pulsing 1)) ∧
    (let s := arrAccess (.store (.subPulse (.area .b)) false)
        (running { flight .commit .committing with erase := some (erase (.area .b) .subPulsing) } idle);
      s.released ∧ s.array.wf = true ∧ s.eraseOp = some (erase (.area .b) .subPulsing)) := by decide +kernel

theorem witness_LimitsFailTheirOperations :
    (let f := { flight (.program 63 []) .programming with prog := some (prog .limit 12) };
      let s := running f (staging true idle);
      s.released ∧ s.store.inFlight = some f ∧ f.plainProg (prog .limit 12) ∧ (prog .limit 12).phase = .limit ∧
        s.store.staging.isSome = true ∧ s.svc.outstanding = none ∧ f.stage = .programming) ∧
    (let f := { flight .commit .committing with prog := some (prog .limit 12), mapw := some (mapOp .body true) };
      let s := running f (staging true idle);
      s.released ∧ s.store.inFlight = some f ∧ f.erase = none ∧ (mapOp .body true).second = true) ∧
    (let f := { flight .scrub (.retiring 15 64) with prog := some (prog .limit 12), mapw := some (mapOp .body false) };
      (running f idle).released ∧ f.stage = .retiring 15 64 ∧ (mapOp .body false).second = false ∧
        afterSlot 7 = none ∧ afterSlot 6 = some 7) ∧
    (let f := { flight .scrub (.erasing 15) with erase := some (erase (.bank 15) .spent) };
      let s := { running f idle with store := { (running f idle).store with
        journal := { idle.store.journal with next := some 7 } } };
      s.released ∧ s.part.lowv = false ∧ s.store.inFlight = some f ∧ s.store.journal.generation ≠ 0xFFFFFF ∧
        s.store.journal.next = some 7) ∧
    (let f := { flight .scrub (.erasing 15) with
        prog := some (prog .limit 12), erase := some (erase (.bank 15) .header) };
      f.erase = some (erase (.bank 15) .header) ∧ (erase (.bank 15) (.prewrite 63)).stage = .prewrite 63 ∧
        ({ idle.store.journal with next := none } : Journal).next = none ∧
        ({ idle.store.journal with generation := 0xFFFFFF } : Journal).generation = 0xFFFFFF) ∧
    (let f := { flight .commit .committing with erase := some (erase (.area .b) .spent) };
      let s := running f (staging false idle);
      s.released ∧ s.store.inFlight = some f ∧ s.store.staging.isSome = true ∧ s.svc.outstanding = none) ∧
    (let p := { prog .verifying 12 with place := .slot .b 7, target := List.replicate 16 0xFF };
      let s := arrAccess (.store (.read (.slot .b 7)) false) (running { flight .scrub (.retiring 15 0xFF) with
        prog := some p, mapw := some (mapOp .marker false) } idle);
      s.released ∧ s.rawBytes (.slot .b 7) = p.target ∧ s.store.scan = none ∧ s.svc.outstanding = none) := by
  decide +kernel

/-- The clauses of the same statement about a second slot that LOWV# rules out. -/
theorem witness_Limits_lowv :
    (let f := { flight .commit .committing with prog := some (prog .limit 12), mapw := some (mapOp .body false) };
      let s := lowv (running f (staging true idle));
      s.released ∧ s.part.lowv = true ∧ s.store.inFlight = some f ∧ (mapOp .body false).second = false) ∧
    (let f := { flight .scrub (.retiring 15 64) with prog := some (prog .limit 12), mapw := some (mapOp .body false) };
      (lowv (running f idle)).released ∧ f.stage = .retiring 15 64) := by decide +kernel

theorem witness_StartedCommandsAreChecked :
    (let s := queued 4 (results 3 idle);
      s.released ∧ s.startDue = true ∧ s.store.inFlight = none ∧ s.store.queue ≠ [] ∧ s.store.results.length < 4) ∧
    (let s := queued 1 (results 4 idle);
      s.released ∧ s.startDue = true ∧ s.store.inFlight = none ∧ 4 ≤ s.store.results.length) ∧
    (idle.released ∧ idle.startDue = true ∧ idle.store.queue = []) ∧
    (let f := flight (.check 14) .fresh;
      (running f idle).released ∧ (running f idle).store.inFlight = some f ∧ f.stage = .fresh ∧
        (running f idle).svc.outstanding = none) ∧
    (running (flight (.check 14) .fresh) idle).FailsCheck .cmdCheck (.check 14) .badLogical :=
  ⟨by decide, by decide, by decide, by decide, .checkLogical 14 (by decide)⟩

/-- Banks 14 and 15 with these roles and counts. -/
def spares (r q : Role) (s : State) : State :=
  { s with store := { s.store with
      roles := (s.store.roles.set 14 { role := r, count := 6, estimated := false }).set 15
        { role := q, count := 5, estimated := true } } }

/-- The BEGIN of logical bank 13. -/
def begun (stage : CmdStage) : InFlight := flight (.stageBank 13) stage

theorem witness_BeginStagesASpare :
    (let s := running (begun .fresh) (spares .spareClean .spareClean idle);
      s.released ∧ s.store.inFlight = some (begun .fresh) ∧ (13 : Byte).toNat = (13 : Logical).val ∧
        s.store.staging = none ∧ s.svc.outstanding = none ∧ lowestWith s.store.roles .spareClean = some 15) ∧
    (let s := running (begun .draining) (spares .spareDirty .spareDraining idle);
      s.part.lowv = false ∧ lowestWith s.store.roles .spareClean = none ∧
        lowestWith s.store.roles .spareDirty = some 14) ∧
    (let s := running (begun .fresh) (spares .spareDraining .retired idle);
      lowestWith s.store.roles .spareDirty = none ∧ (s.store.roles.get 14).role = .spareDraining) := by decide +kernel

/-- The roles that the first clause of the statement about BEGIN asks for, in that state. -/
theorem witness_lowestOf :
    (running (begun .fresh) (spares .spareClean .spareClean idle)).lowestOf .spareClean 15 ∧
      (running (begun .fresh) (spares .spareDirty .spareDraining idle)).lowestOf .spareDirty 14 ∧
      (running (begun .fresh) (spares .spareDirty .spareDraining idle)).noBank .spareClean ∧
      (running (begun .fresh) (spares .spareDraining .retired idle)).noBank .spareDirty := by
  unfold State.lowestOf State.noBank
  decide +kernel

/-- R139: with LOWV# asserted a BEGIN that must erase its spare first fails with SUPPLY_LOW, PHYS the bank. -/
theorem test_begin_lowv :
    let s := lowv (running (begun .fresh) (spares .spareDirty .spareDraining idle))
    (s.released ∧ s.part.lowv = true ∧ lowestWith s.store.roles .spareDirty = some 14) ∧
      after (exec .cmdBegin s) (fun t =>
        (t.store.results.map fun r => (r.error, r.phys)) == [(.supplyLow, some 14)] &&
          t.store.roles == s.store.roles) = true := by decide +kernel

theorem witness_StagingCommandsBeginTheirWork :
    (let f := flight (.clone 0x7FFFFFFFFFFFFFFF) .fresh;
      let s := running f (staging false idle);
      s.started f (.clone 0x7FFFFFFFFFFFFFFF) ∧ s.store.staging.isSome = true ∧ s.svc.outstanding = none ∧
        (0x7FFFFFFFFFFFFFFF : BitVec 64).getLsbD 63 = false ∧
        ∀ j, j < 63 → (0x7FFFFFFFFFFFFFFF : BitVec 64).getLsbD j = true) ∧
    (∀ j, j < 64 → (0xFFFFFFFFFFFFFFFF : BitVec 64).getLsbD j = true) ∧
    (let f := flight (.program 63 (List.replicate 16 1)) .fresh;
      let s := running f (staging true idle);
      s.started f (.program 63 (List.replicate 16 1)) ∧ (63 : Byte).toNat ≤ 63 ∧
        (0 : BitVec 64).getLsbD 63 = false ∧ s.part.lowv = false ∧ byteAt (List.replicate 16 1) 0 ≠ 0) ∧
    (let f := flight .commit .fresh;
      let s := { running f (staging true idle) with store := { (running f (staging true idle)).store with
        journal := { idle.store.journal with next := some 7 } } };
      s.started f .commit ∧ s.store.journal.generation ≠ 0xFFFFFF ∧ s.part.lowv = false ∧
        s.store.journal.next = some 7 ∧ f.erase = none ∧ s.store.staging.isSome = true) ∧
    ({ idle.store.journal with next := none } : Journal).next = none ∧
    ({ idle.part with lowv := true } : Part).lowv = true ∧
    ({ idle.store.journal with generation := 0xFFFFFF } : Journal).generation = 0xFFFFFF := by decide +kernel

theorem witness_AbandonScrubAndReadback :
    (let f := flight .abandon .fresh;
      (running f (staging true idle)).started f .abandon ∧
        (running f (staging true idle)).store.staging.isSome = true) ∧
    (let f := flight .scrub .fresh;
      let s := running f (spares .spareClean .retired idle);
      s.started f .scrub ∧ lowestWith s.store.roles .spareDirty = none ∧ s.svc.outstanding = none) ∧
    (let f := flight .scrub .fresh;
      let s := running f (spares .spareDirty .spareDirty idle);
      s.started f .scrub ∧ lowestWith s.store.roles .spareDirty = some 15 ∧ s.part.lowv = false) ∧
    (let f := flight (.readGlyph 895) .fresh;
      (running f idle).started f (.readGlyph 895) ∧ (13 : Logical).val = (895 : Word16).toNat / 64) ∧
    (let f := flight (.check 13) .fresh;
      (running f idle).started f (.check 13) ∧ (13 : Byte).toNat = (13 : Logical).val) := by decide +kernel

/-- The clause of the same statement with LOWV# asserted. -/
theorem witness_Scrub_lowv :
    let s := lowv (running (flight .scrub .fresh) (spares .spareDirty .spareDirty idle))
    s.started (flight .scrub .fresh) .scrub ∧ lowestWith s.store.roles .spareDirty = some 15 ∧ s.part.lowv = true ∧
      s.svc.outstanding = none := by decide +kernel

/-- A start-up scan that has read these slots and empty headers. -/
def scanned (slots : List SlotClass) : State :=
  { State.reset with store := { State.reset.store with
      scan := some { slots := slots, headers := List.replicate 16 none } } }

/-- The last slot of area B holds a valid record with the default's map. -/
def lastSlot : List SlotClass :=
  List.replicate 15 .spoiled ++ [.valid { generation := 0xFFFFFF, map := identityMap, mask := 0 }]

theorem witness_ScanEndTakesEffectInOneStep :
    (scanned lastSlot).released ∧ (scanned lastSlot).svc.startupWait = none ∧
      (scanned lastSlot).store.inFlight = none ∧ lastSlot.length = 16 ∧ identityMap.toList.Nodup ∧
      adoptedAt lastSlot 15 { generation := 0xFFFFFF, map := identityMap, mask := 0 } ∧
      (∀ r, SlotClass.valid r ∉ List.replicate 16 SlotClass.erased) ∧
      ({ scanned lastSlot with svc := { (scanned lastSlot).svc with startupWait := some .q } } : State).svc.sending
        = none := by
  refine ⟨by decide, by decide, by decide, by decide, by decide +kernel, ⟨by decide, ?_⟩, ?_, by decide⟩
  · intro m q h
    have hm : m < 16 := by
      by_contra hm
      rw [List.getElem?_eq_none (by simp [lastSlot]; omega)] at h
      cases h
    interval_cases m <;> simp [lastSlot] at h ⊢
    subst h
    simp
  · intro r h
    rw [List.mem_replicate] at h
    cases h.2

theorem witness_MapRecordsReadBack :
    (0xFFFFFF : BitVec 24) ≠ 0 ∧ identityMap.toList.Nodup ∧
      (∀ l : Logical, (0xC000 : Word16).getLsbD (identityMap.get l).val = false) ∧ (0xFF : Byte) ≠ 0 ∧
      classify (recordBytes { generation := 1, map := identityMap, mask := 0 } 0) =
        .valid { generation := 1, map := identityMap, mask := 0 } := by decide +kernel

/-- R141 and the layout of a map record slot, by hand: generation 010203H, the identity map, bank 15 retired, and the check. -/
theorem test_recordBytes_layout :
    recordBytes { generation := 0x010203, map := identityMap, mask := 0x8000 } 0 =
      [0x03, 0x02, 0x01, 0x10, 0x32, 0x54, 0x76, 0x98, 0xBA, 0xDC, 0x00, 0x80, 0xBF, 0x04, 0xFF, 0x00] := by
  decide +kernel

/-- SYNC with this first measurement. -/
def measured (m : Option Nat) : State := { svc .sync idle with svc := { (svc .sync idle).svc with firstRun := m } }

theorem witness_LowRunsMeasureTheRate :
    ((svc .ready idle).released ∧ (svc .ready idle).svc.state ≠ .sync) ∧
    ((measured none).released ∧ (measured none).svc.state = .sync ∧ 694 < 695 ∧ 33333 < 33334) ∧
    ((measured none).svc.firstRun = none ∧ 695 ≤ 695 ∧ 33333 ≤ 33333) ∧
    ((measured (some 696)).svc.firstRun = some 696 ∧ 696 + 696 / 16 < 740) ∧
    (739 ≤ 696 + 696 / 16 ∧ 696 ≤ 739 + 696 / 16 ∧ (measured (some 696)).svc.sending = none) := by decide

/-- RECEIVING with this buffer. -/
def receiving (l : List Byte) : State :=
  { svc .receiving idle with svc := { (svc .receiving idle).svc with buffer := l, byteTimer := true } }

theorem witness_ReceivedCharactersAreTaken :
    (let s := { svc .confirm idle with svc := { (svc .confirm idle).svc with confirmTimer := true } };
      s.released ∧ s.svc.state = .confirm ∧ s.svc.confirmTimer = true) ∧
    ((svc .confirm idle).svc.confirmTimer = false ∧ (svc .ready idle).svc.state ≠ .confirm) ∧
    ((svc .ready idle).svc.state = .ready ∧ (0x7F : Byte) ≠ 0x7E) ∧
    ((receiving [0x42]).svc.buffer = [0x42] ∧ 17 < (18 : Byte).toNat ∧ (receiving [0x42]).svc.sending = none) ∧
    ((receiving []).svc.buffer = [] ∧ (17 : Byte).toNat ≤ 17 ∧
      2 ≤ (receiving [0x42, 1]).svc.buffer.length ∧
      (receiving [0x42, 1]).svc.buffer.length < (byteAt (receiving [0x42, 1]).svc.buffer 1).toNat + 2) ∧
    ((receiving (Record.wire (.g 63 (List.replicate 16 0)))).svc.buffer = Record.wire (.g 63 (List.replicate 16 0)) ∧
      (List.replicate 16 (0 : Byte)).length = 16) ∧
    (let s := receiving ([0x4D, 1] ++ [7]);
      s.svc.buffer = [0x4D, 1] ++ [7] ∧ (1 : Byte).toNat = [(7 : Byte)].length ∧
        byteSum ([0x4D, 1] ++ [7] ++ [0]) ≠ 0 ∧ byteSum ([0x4D, 1] ++ [7] ++ [0xAB]) = 0 ∧ [(7 : Byte)].length ≠ 0 ∧
        (0x4E : Byte) ∉ [(0x42 : Byte), 0x43, 0x47, 0x4D, 0x41, 0x51, 0x45]) ∧
    (svc .executing idle).svc.state = .executing ∧ (receiving []).svc.byteTimer = true := by decide

/-- The outstanding command of the loader. -/
def outstanding (o : Option (Byte × SvcMark)) (s : State) : State := { s with svc := { s.svc with outstanding := o } }

theorem witness_BreakReturnsToSync :
    ((svc .closing idle).released ∧ (svc .closing idle).svc.state = .closing ∧
      (svc .closing idle).part.service = false) ∧
    ((svc .executing (service idle)).released ∧ (svc .executing (service idle)).svc.state ≠ .sync) ∧
    (outstanding (some (0xFF, .reply)) idle).svc.outstanding = some (0xFF, .reply) ∧
    (outstanding (some (0xFF, .silent)) idle).svc.outstanding = some (0xFF, .silent) ∧
    (TxItem.reply 0x4E [1] true false).acks = true := by decide

/-- The loader in EXECUTING in service mode, with this record due. -/
def dueIn (r : Record) (s : State) : State :=
  { svc .executing (service s) with svc := { (svc .executing (service s)).svc with due := some r } }

theorem witness_StoreRecordsSubmit :
    (let s := dueIn (.b 13) (queued 3 (engine .starting .none idle));
      s.released ∧ storeRow .bRecord (.b 13) = some (1, .stageBank 13) ∧ s.svc.due = some (.b 13) ∧
        s.store.owner = .loader ∧ s.store.queue.length < 4 ∧ s.store.engine = .starting) ∧
    (let s := dueIn .m idle;
      s.store.queue = [] ∧ s.store.engine = .idle ∧ s.store.inFlight = none ∧ s.store.results.length < 4) ∧
    (let s := dueIn .a (engine .halted .none idle);
      s.store.engine = .halted ∧ s.svc.sending = none) ∧
    (let s := dueIn .a (queued 4 (engine .running .none idle));
      s.store.engine ≠ .halted ∧ 4 ≤ s.store.queue.length ∧ s.svc.sending = none) ∧
    (let s := { service idle with svc := { idle.svc with state := .executing, held := some .m } };
      s.released ∧ s.svc.held = some .m ∧ s.svc.outstanding = none ∧ s.store.owner = .loader) := by decide +kernel

theorem witness_StatusAndEndRecordsAreAnswered :
    (let s := dueIn .q idle;
      s.released ∧ s.svc.due = some .q ∧ s.store.engine ≠ .starting ∧ s.svc.sending = none) ∧
    (let s := dueIn .e idle;
      s.released ∧ s.svc.due = some .e ∧ s.store.staging = none) ∧
    (dueIn .e (staging false idle)).store.staging.isSome = true ∧
    (dueIn .e (engine .starting .none idle)).store.engine = .starting ∧
    (let s := { service idle with svc := { idle.svc with state := .executing, held := some .q } };
      s.released ∧ s.svc.held = some .q ∧ s.svc.outstanding = none ∧ s.store.engine ≠ .starting ∧
        s.svc.sending = none) ∧
    (let s := { service (engine .starting .none idle) with
        svc := { idle.svc with state := .executing, held := some .e } };
      s.released ∧ s.svc.held = some .e ∧ s.svc.outstanding = none ∧ s.store.engine = .starting) ∧
    idle.svc.held = none := by decide +kernel

/-- The transmitter sends this item. -/
def sending (it : TxItem) (s : State) : State :=
  { s with svc := { s.svc with sending := some { item := it, bytes := [] } } }

theorem witness_TransmissionEndMovesOn :
    (let s := sending .ready (svc .confirm idle);
      s.released ∧ s.svc.state = .confirm ∧ s.svc.waiting = none) ∧
    (let s := sending (.reply 0x4E [1] true false) (engine .halted .none idle);
      s.released ∧ s.store.engine = .halted ∧ s.svc.waiting = none) ∧
    (let s := sending (.reply 0x4B [] false true) (svc .closing (service idle));
      s.released ∧ s.svc.state = .closing ∧ s.svc.waiting = none) ∧
    (let s := sending (.reply 0x4B [] false false) { idle with
        svc := { idle.svc with waiting := some (.reply 0x4E [1] false false) } };
      s.released ∧ s.svc.waiting = some (.reply 0x4E [1] false false)) := by decide

/-- State.reset meets the invariants that the statements assume. -/
theorem witness_invariants :
    State.reset.queuesFit ∧ State.reset.memoriesCanonical ∧ State.reset.registersInRange ∧
      State.reset.darkWhenDisabled := by
  refine ⟨⟨by decide, by decide, by simp [State.reset]⟩, by unfold State.memoriesCanonical; decide,
    ⟨by unfold Control.inRange; decide, by simp [State.reset], .inr rfl, .inr rfl, by decide, by decide⟩,
    ⟨fun _ => by decide, by simp [State.reset]⟩⟩

theorem witness_patchCodesDistinct : State.reset.patchCodesDistinct := by
  intro m n _ _ _ h
  simp [State.reset] at h

theorem witness_rolesConsistent : State.reset.rolesConsistent := by
  refine ⟨fun _ => rfl, fun _ => ⟨rfl, rfl⟩, fun h => absurd rfl h, fun f h => by simp [State.reset] at h,
    fun p r h hr => ?_⟩
  simp only [State.reset, Option.some.injEq] at h
  subst h
  cases hr

end Sys2Proof.Tests
end

section
/-! SUPPORT. IEN1 and the bit of IFLAG1 that holds no flag: raising flags reaches neither, and the store engine, the
loader and the mover do no more to the interrupt unit than raise flags (R173, R174). -/

namespace Sys2Proof.Machine

/-- What raising a flag cannot reach: the enables of the second flag register, and bit 7 of IFLAG1, which holds no flag
(R173, R174). -/
def Interrupts.unflagged (q : Interrupts) : Byte × Bool := (q.ien1, q.iflag1.getLsbD 7)

@[simp] theorem raise_unflagged (q : Interrupts) (f : Flag) : (q.raise f).unflagged = q.unflagged := by
  have hb : f.second = true → f.bit ≠ 7 := by cases f <;> decide
  unfold Interrupts.raise
  split
  · rename_i h
    have h7 : (setBit q.iflag1 f.bit).getLsbD 7 = q.iflag1.getLsbD 7 := by
      rw [setBit_getLsbD _ _ _ (by decide), decide_eq_false (hb h), Bool.false_or]
    simp only [Interrupts.unflagged, h7]
  · rfl

/-! ## The store engine and the service port -/

@[simp] theorem storeRequest_unflagged (r : StoreReq) (s : State) :
    (storeRequest r s).irq.unflagged = s.irq.unflagged := by
  unfold storeRequest; split <;> simp

@[simp] theorem ackHalt_unflagged (s : State) : (ackHalt s).irq.unflagged = s.irq.unflagged := by
  unfold ackHalt; split <;> simp

@[simp] theorem queueItem_unflagged (it : TxItem) (s : State) : (queueItem it s).irq.unflagged = s.irq.unflagged := by
  unfold queueItem; dsimp only; (repeat' split) <;> simp

@[simp] theorem queueN_unflagged (e : ErrCode) (k : Bool) (s : State) :
    (queueN e k s).irq.unflagged = s.irq.unflagged := by simp [queueN]

@[simp] theorem queueK_unflagged (p : List Byte) (k : Bool) (s : State) :
    (queueK p k s).irq.unflagged = s.irq.unflagged := by simp [queueK]

@[simp] theorem qspaceFrom_unflagged (old : List CmdEntry) (s : State) :
    (qspaceFrom old s).irq.unflagged = s.irq.unflagged := by
  unfold qspaceFrom; split <;> simp

@[simp] theorem startHead_unflagged (s : State) : (startHead s).irq.unflagged = s.irq.unflagged := by
  unfold startHead; (repeat' split) <;> simp

@[simp] theorem startIfDue_unflagged (s : State) : (startIfDue s).irq.unflagged = s.irq.unflagged := by
  unfold startIfDue; split <;> simp

@[simp] theorem enqueue_unflagged (who : Submitter) (k : Byte) (b : CmdBody) (s : State) :
    (enqueue who k b s).irq.unflagged = s.irq.unflagged := by simp [enqueue]

@[simp] theorem discardQueue_unflagged (s : State) : (discardQueue s).irq.unflagged = s.irq.unflagged := by
  simp [discardQueue]

@[simp] theorem loaderTakes_unflagged (r : ResultRec) (s : State) :
    (loaderTakes r s).irq.unflagged = s.irq.unflagged := by
  unfold loaderTakes; dsimp only; (repeat' split) <;> simp

@[simp] theorem endDone_unflagged (p : Option Bank) (d c : Word16) (i : List Byte) (s : State) :
    (endDone p d c i s).irq.unflagged = s.irq.unflagged := by
  unfold endDone; split <;> simp

@[simp] theorem endFailed_unflagged (e : ErrCode) (p : Option Bank) (d : Word16) (s : State) :
    (endFailed e p d s).irq.unflagged = s.irq.unflagged := by
  unfold endFailed; split <;> simp

@[simp] theorem endAborted_unflagged (p : Option Bank) (s : State) :
    (endAborted p s).irq.unflagged = s.irq.unflagged := by
  unfold endAborted; split <;> simp

@[simp] theorem closeStaging_irq (r : Role) (s : State) : (closeStaging r s).irq = s.irq := by
  unfold closeStaging; split <;> rfl

@[simp] theorem cutEffects_irq (f : InFlight) (s : State) : (cutEffects f s).irq = s.irq := by
  have hm : (cutMapWrite f s).irq = s.irq := by
    unfold cutMapWrite; (repeat' split) <;> rfl
  unfold cutEffects; split <;> simp [hm]

@[simp] theorem cutBySupply_unflagged (s : State) : (cutBySupply s).irq.unflagged = s.irq.unflagged := by
  unfold cutBySupply; (repeat' split) <;> simp

@[simp] theorem presentPulse_unflagged (r : StoreReq) (s : State) :
    (presentPulse r s).irq.unflagged = s.irq.unflagged := by
  unfold presentPulse; split <;> simp

@[simp] theorem presentDeferred_unflagged (s : State) : (presentDeferred s).irq.unflagged = s.irq.unflagged := by
  unfold presentDeferred; dsimp only; (repeat' split) <;> simp

@[simp] theorem startProg_unflagged (u : ArrUnit) (l : List Byte) (n : Nat) (s : State) :
    (startProg u l n s).irq.unflagged = s.irq.unflagged := by
  unfold startProg; dsimp only; split <;> simp

@[simp] theorem startPrewrite_unflagged (u : EraseUnit) (k : Nat) (s : State) :
    (startPrewrite u k s).irq.unflagged = s.irq.unflagged := by simp [startPrewrite]

@[simp] theorem startSubPulse_unflagged (e : EraseOp) (s : State) :
    (startSubPulse e s).irq.unflagged = s.irq.unflagged := by simp [startSubPulse]

@[simp] theorem startSlot_unflagged (m : MapOp) (ar : Area) (n : Fin 8) (s : State) :
    (startSlot m ar n s).irq.unflagged = s.irq.unflagged := by simp [startSlot]

@[simp] theorem startMarker_unflagged (m : MapOp) (n : Nat) (s : State) :
    (startMarker m n s).irq.unflagged = s.irq.unflagged := by simp [startMarker]

@[simp] theorem mapFails_unflagged (d : Word16) (s : State) : (mapFails d s).irq.unflagged = s.irq.unflagged := by
  unfold mapFails; (repeat' split) <;> simp

@[simp] theorem chooseSlot_unflagged (m : MapOp) (s : State) :
    (chooseSlot m s).irq.unflagged = s.irq.unflagged := by
  unfold chooseSlot; split <;> simp

@[simp] theorem startMapWrite_unflagged (v : Vector Bank 14) (w : Word16) (s : State) :
    (startMapWrite v w s).irq.unflagged = s.irq.unflagged := by
  unfold startMapWrite; split <;> simp

@[simp] theorem slotFails_unflagged (m : MapOp) (s : State) : (slotFails m s).irq.unflagged = s.irq.unflagged := by
  unfold slotFails; dsimp only; split <;> simp

@[simp] theorem commitChanges_irq (g : Staging) (s : State) : (commitChanges g s).irq = s.irq := by
  unfold commitChanges; dsimp only; split <;> rfl

@[simp] theorem mapSucceeds_unflagged (m : MapOp) (s : State) :
    (mapSucceeds m s).irq.unflagged = s.irq.unflagged := by
  unfold mapSucceeds; dsimp only; (repeat' split) <;> simp

@[simp] theorem eraseFails_unflagged (e : EraseOp) (c : Byte) (s : State) :
    (eraseFails e c s).irq.unflagged = s.irq.unflagged := by
  unfold eraseFails; split <;> simp [retireBank]

@[simp] theorem openStaging_unflagged (b : Bank) (l : Logical) (n : Nat) (s : State) :
    (openStaging b l n s).irq.unflagged = s.irq.unflagged := by simp [openStaging]

@[simp] theorem bankErased_unflagged (b : Bank) (e : EraseOp) (s : State) :
    (bankErased b e s).irq.unflagged = s.irq.unflagged := by
  unfold bankErased; dsimp only; (repeat' split) <;> simp

@[simp] theorem areaErased_unflagged (ar : Area) (s : State) :
    (areaErased ar s).irq.unflagged = s.irq.unflagged := by
  unfold areaErased; split <;> simp

@[simp] theorem eraseVerified_unflagged (e : EraseOp) (raw : List Byte) (s : State) :
    (eraseVerified e raw s).irq.unflagged = s.irq.unflagged := by
  unfold eraseVerified; (repeat' split) <;> simp

@[simp] theorem cloneFrom_unflagged (i n : Nat) (s : State) : (cloneFrom i n s).irq.unflagged = s.irq.unflagged := by
  unfold cloneFrom; (repeat' split) <;> simp

@[simp] theorem cloneDone_unflagged (i n p : Nat) (s : State) :
    (cloneDone i n p s).irq.unflagged = s.irq.unflagged := by simp [cloneDone]

@[simp] theorem programDone_unflagged (p : Nat) (s : State) : (programDone p s).irq.unflagged = s.irq.unflagged := by
  unfold programDone; split <;> simp

theorem writeGlyph_unflagged (b : Bank) (g : Nat) (raw : List Byte) (k : State → State) (s : State)
    (h : (k s).irq.unflagged = s.irq.unflagged) : (writeGlyph b g raw k s).irq.unflagged = s.irq.unflagged := by
  unfold writeGlyph; split <;> simp [h]

@[simp] theorem cloneProgram_unflagged (i n : Nat) (raw : List Byte) (s : State) :
    (cloneProgram i n raw s).irq.unflagged = s.irq.unflagged := by
  unfold cloneProgram
  split
  · rfl
  · exact writeGlyph_unflagged _ _ _ _ _ (cloneDone_unflagged _ _ _ _)

@[simp] theorem eraseProgDone_unflagged (e : EraseOp) (s : State) :
    (eraseProgDone e s).irq.unflagged = s.irq.unflagged := by
  unfold eraseProgDone; (repeat' split) <;> simp [enterSubPulses]

@[simp] theorem progDone_unflagged (f : InFlight) (p : ProgOp) (s : State) :
    (progDone f p s).irq.unflagged = s.irq.unflagged := by
  unfold progDone; dsimp only; (repeat' split) <;> simp

@[simp] theorem progVerified_unflagged (f : InFlight) (p : ProgOp) (raw : List Byte) (s : State) :
    (progVerified f p raw s).irq.unflagged = s.irq.unflagged := by
  unfold progVerified; dsimp only; (repeat' split) <;> simp

@[simp] theorem progFails_unflagged (f : InFlight) (s : State) : (progFails f s).irq.unflagged = s.irq.unflagged := by
  unfold progFails eraseProgFails; (repeat' split) <;> simp

@[simp] theorem beginChoice_unflagged (l : Logical) (s : State) :
    (beginChoice l s).irq.unflagged = s.irq.unflagged := by
  unfold beginChoice; split <;> simp [eraseSpare]

@[simp] theorem stepBegin_unflagged (s : State) : (stepBegin s).irq.unflagged = s.irq.unflagged := by
  unfold stepBegin; (repeat' split) <;> simp

@[simp] theorem stepChooseAgain_unflagged (s : State) : (stepChooseAgain s).irq.unflagged = s.irq.unflagged := by
  unfold stepChooseAgain; (repeat' split) <;> simp

@[simp] theorem stepClone_unflagged (s : State) : (stepClone s).irq.unflagged = s.irq.unflagged := by
  unfold stepClone; (repeat' split) <;> simp

@[simp] theorem stepProgram_unflagged (s : State) : (stepProgram s).irq.unflagged = s.irq.unflagged := by
  have hw : ∀ b g raw k f, (writeGlyph b g raw (programDone k) ((startFilling s).withFlight f)).irq.unflagged =
      s.irq.unflagged := fun b g raw k f => writeGlyph_unflagged _ _ _ _ _ (programDone_unflagged _ _)
  unfold stepProgram; (repeat' split) <;> simp [hw]

@[simp] theorem stepCommit_unflagged (s : State) : (stepCommit s).irq.unflagged = s.irq.unflagged := by
  unfold stepCommit; (repeat' split) <;> simp

@[simp] theorem stepAbandon_unflagged (s : State) : (stepAbandon s).irq.unflagged = s.irq.unflagged := by
  unfold stepAbandon; (repeat' split) <;> simp

@[simp] theorem stepScrub_unflagged (s : State) : (stepScrub s).irq.unflagged = s.irq.unflagged := by
  unfold stepScrub; (repeat' split) <;> simp [eraseSpare]

@[simp] theorem stepReadglyph_unflagged (s : State) : (stepReadglyph s).irq.unflagged = s.irq.unflagged := by
  unfold stepReadglyph; dsimp only; (repeat' split) <;> simp

@[simp] theorem stepCheck_unflagged (s : State) : (stepCheck s).irq.unflagged = s.irq.unflagged := by
  unfold stepCheck; dsimp only; (repeat' split) <;> simp

@[simp] theorem stepBadKind_unflagged (s : State) : (stepBadKind s).irq.unflagged = s.irq.unflagged := by
  unfold stepBadKind; split <;> simp

@[simp] theorem storeReadDone_unflagged (raw : List Byte) (s : State) :
    (storeReadDone raw s).irq.unflagged = s.irq.unflagged := by
  unfold storeReadDone scanRead flightRead checkRead; dsimp only; (repeat' split) <;> simp

@[simp] theorem pulseLimitReached_unflagged (s : State) :
    (pulseLimitReached s).irq.unflagged = s.irq.unflagged := by
  unfold pulseLimitReached; (repeat' split) <;> simp

@[simp] theorem subpulseBudgetSpent_unflagged (s : State) :
    (subpulseBudgetSpent s).irq.unflagged = s.irq.unflagged := by
  unfold subpulseBudgetSpent; (repeat' split) <;> simp

@[simp] theorem actRecord_unflagged (r : Record) (s : State) : (actRecord r s).irq.unflagged = s.irq.unflagged := by
  unfold actRecord submitRecord answerE answerQ; (repeat' split) <;> simp

@[simp] theorem startUpScanEnd_unflagged (s : State) : (startUpScanEnd s).irq.unflagged = s.irq.unflagged := by
  unfold startUpScanEnd actStartupWait finishScan; dsimp only; (repeat' split) <;> simp

end Sys2Proof.Machine
end

section
/-! SUPPORT. The registers and the dark display: what each operation leaves of the state that the two invariants read
(R15, R18, R22, R35, R39, R71, R72, R81, R84, R113, R153, R174). -/

namespace Sys2Proof.Machine

/-- The registers hold accepted values, and a disabled display is dark: the two invariants together. -/
def State.displaySound (s : State) : Prop := s.registersInRange ∧ s.darkWhenDisabled

/-- The frame registers as a configuration latch takes them (R26). -/
def Control.frame (c : Control) : FrameCfg :=
  { panelw := c.panelw, vislines := c.vislines, hblank := c.hblank, vblank := c.vblank, cellw := c.cellw
    blinkp := c.blinkp }

/-- A configuration latched from accepted registers holds accepted values. -/
theorem Control.frame_inRange {c : Control} (h : c.inRange) : c.frame.inRange := by
  obtain ⟨h1, h2, h3, h4, h5, h6, h7, h8, h9, h10, h11, -, -⟩ := h
  exact ⟨h1, h2, h3, h4, h5, h6, h7, h8, h9, h10, h11⟩

/-- The bits that no flag reaches, from the enables and the flag register themselves. -/
theorem unflagged_bits {q r : Interrupts} (h : r.unflagged = q.unflagged) :
    r.ien1 = q.ien1 ∧ r.iflag1.getLsbD 7 = q.iflag1.getLsbD 7 := by
  simpa only [Interrupts.unflagged, Prod.mk.injEq] using h

/-! ## Work that does not touch the display -/

/-- `t` has the display as `s` has it: the registers, the scan engine but for the display map, and the row buffers; the
interrupt unit has at most gained flags, and the part has entered neither service mode nor reset. -/
structure DisplayKept (s t : State) : Prop where
  held : t.part.service = true ∨ t.part.resetHeld = true → s.part.service = true ∨ s.part.resetHeld = true
  irq : t.irq.unflagged = s.irq.unflagged
  ctl : t.ctl = s.ctl
  scan : t.scan = { s.scan with displayMap := t.scan.displayMap }
  rows : t.rows = s.rows

theorem DisplayKept.trans {s t u : State} (h : DisplayKept s t) (k : DisplayKept t u) : DisplayKept s u where
  held := h.held ∘ k.held
  irq := k.irq.trans h.irq
  ctl := k.ctl.trans h.ctl
  scan := by rw [k.scan, h.scan]
  rows := k.rows.trans h.rows

theorem DisplayKept.after {s t u : State} (k : DisplayKept t u) (h : DisplayKept s t) : DisplayKept s u := h.trans k

/-- The fields that the invariants read are the same. -/
theorem DisplayKept.of_eq {s t : State} (hp : t.part = s.part) (hi : t.irq.unflagged = s.irq.unflagged)
    (hc : t.ctl = s.ctl) (hs : t.scan = s.scan) (hr : t.rows = s.rows) : DisplayKept s t where
  held := by rw [hp]; exact id
  irq := hi
  ctl := hc
  scan := by rw [hs]
  rows := hr

theorem DisplayKept.refl (s : State) : DisplayKept s s := .of_eq rfl rfl rfl rfl rfl

/-- The store engine's work leaves the display alone. -/
theorem StoreSide.displayKept {s t : State} (h : StoreSide s t) (hi : t.irq.unflagged = s.irq.unflagged) :
    DisplayKept s t where
  held := by rw [h.part]; exact id
  irq := hi
  ctl := h.ctl
  scan := h.scan
  rows := h.rows

/-- Work that leaves the display alone keeps the invariants. -/
theorem DisplayKept.sound {s t : State} (h : DisplayKept s t) (hs : s.displaySound) : t.displaySound := by
  obtain ⟨⟨hctl, hcfg, hact, hpend, hen, hfl⟩, hdark, hlit⟩ := hs
  obtain ⟨hien, hbit⟩ := unflagged_bits h.irq
  unfold State.displaySound State.registersInRange State.darkWhenDisabled
  rw [hien, hbit, h.ctl, h.scan, h.rows]
  exact ⟨⟨hctl, hcfg, hact, hpend, hen, hfl⟩, hdark, hlit ∘ h.held⟩

/-! ## Work of an enabled display -/

/-- An enabled display keeps the invariants as long as its registers hold accepted values. -/
theorem displaySound_of_enabled {s : State} (he : s.scan.enabled = true) (hp : s.part.service = false)
    (hr : s.part.resetHeld = false) (h : s.registersInRange) : s.displaySound :=
  ⟨h, by simp [he], by simp [hp, hr]⟩

/-- `t` comes from `s` by the scan engine's own work: the registers, the configuration and the display state stay, and the
head in force is the old one or the pending one. Positions, outputs and row buffers are free. -/
structure ScanWork (s t : State) : Prop where
  part : t.part = s.part
  irq : t.irq.unflagged = s.irq.unflagged
  ctl : t.ctl = s.ctl
  enabled : t.scan.enabled = s.scan.enabled
  cfg : t.scan.cfg = s.scan.cfg
  headact : t.scan.headact = s.scan.headact ∨ t.scan.headact = s.scan.headpend
  headpend : t.scan.headpend = s.scan.headpend

theorem ScanWork.refl (s : State) : ScanWork s s := ⟨rfl, rfl, rfl, rfl, rfl, .inl rfl, rfl⟩

theorem ScanWork.trans {s t u : State} (h : ScanWork s t) (k : ScanWork t u) : ScanWork s u where
  part := k.part.trans h.part
  irq := k.irq.trans h.irq
  ctl := k.ctl.trans h.ctl
  enabled := k.enabled.trans h.enabled
  cfg := k.cfg.trans h.cfg
  headact := by
    rcases k.headact with hk | hk
    · rw [hk]; exact h.headact
    · exact .inr (hk.trans h.headpend)
  headpend := k.headpend.trans h.headpend

/-- The scan engine's work on an enabled display keeps the invariants: whatever it does to positions and buffers, the
display is not disabled. -/
theorem ScanWork.sound {s t : State} (h : ScanWork s t) (he : s.scan.enabled = true) (hs : s.displaySound) :
    t.displaySound := by
  obtain ⟨⟨hctl, hcfg, hact, hpend, hen, hfl⟩, -, hlit⟩ := hs
  obtain ⟨hien, hbit⟩ := unflagged_bits h.irq
  have hoff : ¬(s.part.service = true ∨ s.part.resetHeld = true) := fun hp => by simp [hlit hp] at he
  have hhead : headOk t.scan.headact := by
    rcases h.headact with e | e <;> rw [e] <;> assumption
  refine ⟨⟨by rwa [h.ctl], fun _ => ?_, hhead, ?_, by rwa [hien], by rwa [hbit]⟩, ?_, ?_⟩
  · rw [h.cfg]; exact hcfg he
  · rw [h.headpend]; exact hpend
  · intro hd; rw [h.enabled, he] at hd; cases hd
  · intro hp; rw [h.part] at hp; exact absurd hp hoff

/-- Work that leaves the display alone is work that a scan engine may have done. -/
theorem ScanWork.of_scan {s t : State} (hp : t.part = s.part) (hi : t.irq.unflagged = s.irq.unflagged)
    (hc : t.ctl = s.ctl) (hs : t.scan = s.scan) : ScanWork s t :=
  ⟨hp, hi, hc, by rw [hs], by rw [hs], .inl (by rw [hs]), by rw [hs]⟩

theorem LoaderSide.scanWork {s t : State} (h : LoaderSide s t) (hi : t.irq.unflagged = s.irq.unflagged) :
    ScanWork s t :=
  ⟨h.part, hi, h.ctl, by rw [h.scan], by rw [h.scan], .inl (by rw [h.scan]), by rw [h.scan]⟩

/-! ## The row loader -/

@[simp] theorem beginEntry_irq (i : RowInst) (j : Nat) (s : State) : (beginEntry i j s).irq = s.irq := by
  unfold beginEntry; dsimp only; split <;> rfl

@[simp] theorem beginLoad_irq (i : RowInst) (s : State) : (beginLoad i s).irq = s.irq := by
  unfold beginLoad; split <;> simp

@[simp] theorem listFault_irq (c : ListCode) (n : Nat) (s : State) :
    (listFault c n s).irq = s.irq.raise .listFault := rfl

@[simp] theorem latchInst_unflagged (i k : Nat) (s : State) :
    (latchInst i k s).irq.unflagged = s.irq.unflagged := by
  unfold latchInst; dsimp only; split <;> simp

@[simp] theorem latchFirst_unflagged (s : State) : (latchFirst s).irq.unflagged = s.irq.unflagged := by
  unfold latchFirst; split <;> simp

@[simp] theorem latchFollowing_unflagged (i : RowInst) (n : Nat) (s : State) :
    (latchFollowing i n s).irq.unflagged = s.irq.unflagged := by
  unfold latchFollowing; (repeat' split) <;> simp

theorem scanWork_arrayGrant (s : State) : ScanWork s (arrayGrant s) :=
  .of_scan (by simp) (by simp) (by simp) (by simp)

theorem scanWork_latchFirst (s : State) : ScanWork s (latchFirst s) := (loaderSide_latchFirst s).scanWork (by simp)

/-- A first latch still to be made is the scan engine's work. -/
theorem scanWork_takeLatch (s : State) : ScanWork s (takeLatch s) := by
  unfold takeLatch
  split
  · have h : ScanWork s { s with scan := { s.scan with latchDue := false } } :=
      ⟨rfl, rfl, rfl, rfl, rfl, .inl rfl, rfl⟩
    exact (h.trans (scanWork_latchFirst _)).trans (scanWork_arrayGrant _)
  · exact .refl s

theorem scanWork_entryDone (i : RowInst) (j : Nat) (s : State) : ScanWork s (entryDone i j s) := by
  unfold entryDone
  split
  · exact (loaderSide_beginEntry _ _ _).scanWork (by simp)
  · exact .of_scan rfl rfl rfl rfl

theorem scanWork_resolveCell (w : Word16) (s : State) : ScanWork s (resolveCell w s) := by
  unfold resolveCell
  split
  · dsimp only
    split
    · exact scanWork_entryDone _ _ _
    · exact .of_scan (by simp [loaderArrayRead]) (by simp [loaderArrayRead]) (by simp [loaderArrayRead])
        (by simp [loaderArrayRead])
  · exact .refl s

theorem scanWork_storeSlices (l : List Byte) (s : State) : ScanWork s (storeSlices l s) := by
  unfold storeSlices
  split
  · exact scanWork_entryDone _ _ _
  · exact .refl s

/-- A loader with a working record has an enabled display. -/
theorem State.displaySound.enabled_of_work {s : State} (hs : s.displaySound) (h : s.rows.work.isSome = true) :
    s.scan.enabled = true := by
  by_contra he
  obtain ⟨-, hdark, -⟩ := hs
  obtain ⟨-, -, -, -, -, -, hw, -, -⟩ := hdark (by simpa using he)
  simp [hw] at h

/-- The resolution of a cell read keeps the invariants: without a working record nothing happens. -/
theorem resolveCell_sound (w : Word16) {s : State} (hs : s.displaySound) : (resolveCell w s).displaySound := by
  rcases hw : s.rows.work with _ | wk
  · simpa [resolveCell, hw] using hs
  · exact (scanWork_resolveCell w s).sound (hs.enabled_of_work (by simp [hw])) hs

theorem storeSlices_sound (l : List Byte) {s : State} (hs : s.displaySound) : (storeSlices l s).displaySound := by
  rcases hw : s.rows.work with _ | wk
  · simpa [storeSlices, hw] using hs
  · exact (scanWork_storeSlices l s).sound (hs.enabled_of_work (by simp [hw])) hs

/-- Only an enabled display has a first latch left to the next step. -/
theorem takeLatch_sound {s : State} (hs : s.displaySound) : (takeLatch s).displaySound := by
  by_cases hd : s.scan.latchDue = true
  · refine (scanWork_takeLatch s).sound ?_ hs
    by_contra he
    obtain ⟨-, hdark, -⟩ := hs
    obtain ⟨-, -, hl, -⟩ := hdark (by simpa using he)
    simp [hl] at hd
  · rwa [takeLatch_none (by simpa using hd)]

/-! ## The scan engine -/

theorem scanWork_copyUnlessStarting (s : State) : ScanWork s (copyUnlessStarting s) := by
  unfold copyUnlessStarting
  split
  · exact .refl s
  · exact ⟨rfl, rfl, rfl, rfl, rfl, .inl rfl, rfl⟩

theorem scanWork_doSwap (s : State) : ScanWork s (doSwap s) :=
  ⟨rfl, by simp, rfl, rfl, rfl, .inr rfl, rfl⟩

theorem scanWork_swapIfPending (s : State) : ScanWork s (swapIfPending s) := by
  unfold swapIfPending
  split
  · exact scanWork_doSwap s
  · exact .refl s

theorem scanWork_blinkStep (s : State) : ScanWork s (blinkStep s) := by
  unfold blinkStep
  split <;> exact ⟨rfl, rfl, rfl, rfl, rfl, .inl rfl, rfl⟩

/-- After the configuration latch, a frame start is the scan engine's work. -/
theorem scanWork_frameSettings (s : State) : ScanWork (latchConfig s) (frameSettings s) := by
  have hm : ∀ u, ScanWork u (marqueeAdvance u) := fun u => .of_scan rfl rfl rfl rfl
  have hc : ∀ u, ScanWork u (enterVblank (countFrame u)) := fun u => ⟨rfl, by simp, rfl, rfl, rfl, .inl rfl, rfl⟩
  exact ((((scanWork_swapIfPending _).trans (hm _)).trans (scanWork_copyUnlessStarting _)).trans
    (scanWork_blinkStep _)).trans (hc _)

theorem scanWork_openFrame (s : State) : ScanWork (latchConfig s) (openFrame s) :=
  ((scanWork_frameSettings s).trans (scanWork_latchFirst _)).trans (scanWork_arrayGrant _)

/-- The configuration latch brings the latched configuration into range. -/
theorem latchConfig_inRange {s : State} (h : s.registersInRange) : (latchConfig s).registersInRange := by
  obtain ⟨hctl, -, hact, hpend, hen, hfl⟩ := h
  exact ⟨hctl, fun _ => Control.frame_inRange hctl, hact, hpend, hen, hfl⟩

/-- A frame that opens with the display enabled keeps the invariants. -/
theorem openFrame_sound {s : State} (he : s.scan.enabled = true) (hp : s.part.service = false)
    (hr : s.part.resetHeld = false) (h : (latchConfig s).registersInRange) : (openFrame s).displaySound :=
  (scanWork_openFrame s).sound he (displaySound_of_enabled he hp hr h)

/-- With the display enabled the part is in normal mode and not in reset. -/
theorem State.displaySound.normal {s : State} (hs : s.displaySound) (he : s.scan.enabled = true) :
    s.part.service = false ∧ s.part.resetHeld = false := by
  obtain ⟨-, -, hlit⟩ := hs
  constructor <;> by_contra h
  · simp [hlit (.inl (by simpa using h))] at he
  · simp [hlit (.inr (by simpa using h))] at he

/-- A display whose frame start is due is enabled. -/
theorem enabled_of_frameDue {s : State} (h : s.frameDue = true) : s.scan.enabled = true := by
  unfold State.frameDue at h
  rw [Bool.and_eq_true] at h
  exact h.1

theorem frameStart_sound {s : State} (hs : s.displaySound) : (frameStart s).displaySound := by
  by_cases hd : s.frameDue = true
  · have he := enabled_of_frameDue hd
    obtain ⟨hp, hr⟩ := hs.normal he
    have hl := latchConfig_inRange (s := { s with freeCount := s.freeCount + 1 }) hs.1
    rcases frameStart_due hd with e | e <;> rw [e]
    · exact openFrame_sound he hp hr hl
    · have h : ∀ u : State, ScanWork u { u with scan := { u.scan with latchDue := true } } := fun u =>
        ⟨rfl, rfl, rfl, rfl, rfl, .inl rfl, rfl⟩
      exact ((scanWork_frameSettings _).trans (h _)).sound he (displaySound_of_enabled he hp hr hl)
  · simpa [frameStart, hd] using hs

theorem scanWork_lateRow (s : State) : ScanWork s (lateRow s) := by
  unfold lateRow
  split
  · exact ⟨rfl, by simp, rfl, rfl, rfl, .inl rfl, rfl⟩
  · exact .refl s

theorem scanWork_markRow (i : RowInst) (s : State) : ScanWork s (markRow i s) := by
  unfold markRow
  split
  · exact ⟨rfl, by simp, rfl, rfl, rfl, .inl rfl, rfl⟩
  · exact .refl s

theorem scanWork_startRow (i : RowInst) (n : Nat) (s : State) : ScanWork s (startRow i n s) := by
  have hx : ∀ u : State, ScanWork u { u with rows := u.rows.exchange, scan := { u.scan with rowStart := some n } } :=
    fun u => ⟨rfl, rfl, rfl, rfl, rfl, .inl rfl, rfl⟩
  exact ((((scanWork_lateRow s).trans (hx _)).trans (scanWork_markRow i _)).trans
    ((loaderSide_latchFollowing i n _).scanWork (by simp))).trans (scanWork_arrayGrant _)

theorem scanWork_visibleLine (n : Nat) (s : State) : ScanWork s (visibleLine n s) := by
  have hr : ScanWork s (rowEvents n s) := by
    unfold rowEvents
    split
    · exact .refl s
    · split
      · exact scanWork_startRow _ _ _
      · exact ⟨rfl, rfl, rfl, rfl, rfl, .inl rfl, rfl⟩
  exact hr.trans ⟨rfl, rfl, rfl, rfl, rfl, .inl rfl, rfl⟩

/-- A display with a frame position is enabled, so a line start may do with it what it will. -/
theorem lineStart_sound {s : State} (hs : s.displaySound) : (lineStart s).displaySound := by
  have he : s.scan.pos ≠ .none → s.scan.enabled = true := by
    intro hp
    by_contra he
    obtain ⟨-, hdark, -⟩ := hs
    exact hp (hdark (by simpa using he)).1
  unfold lineStart
  split
  · exact hs
  · rename_i n hn
    have he := he (by simp [hn])
    split
    · exact ScanWork.sound (s := s) ⟨rfl, rfl, rfl, rfl, rfl, .inl rfl, rfl⟩ he hs
    · exact (scanWork_visibleLine _ _).sound he hs
  · rename_i n hn
    split
    · exact (scanWork_visibleLine _ _).sound (he (by simp [hn])) hs
    · exact hs

theorem endActiveDots_sound {s : State} (hs : s.displaySound) : (endActiveDots s).displaySound := by
  unfold endActiveDots
  split
  · rename_i hp
    refine ScanWork.sound (s := s) ⟨rfl, rfl, rfl, rfl, rfl, .inl rfl, rfl⟩ ?_ hs
    by_contra he
    obtain ⟨-, hdark, -⟩ := hs
    obtain ⟨-, -, -, ho, -⟩ := hdark (by simpa using he)
    simp [ho] at hp
  · exact hs

/-! ## The stop of the display -/

/-- A frame start, a disable and a DISPLAY RESET show the store map from then on and release the draining spares, unless the
store engine is STARTING (R99, R100). -/
theorem copyUnlessStarting_eq (s : State) :
    copyUnlessStarting s = { s with
      scan := { s.scan with
        displayMap := if s.store.engine = .starting then s.scan.displayMap else s.store.storeMap }
      store := { s.store with
        roles := if s.store.engine = .starting then s.store.roles else releaseDraining s.store.roles } } := by
  unfold copyUnlessStarting
  split
  · rfl
  · rfl

@[simp] theorem copyUnlessStarting_scan (s : State) :
    (copyUnlessStarting s).scan = { s.scan with
      displayMap := if s.store.engine = .starting then s.scan.displayMap else s.store.storeMap } := by
  rw [copyUnlessStarting_eq]

@[simp] theorem copyUnlessStarting_store (s : State) :
    (copyUnlessStarting s).store = { s.store with
      roles := if s.store.engine = .starting then s.store.roles else releaseDraining s.store.roles } := by
  rw [copyUnlessStarting_eq]

@[simp] theorem copyUnlessStarting_part (s : State) : (copyUnlessStarting s).part = s.part := by
  rw [copyUnlessStarting_eq]

@[simp] theorem copyUnlessStarting_irq (s : State) : (copyUnlessStarting s).irq = s.irq := by
  rw [copyUnlessStarting_eq]

@[simp] theorem copyUnlessStarting_win (s : State) : (copyUnlessStarting s).win = s.win := by
  rw [copyUnlessStarting_eq]

@[simp] theorem copyUnlessStarting_ctl (s : State) : (copyUnlessStarting s).ctl = s.ctl := by
  rw [copyUnlessStarting_eq]

@[simp] theorem copyUnlessStarting_cells (s : State) : (copyUnlessStarting s).cells = s.cells := by
  rw [copyUnlessStarting_eq]

@[simp] theorem copyUnlessStarting_cellPort (s : State) : (copyUnlessStarting s).cellPort = s.cellPort := by
  rw [copyUnlessStarting_eq]

@[simp] theorem copyUnlessStarting_mover (s : State) : (copyUnlessStarting s).mover = s.mover := by
  rw [copyUnlessStarting_eq]

@[simp] theorem copyUnlessStarting_descs (s : State) : (copyUnlessStarting s).descs = s.descs := by
  rw [copyUnlessStarting_eq]

@[simp] theorem copyUnlessStarting_attrs (s : State) : (copyUnlessStarting s).attrs = s.attrs := by
  rw [copyUnlessStarting_eq]

@[simp] theorem copyUnlessStarting_patch (s : State) : (copyUnlessStarting s).patch = s.patch := by
  rw [copyUnlessStarting_eq]

@[simp] theorem copyUnlessStarting_patchValid (s : State) : (copyUnlessStarting s).patchValid = s.patchValid := by
  rw [copyUnlessStarting_eq]

@[simp] theorem copyUnlessStarting_rows (s : State) : (copyUnlessStarting s).rows = s.rows := by
  rw [copyUnlessStarting_eq]

@[simp] theorem copyUnlessStarting_array (s : State) : (copyUnlessStarting s).array = s.array := by
  rw [copyUnlessStarting_eq]

@[simp] theorem copyUnlessStarting_arrPort (s : State) : (copyUnlessStarting s).arrPort = s.arrPort := by
  rw [copyUnlessStarting_eq]

@[simp] theorem copyUnlessStarting_svc (s : State) : (copyUnlessStarting s).svc = s.svc := by
  rw [copyUnlessStarting_eq]

/-- The scan engine of a display that has been stopped (R22, R24, R37, R39, R99). -/
@[simp] theorem stopDisplay_scan (s : State) :
    (stopDisplay s).scan = { s.scan with
      enabled := false, pos := .none, rowStart := none, part := .off, lsel := 0, dots := []
      displayMap := if s.store.engine = .starting then s.scan.displayMap else s.store.storeMap } := by
  simp [stopDisplay]

/-- The loader of a display that has been stopped: STOPPED, both buffers empty (R71, R81). -/
@[simp] theorem stopDisplay_rows (s : State) :
    (stopDisplay s).rows = { loader := .stopped, work := none, buf0 := none, buf1 := none, loadingIs1 := false } := by
  simp [stopDisplay]

@[simp] theorem stopDisplay_part (s : State) : (stopDisplay s).part = s.part := by simp [stopDisplay]

@[simp] theorem stopDisplay_irq (s : State) : (stopDisplay s).irq = s.irq := by simp [stopDisplay]

@[simp] theorem stopDisplay_win (s : State) : (stopDisplay s).win = s.win := by simp [stopDisplay]

@[simp] theorem stopDisplay_ctl (s : State) : (stopDisplay s).ctl = s.ctl := by simp [stopDisplay]

@[simp] theorem stopDisplay_cells (s : State) : (stopDisplay s).cells = s.cells := by simp [stopDisplay]

@[simp] theorem stopDisplay_mover (s : State) : (stopDisplay s).mover = s.mover := by simp [stopDisplay]

@[simp] theorem stopDisplay_descs (s : State) : (stopDisplay s).descs = s.descs := by simp [stopDisplay]

@[simp] theorem stopDisplay_attrs (s : State) : (stopDisplay s).attrs = s.attrs := by simp [stopDisplay]

@[simp] theorem stopDisplay_patch (s : State) : (stopDisplay s).patch = s.patch := by simp [stopDisplay]

@[simp] theorem stopDisplay_patchValid (s : State) : (stopDisplay s).patchValid = s.patchValid := by simp [stopDisplay]

@[simp] theorem stopDisplay_array (s : State) : (stopDisplay s).array = s.array := by simp [stopDisplay]

@[simp] theorem stopDisplay_svc (s : State) : (stopDisplay s).svc = s.svc := by simp [stopDisplay]

/-- A display that has just been stopped is dark, whatever it showed, with no swap pending. -/
theorem stopDisplay_sound {s : State} (hs : s.registersInRange) (hl : s.scan.latchDue = false)
    (hw : s.scan.swapPending = false) : (stopDisplay s).displaySound := by
  obtain ⟨hctl, -, hact, hpend, hen, hfl⟩ := hs
  exact ⟨⟨by simpa, by simp, by simpa, by simpa, by rwa [stopDisplay_irq], by rwa [stopDisplay_irq]⟩, by simp [*],
    by simp⟩

theorem enableDisplay_sound {s : State} (hs : s.displaySound) (hp : s.part.service = false)
    (hr : s.part.resetHeld = false) : (enableDisplay s).displaySound := by
  refine openFrame_sound rfl hp hr ?_
  obtain ⟨hctl, -, hact, hpend, hen, hfl⟩ := hs.1
  exact ⟨hctl, fun _ => Control.frame_inRange hctl, hact, hpend, hen, hfl⟩

theorem doSwap_inRange {s : State} (h : s.registersInRange) : (doSwap s).registersInRange := by
  obtain ⟨hctl, hcfg, -, hpend, hen, hfl⟩ := h
  obtain ⟨hien, hbit⟩ := unflagged_bits (raise_unflagged s.irq .swap)
  exact ⟨hctl, hcfg, hpend, hpend, by rw [doSwap_irq, hien]; exact hen, by rw [doSwap_irq, hbit]; exact hfl⟩

theorem disableDisplay_sound {s : State} (hs : s.displaySound) (hl : s.scan.latchDue = false) :
    (disableDisplay s).displaySound := by
  unfold disableDisplay swapIfPending
  split
  · exact stopDisplay_sound (doSwap_inRange hs.1) hl rfl
  · rename_i hw
    exact stopDisplay_sound hs.1 hl (by simpa using hw)

theorem writeDispctl_sound (v : Byte) {s : State} (hs : s.displaySound) (hp : s.part.service = false)
    (hr : s.released) : (writeDispctl v s).displaySound := by
  unfold writeDispctl
  split
  · split
    · exact hs
    · exact enableDisplay_sound hs hp hr.1
  · split
    · exact disableDisplay_sound hs hr.2
    · exact hs

theorem swapList_sound {s : State} (hs : s.displaySound) : (swapList s).displaySound := by
  unfold swapList
  split
  · rename_i he
    exact ScanWork.sound (s := s) ⟨rfl, rfl, rfl, rfl, rfl, .inl rfl, rfl⟩ he hs
  · rename_i he
    obtain ⟨hreg, hdark, hlit⟩ := hs
    refine ⟨doSwap_inRange hreg, fun hd => ?_, hlit⟩
    obtain ⟨h1, -, h3⟩ := hdark (by simpa using he)
    exact ⟨h1, rfl, h3⟩

/-- DISPLAY RESET stops the display and puts its own registers at values in range. -/
theorem displayReset_sound {s : State} (hs : s.displaySound) (hl : s.scan.latchDue = false) :
    (displayReset s).displaySound := by
  obtain ⟨hctl, -, -, hpend, hen, hfl⟩ := hs.1
  have hirq : (displayReset s).irq = { s.irq with iflag0 := s.irq.iflag0 &&& 0xC0 } := by
    simp [displayReset, resetDisplaySide]
  refine ⟨⟨?_, ?_, ?_, ?_, by rwa [hirq], by rwa [hirq]⟩, ?_, ?_⟩
  · simpa [displayReset, resetDisplaySide] using hctl
  · simp [displayReset, resetDisplaySide]
  · exact .inr (by simp [displayReset, resetDisplaySide])
  · simpa [displayReset, resetDisplaySide] using hpend
  · simp [displayReset, resetDisplaySide, hl]
  · simp [displayReset, resetDisplaySide]
/-! ## The control block -/

/-- Registers written at accepted values keep the invariants. -/
theorem State.displaySound.setCtl {s : State} (hs : s.displaySound) {c : Control} (hc : c.inRange) :
    State.displaySound { s with ctl := c } := by
  obtain ⟨⟨-, hrest⟩, hdark⟩ := hs
  exact ⟨⟨hc, hrest⟩, hdark⟩

theorem refuse_sound (c : WinFault) {s : State} (hs : s.displaySound) : (refuse c s).displaySound :=
  DisplayKept.sound (.of_eq rfl (by simp) rfl rfl rfl) hs

theorem stepAddr_sound {s : State} (hs : s.displaySound) : (stepAddr s).displaySound :=
  DisplayKept.sound (.of_eq rfl rfl rfl rfl rfl) hs

theorem drive_sound (v : Byte) {s : State} (hs : s.displaySound) : (drive v s).displaySound :=
  DisplayKept.sound (.of_eq rfl rfl rfl rfl rfl) hs

/-- A judged write puts an accepted value into its register, or refuses it. -/
theorem acceptIf_sound {c : Bool} {f : Control → Control} {s : State} (hs : s.displaySound)
    (h : c = true → s.ctl.inRange → (f s.ctl).inRange) : (acceptIf c f s).displaySound := by
  unfold acceptIf
  split
  · rename_i hc
    exact hs.setCtl (h hc hs.1.1)
  · exact refuse_sound _ hs

theorem panelwHighWrite_sound (v : Byte) {s : State} (hs : s.displaySound) : (panelwHighWrite v s).displaySound := by
  refine acceptIf_sound (hs.setCtl hs.1.1) fun hc hr => ?_
  simp only [Bool.and_eq_true, decide_eq_true_eq] at hc
  obtain ⟨-, -, hrest⟩ := hr
  exact ⟨hc.1, hc.2, hrest⟩

theorem headpendWrite_sound (v : Byte) {s : State} (hs : s.displaySound) : (headpendWrite v s).displaySound := by
  unfold headpendWrite
  split
  · rename_i hv
    obtain ⟨⟨hctl, hcfg, hact, -, hrest⟩, hdark⟩ := hs
    exact ⟨⟨hctl, hcfg, hact, hv, hrest⟩, hdark⟩
  · exact refuse_sound _ hs

/-- A write of the second enable register leaves out the bit that no flag has (R174). -/
theorem ien1Write_sound (v : Byte) {s : State} (hs : s.displaySound) :
    State.displaySound { s with irq := { s.irq with ien1 := v &&& 0x7F } } := by
  obtain ⟨⟨hctl, hcfg, hact, hpend, -, hfl⟩, hdark⟩ := hs
  exact ⟨⟨hctl, hcfg, hact, hpend, by simp, hfl⟩, hdark⟩

/-- Every location of the control block is judged so that the invariants stay. -/
theorem controlWrite_sound (a : Nat) (v : Byte) {s : State} (hs : s.displaySound) (hp : s.part.service = false)
    (hr : s.released) : (controlWrite a v s).displaySound := by
  have hmover : ∀ m, State.displaySound { s with mover := m } := fun m =>
    DisplayKept.sound (s := s) (.of_eq rfl rfl rfl rfl rfl) hs
  unfold controlWrite
  split
  case h_1 => exact writeDispctl_sound v hs hp hr
  case h_2 => exact hs.setCtl hs.1.1
  case h_3 => exact panelwHighWrite_sound v hs
  case h_10 => exact hs.setCtl hs.1.1
  case h_11 => exact hs.setCtl hs.1.1
  case h_13 => exact headpendWrite_sound v hs
  case h_14 => exact DisplayKept.sound (s := s) (.of_eq rfl rfl rfl rfl rfl) hs
  case h_15 => exact ien1Write_sound v hs
  case h_25 => exact refuse_sound _ hs
  case h_16 | h_17 | h_18 | h_19 | h_20 | h_21 | h_22 | h_23 | h_24 => exact hmover _
  all_goals
    refine acceptIf_sound hs fun hc hin => ?_
    simp only [Bool.and_eq_true, decide_eq_true_eq] at hc
    unfold Control.inRange at hin ⊢
    dsimp only
    omega

end Sys2Proof.Machine
end

section
/-! SUPPORT. The registers and the dark display: every command keeps the two invariants. -/

namespace Sys2Proof.Machine

/-! ## Accesses of the host window -/

theorem clearFlags_sound (b : Bool) (v : Byte) {s : State} (hs : s.displaySound) :
    (clearFlags b (if b then v &&& 0x7F else v) s).displaySound := by
  cases b
  · exact DisplayKept.sound (s := s) (.of_eq rfl rfl rfl rfl rfl) hs
  · refine DisplayKept.sound (s := s) (.of_eq rfl ?_ rfl rfl rfl) hs
    simp [clearFlags, Interrupts.unflagged]

theorem displayKept_patchWrite (a : Nat) (v : Byte) (s : State) : DisplayKept s (patchWrite a v s) := by
  unfold patchWrite
  dsimp only
  (repeat' split) <;> exact .of_eq rfl (by simp) rfl rfl rfl

theorem displayKept_compWrite (a : Nat) (v : Byte) (s : State) : DisplayKept s (compWrite a v s) := by
  unfold compWrite
  split <;> exact .of_eq rfl (by simp) rfl rfl rfl

theorem displayKept_cellLowWrite (v : Byte) (s : State) : DisplayKept s (cellLowWrite v s) := by
  unfold cellLowWrite
  dsimp only
  (repeat' split) <;> exact .of_eq rfl (by simp) rfl rfl rfl

theorem displayKept_cellHighWrite (v : Byte) (s : State) : DisplayKept s (cellHighWrite v s) := by
  unfold cellHighWrite
  dsimp only
  (repeat' split) <;> exact .of_eq rfl (by simp) rfl rfl rfl

theorem displayKept_cellHighRead (s : State) : DisplayKept s (cellHighRead s) := by
  unfold cellHighRead
  dsimp only
  (repeat' split) <;> exact .of_eq rfl rfl rfl rfl rfl

theorem displayKept_captureRead (a : Nat) (s : State) : DisplayKept s (captureRead a s) := by
  unfold captureRead
  split <;> exact .of_eq rfl rfl rfl rfl rfl

theorem spaceWrite_sound (v : Byte) {s : State} (hs : s.displaySound) (hp : s.part.service = false)
    (hr : s.released) : (spaceWrite v s).displaySound := by
  have hrec : ∀ m n, State.displaySound { s with descs := m, attrs := n } := fun m n =>
    DisplayKept.sound (s := s) (.of_eq rfl rfl rfl rfl rfl) hs
  unfold spaceWrite
  dsimp only
  split
  · exact stepAddr_sound (controlWrite_sound _ v hs hp hr)
  · split
    · exact (displayKept_cellLowWrite v s).sound hs
    · exact (displayKept_cellHighWrite v s).sound hs
  · exact stepAddr_sound (hrec _ _)
  · exact stepAddr_sound (hrec _ _)
  · exact stepAddr_sound ((displayKept_patchWrite _ v s).sound hs)
  · exact stepAddr_sound ((displayKept_compWrite _ v s).sound hs)
  · exact stepAddr_sound (refuse_sound _ hs)

theorem dataWrite_sound (v : Byte) {s : State} (hs : s.displaySound) (hr : s.released) :
    (dataWrite v s).displaySound := by
  unfold dataWrite
  split
  · exact stepAddr_sound (refuse_sound _ hs)
  · rename_i hp
    split
    · exact stepAddr_sound (refuse_sound _ hs)
    · exact spaceWrite_sound v hs (by simpa using hp) hr

theorem dataRead_sound {s : State} (hs : s.displaySound) : (dataRead s).displaySound := by
  unfold dataRead spaceRead
  dsimp only
  split
  · exact stepAddr_sound (drive_sound _ (refuse_sound _ hs))
  · split
    · exact stepAddr_sound (drive_sound _ (refuse_sound _ hs))
    · split
      · exact stepAddr_sound ((displayKept_captureRead _ _).sound (drive_sound _ hs))
      · split
        · exact DisplayKept.sound (s := s) (.of_eq rfl rfl rfl rfl rfl) hs
        · exact (displayKept_cellHighRead s).sound hs
      · exact stepAddr_sound (drive_sound _ hs)

/-! ## The commands of the host -/

theorem displayKept_moverStart (s : State) : DisplayKept s (moverStart s) := by
  unfold moverStart
  dsimp only
  (repeat' split) <;> exact .of_eq rfl (by simp) rfl rfl rfl

theorem displayKept_moverAbort (s : State) : DisplayKept s (moverAbort s) := by
  unfold moverAbort
  (repeat' split) <;> exact .of_eq rfl (by simp) rfl rfl rfl

theorem displayKept_hostSubmit (s : State) : DisplayKept s (hostSubmit s) := by
  unfold hostSubmit
  split
  · exact .of_eq rfl (by simp) rfl rfl rfl
  · exact (storeSide_enqueue _ _ _ _).displayKept (by simp)

theorem displayKept_popResult (s : State) : DisplayKept s (popResult s) := by
  unfold popResult
  split
  · exact .of_eq rfl (by simp) rfl rfl rfl
  · exact ((StoreSide.of s _ _ _ _).trans (storeSide_startIfDue _)).displayKept (by simp)

/-- A cut of a pulse reaches the array, its port and the count of free values alone. -/
theorem displayKept_cutPulse (s : State) : DisplayKept s (cutPulse s) := by
  unfold cutPulse cutPulseArray cutSubPulseArray
  dsimp only
  (repeat' split) <;> exact .of_eq rfl rfl rfl rfl rfl

theorem displayKept_discardQueue (s : State) : DisplayKept s (discardQueue s) :=
  (storeSide_discardQueue s).displayKept (by simp)

theorem displayKept_setEngine (e : Engine) (w : WaitReason) (s : State) : DisplayKept s (s.setEngine e w) :=
  .of_eq rfl rfl rfl rfl rfl

theorem displayKept_arrayGrant (s : State) : DisplayKept s (arrayGrant s) :=
  (storeSide_arrayGrant s).displayKept (by simp)

theorem displayKept_cutBySupply (s : State) : DisplayKept s (cutBySupply s) :=
  (storeSide_cutBySupply s).displayKept (by simp)

theorem displayKept_abortFlight (s : State) : DisplayKept s (abortFlight s) := by
  have hleaves : ∀ u : State, DisplayKept u
      { u with arrPort := u.arrPort.storeLeaves, store := { u.store with deferred := none } } :=
    fun u => .of_eq rfl rfl rfl rfl rfl
  have h := (displayKept_cutPulse s).trans (hleaves _)
  unfold abortFlight
  dsimp only
  split
  · exact (h.trans (displayKept_discardQueue _)).trans (displayKept_setEngine _ _ _)
  · exact h.trans (((storeSide_cutEffects _ _).trans (storeSide_endAborted _ _)).displayKept (by simp))

theorem displayKept_storeAbort (s : State) : DisplayKept s (storeAbort s) := by
  unfold storeAbort
  split
  · exact displayKept_discardQueue s
  · exact .refl s
  · exact .refl s
  · exact (displayKept_abortFlight s).trans (displayKept_arrayGrant _)
  · split
    · exact (displayKept_abortFlight s).trans (displayKept_arrayGrant _)
    · exact (displayKept_discardQueue s).trans (displayKept_setEngine _ _ _)

theorem command_sound (code : Byte) {s : State} (hs : s.displaySound) (hr : s.released) :
    (command code s).displaySound := by
  unfold command
  split
  · exact displayReset_sound hs hr.2
  · exact (displayKept_hostSubmit s).sound hs
  · exact (displayKept_popResult s).sound hs
  · exact ((storeSide_ackHalt s).displayKept (by simp)).sound hs
  · exact (displayKept_storeAbort s).sound hs
  · exact (displayKept_moverStart s).sound hs
  · exact (displayKept_moverAbort s).sound hs
  · exact swapList_sound hs
  · exact refuse_sound _ hs

theorem unlessService_sound {f : State → State} {s : State} (hs : s.displaySound)
    (h : s.displaySound → (f s).displaySound) : (unlessService f s).displaySound := by
  unfold unlessService
  split
  · exact refuse_sound _ hs
  · exact h hs

/-- Every write strobe keeps the invariants. -/
theorem takeWrite_sound (port : PortNo) (v : Byte) {s : State} (hs : s.displaySound) (hr : s.released) :
    (takeWrite port v s).displaySound := by
  have hwin : ∀ w, State.displaySound { s with win := w } := fun w =>
    DisplayKept.sound (s := s) (.of_eq rfl rfl rfl rfl rfl) hs
  unfold takeWrite
  split
  · exact unlessService_sound hs fun h => command_sound v h hr
  · unfold spaceSelect
    split
    · exact refuse_sound _ hs
    · split
      · exact hwin _
      · exact refuse_sound _ hs
  · exact hwin _
  · exact hwin _
  · exact dataWrite_sound v hs hr
  · exact unlessService_sound hs (clearFlags_sound false v)
  · exact unlessService_sound hs (clearFlags_sound true v)
  · exact hwin _

/-- Every read strobe keeps the invariants. -/
theorem takeRead_sound (port : PortNo) {s : State} (hs : s.displaySound) : (takeRead port s).displaySound := by
  have hflag : ∀ v, (flagRead v s).displaySound := by
    intro v
    unfold flagRead
    split
    · exact drive_sound _ (refuse_sound _ hs)
    · exact drive_sound _ hs
  unfold takeRead
  split
  case h_5 => exact dataRead_sound hs
  case h_6 => exact hflag _
  case h_7 => exact hflag _
  all_goals exact drive_sound _ hs

theorem takeAccess_sound (x : Access) {s : State} (hs : s.displaySound) (hr : s.released) :
    (takeAccess x s).displaySound := by
  cases x with
  | read port => exact takeRead_sound port hs
  | write port v => exact takeWrite_sound port v hs hr

theorem strobe_sound (x : Access) {s : State} (hs : s.displaySound) (hr : s.released) :
    (strobe x s).displaySound := by
  unfold strobe
  split
  · exact DisplayKept.sound (s := s) (.of_eq rfl rfl rfl rfl rfl) hs
  · exact takeAccess_sound x hs hr

theorem heldAccess_sound {s : State} (hs : s.displaySound) (hr : s.released) : (heldAccess s).displaySound := by
  unfold heldAccess
  split
  · exact takeAccess_sound _ (DisplayKept.sound (s := s) (.of_eq rfl rfl rfl rfl rfl) hs) hr
  · exact hs

/-! ## Completions at the two ports -/

theorem displayKept_hostCellDone (a : CellAddr) (w : Word16) (s : State) : DisplayKept s (hostCellDone a w s) := by
  unfold hostCellDone
  split <;> exact .of_eq rfl rfl rfl rfl rfl

theorem displayKept_moverReadDone (w : Word16) (s : State) : DisplayKept s (moverReadDone w s) := by
  unfold moverReadDone
  split <;> exact .of_eq rfl rfl rfl rfl rfl

theorem displayKept_moverWriteDone (s : State) : DisplayKept s (moverWriteDone s) := by
  unfold moverWriteDone
  dsimp only
  (repeat' split) <;> exact .of_eq rfl (by simp) rfl rfl rfl

theorem displayKept_moverAbandonedDone (s : State) : DisplayKept s (moverAbandonedDone s) := by
  unfold moverAbandonedDone moverResumes
  (repeat' split) <;> exact .of_eq rfl rfl rfl rfl rfl

theorem displayKept_loaderResumes (s : State) : DisplayKept s (loaderResumes s) := by
  unfold loaderResumes
  split <;> exact .of_eq rfl rfl rfl rfl rfl

theorem deliverCell_sound (acc : CellAccess) (a : CellAddr) (w : Word16) {s : State} (hs : s.displaySound) :
    (deliverCell acc a w s).displaySound := by
  unfold deliverCell
  split
  · split
    · exact (displayKept_loaderResumes s).sound hs
    · exact resolveCell_sound w hs
  · exact (displayKept_hostCellDone a w s).sound hs
  · split
    · exact (displayKept_moverAbandonedDone s).sound hs
    · split
      · exact (displayKept_moverReadDone w s).sound hs
      · exact (displayKept_moverWriteDone s).sound hs

theorem cellPortComplete_sound {s : State} (hs : s.displaySound) : (cellPortComplete s).displaySound := by
  have hfree : ∀ m, State.displaySound { freeCellPort s with cells := m } := fun m =>
    DisplayKept.sound (s := s) (.of_eq rfl rfl rfl rfl rfl) hs
  have hgrant : ∀ u : State, u.displaySound → (arrayGrant (cellGrant u)).displaySound := fun u hu =>
    (displayKept_arrayGrant _).sound (DisplayKept.sound (s := u) (.of_eq rfl rfl rfl rfl rfl) hu)
  unfold cellPortComplete
  split
  · exact hs
  · refine hgrant _ ?_
    split
    · exact deliverCell_sound _ _ _ (hfree s.cells)
    · exact deliverCell_sound _ _ _ (hfree _)

theorem arrayReadComplete_sound {s : State} (hs : s.displaySound) : (arrayReadComplete s).displaySound := by
  have hfree : (freeArrayPort s).displaySound := DisplayKept.sound (s := s) (.of_eq rfl rfl rfl rfl rfl) hs
  unfold arrayReadComplete
  split
  · refine (displayKept_arrayGrant _).sound ?_
    split
    · exact (displayKept_loaderResumes _).sound hfree
    · exact storeSlices_sound _ hfree
  · refine (displayKept_arrayGrant _).sound ?_
    split
    · exact ((storeSide_presentDeferred _).displayKept (by simp)).sound hfree
    · exact ((storeSide_storeReadDone _ _).displayKept (by simp)).sound hfree
  · exact hs

theorem displayKept_storeRequest (r : StoreReq) (s : State) : DisplayKept s (storeRequest r s) :=
  (storeSide_storeRequest r s).displayKept (by simp)

theorem displayKept_programPulseComplete (s : State) : DisplayKept s (programPulseComplete s) := by
  unfold programPulseComplete
  split
  · exact (displayKept_storeRequest _ _).after (.of_eq rfl rfl rfl rfl rfl)
  · exact .refl s

theorem displayKept_eraseSubpulseComplete (s : State) : DisplayKept s (eraseSubpulseComplete s) := by
  unfold eraseSubpulseComplete
  split
  · exact (displayKept_storeRequest _ _).after (.of_eq rfl rfl rfl rfl rfl)
  · exact .refl s

/-! ## The service load port -/

theorem displayKept_withSvc (f : Service → Service) (s : State) : DisplayKept s (s.withSvc f) :=
  .of_eq rfl rfl rfl rfl rfl

theorem displayKept_queueItem (it : TxItem) (s : State) : DisplayKept s (queueItem it s) :=
  (storeSide_queueItem it s).displayKept (by simp)

theorem displayKept_ackHalt (s : State) : DisplayKept s (ackHalt s) := (storeSide_ackHalt s).displayKept (by simp)

theorem displayKept_actRecord (r : Record) (s : State) : DisplayKept s (actRecord r s) :=
  (storeSide_actRecord r s).displayKept (by simp)

theorem displayKept_lowRun (n : Nat) (s : State) : DisplayKept s (lowRun n s) := by
  unfold lowRun
  split
  · split
    · split
      · exact displayKept_withSvc _ _
      · split
        · exact (displayKept_withSvc _ _).trans (displayKept_queueItem _ _)
        · exact displayKept_withSvc _ _
    · exact displayKept_withSvc _ _
  · exact .refl s

theorem displayKept_refuseRecord (e : ErrCode) (s : State) : DisplayKept s (refuseRecord e s) :=
  (displayKept_withSvc _ s).trans ((storeSide_queueN _ _ _).displayKept (by simp))

theorem displayKept_storeByte (b : Byte) (s : State) : DisplayKept s (storeByte b s) := by
  have hjudge : ∀ l u, DisplayKept u (judgeRecord l u) := by
    intro l u
    unfold judgeRecord
    split
    · exact displayKept_refuseRecord _ _
    · split
      · exact displayKept_refuseRecord _ _
      · split
        · exact displayKept_withSvc _ _
        · exact displayKept_refuseRecord _ _
  unfold storeByte
  dsimp only
  split
  · exact (displayKept_withSvc _ s).trans (displayKept_refuseRecord _ _)
  · split
    · exact (displayKept_withSvc _ s).trans (hjudge _ _)
    · exact displayKept_withSvc _ _

theorem displayKept_byteReceived (b : Byte) (s : State) : DisplayKept s (byteReceived b s) := by
  unfold byteReceived
  split
  · exact .refl s
  · exact .refl s
  · split
    · exact .of_eq rfl (by simp) rfl rfl rfl
    · exact displayKept_withSvc _ _
  · split
    · exact displayKept_withSvc _ _
    · exact .refl s
  · exact displayKept_storeByte b s
  · exact displayKept_withSvc _ _

theorem displayKept_framingError (s : State) : DisplayKept s (framingError s) := by
  unfold framingError
  split
  · exact displayKept_withSvc _ _
  · exact .refl s

theorem displayKept_confirmTimeout (s : State) : DisplayKept s (confirmTimeout s) := by
  unfold confirmTimeout
  split
  · exact displayKept_withSvc _ _
  · exact .refl s

theorem displayKept_interByteTimeout (s : State) : DisplayKept s (interByteTimeout s) := by
  unfold interByteTimeout
  split
  · exact displayKept_refuseRecord _ _
  · exact .refl s

theorem displayKept_serviceBreak (s : State) : DisplayKept s (serviceBreak s) := by
  have hdiscard : DisplayKept s (discardWaiting s) := by
    unfold discardWaiting
    split
    · exact .refl s
    · dsimp only
      split
      · exact (displayKept_ackHalt _).after (.of_eq rfl rfl rfl rfl rfl)
      · exact .of_eq rfl rfl rfl rfl rfl
  unfold serviceBreak
  split
  · exact hdiscard.trans (displayKept_withSvc _ _)
  · exact .refl s

theorem displayKept_actDue (p : Record → Bool) (s : State) : DisplayKept s (actDue p s) := by
  unfold actDue
  split
  · split
    · exact (displayKept_withSvc _ s).trans (displayKept_actRecord _ _)
    · exact .refl s
  · exact .refl s

theorem displayKept_actHeld (s : State) : DisplayKept s (actHeld s) := by
  unfold actHeld
  split
  · exact (displayKept_withSvc _ s).trans (displayKept_actRecord _ _)
  · exact .refl s

/-- The end of service mode leaves the display as it was: disabled, until the host enables it (R164). -/
theorem displayKept_endService (s : State) : DisplayKept s (endService s) where
  held := by rintro (h | h); cases h; exact .inr h
  irq := by simp
  ctl := rfl
  scan := rfl
  rows := rfl

theorem displayKept_transmissionEnd (s : State) : DisplayKept s (transmissionEnd s) := by
  have hsent : ∀ it u, DisplayKept u (itemSent it u) := by
    intro it u
    cases it with
    | ready =>
      unfold itemSent
      dsimp only
      split
      · exact .of_eq rfl rfl rfl rfl rfl
      · exact .refl u
    | reply _ _ acks closes =>
      have hack : DisplayKept u (if acks then ackHalt u else u) := by
        split
        · exact displayKept_ackHalt u
        · exact .refl u
      unfold itemSent
      dsimp only
      generalize (if acks then ackHalt u else u) = v at hack ⊢
      split
      · exact hack.trans (displayKept_endService v)
      · exact hack
  have hnext : ∀ u, DisplayKept u (sendWaiting u) := by
    intro u
    unfold sendWaiting
    split
    · exact .of_eq rfl rfl rfl rfl rfl
    · exact .refl u
  unfold transmissionEnd
  split
  · exact .refl s
  · exact (hnext _).after ((hsent _ _).after (.of_eq rfl rfl rfl rfl rfl))

/-! ## Power, reset and supply -/

/-- In reset the registers stand at values in range and the display is dark. -/
theorem resetPart_sound (s : State) : (resetPart s).displaySound := by
  have hbits : State.reset.irq.ien1.getLsbD 7 = false ∧ State.reset.irq.iflag1.getLsbD 7 = false := by decide
  refine ⟨⟨?_, ?_, .inr rfl, .inr rfl, hbits.1, hbits.2⟩,
    ⟨fun _ => ⟨rfl, rfl, rfl, rfl, rfl, rfl, rfl, rfl, rfl⟩, fun _ => rfl⟩⟩
  · show State.reset.ctl.inRange
    unfold Control.inRange
    decide
  · intro h; cases h

theorem powerOn_sound (s : State) : (powerOn s).displaySound := resetPart_sound s

/-- The release may enter service mode, since the display is disabled in reset. -/
theorem releaseReset_sound (load : Bool) {s : State} (hs : s.displaySound) : (releaseReset load s).displaySound := by
  have hscan : ∀ u, DisplayKept u (beginScan u) := fun u =>
    (displayKept_storeRequest _ { u with store := { u.store with scan := some { slots := [], headers := [] } } }).after
      (.of_eq rfl rfl rfl rfl rfl)
  unfold releaseReset
  dsimp only
  split
  · rename_i hh
    refine (hscan _).sound ?_
    split <;> exact DisplayKept.sound (s := s) ⟨fun _ => .inr hh, by simp, rfl, rfl, rfl⟩ hs
  · exact hs

theorem displayKept_lowvAsserted (s : State) : DisplayKept s (lowvAsserted s) := by
  have hflag : DisplayKept s (raise .lowv { s with part := { s.part with lowv := true } }) :=
    ⟨id, by simp, rfl, rfl, rfl⟩
  unfold lowvAsserted
  dsimp only
  split
  · exact .refl s
  · split
    · exact ⟨id, rfl, rfl, rfl, rfl⟩
    · split
      · exact ((hflag.trans (displayKept_cutPulse _)).trans (displayKept_cutBySupply _)).trans
          (displayKept_arrayGrant _)
      · split
        · exact (displayKept_cutBySupply _).after (hflag.trans (.of_eq rfl rfl rfl rfl rfl))
        · exact hflag

/-! ## Every command -/

theorem takeLatch_released {s : State} (hr : s.part.resetHeld = false) : (takeLatch s).released := by
  refine ⟨by rw [(scanWork_takeLatch s).part, hr], ?_⟩
  by_cases h : s.scan.latchDue = true
  · rw [takeLatch_due h, arrayGrant_scan, (loaderSide_latchFirst _).scan]
  · rwa [takeLatch_none (by simpa using h), ← Bool.not_eq_true]

/-- A step of the part keeps the invariants when its effect does, with the part released. -/
theorem occur_sound {f : State → State} {s t : State} (hf : ∀ u, u.displaySound → u.released → (f u).displaySound)
    (hs : s.displaySound) (h : occur f s = .next t) : t.displaySound := by
  rw [occur_next, Host.Outcome.next.injEq] at h
  subst h
  split
  · exact hs
  · rename_i hr
    exact hf _ (takeLatch_sound hs) (takeLatch_released (by simpa using hr))

/-- An effect that leaves the display alone keeps the invariants. -/
theorem occur_kept {f : State → State} {s t : State} (hf : ∀ u, DisplayKept u (f u)) (hs : s.displaySound)
    (h : occur f s = .next t) : t.displaySound := occur_sound (fun u hu _ => (hf u).sound hu) hs h

/-- A store operation keeps the invariants. -/
theorem occur_storeSide {f : State → State} {s t : State} (hf : ∀ u, StoreSide u (f u))
    (hi : ∀ u, (f u).irq.unflagged = u.irq.unflagged) (hs : s.displaySound) (h : occur f s = .next t) :
    t.displaySound := occur_kept (fun u => (hf u).displayKept (hi u)) hs h

/-- A write of a descriptor byte touches the table and the window address alone, so it keeps the invariants also before a
first latch that is still to be made. -/
theorem descriptorAccess_sound {x : Access} {s : State} (hs : s.displaySound) (hx : s.writesDescriptor x = true) :
    (takeAccess x s).displaySound := by
  obtain ⟨v, -, he⟩ := takeAccess_descriptor hx
  rw [he]
  exact DisplayKept.sound (s := s) (.of_eq rfl rfl rfl rfl rfl) hs

theorem occurStrobe_sound {x : Access} {s t : State} (hs : s.displaySound) (h : occurStrobe x s = .next t) :
    t.displaySound := by
  unfold occurStrobe occurAccess at h
  split at h
  · rename_i hx
    rw [Host.Outcome.next.injEq] at h
    subst h
    split
    · exact hs
    · have hw : s.waitLow = false := by
        by_contra hw
        simp [State.takesNow, Bool.not_eq_false _ ▸ hw] at hx
      refine takeLatch_sound ?_
      simp only [strobe, hw, Bool.false_eq_true, if_false]
      exact descriptorAccess_sound hs (by simpa [State.takesNow, hw] using hx)
  · exact occur_sound (fun u hu hr => strobe_sound x hu hr) hs h

theorem heldWindowAccess_sound {s t : State} (hs : s.displaySound) (h : execHeldWindowAccess s = .next t) :
    t.displaySound := by
  unfold execHeldWindowAccess occurAccess at h
  split at h
  · rename_i hx
    rw [Host.Outcome.next.injEq] at h
    subst h
    split
    · exact hs
    · refine takeLatch_sound ?_
      unfold heldAccess
      split
      · rename_i x rest hc hh
        have hx : s.writesDescriptor x = true := by simpa [State.oldestReady, hc, hh] using hx
        exact descriptorAccess_sound (DisplayKept.sound (s := s) (.of_eq rfl rfl rfl rfl rfl) hs) hx
      · exact hs
  · exact occur_sound (fun u hu hr => heldAccess_sound hu hr) hs h

/-- Every command keeps the registers in range and a disabled display dark. -/
theorem exec_sound (c : Instr) {s t : State} (hs : s.displaySound) (h : exec c s = .next t) : t.displaySound := by
  cases c with
  | powerOn => cases h; exact powerOn_sound s
  | reset => cases h; exact resetPart_sound s
  | resetRelease load => cases h; exact releaseReset_sound load hs
  | lowvAsserted => cases h; exact (displayKept_lowvAsserted s).sound hs
  | lowvReleased => cases h; exact DisplayKept.sound (s := s) ⟨id, rfl, rfl, rfl, rfl⟩ hs
  | frameStart => exact occur_sound (fun _ hu _ => frameStart_sound hu) hs h
  | lineStart => exact occur_sound (fun _ hu _ => lineStart_sound hu) hs h
  | endOfTheActiveDots => exact occur_sound (fun _ hu _ => endActiveDots_sound hu) hs h
  | displayEnable _ | displayDisable _ | displayReset | swapList | submit | popResult | ackHalt | storeAbort
  | moverStart | moverAbort | badCommand _ | registerWrite _ _ | panelwLowByteWrite _ | panelwHighByteWrite _
  | framecntLowByteRead | framecntHighByteRead | mvdoneLowByteRead | mvdoneHighByteRead | cellLowByteWrite _
  | cellHighByteWrite _ | cellLowByteRead | cellHighByteRead | descriptorByteWrite _ | attributeByteWrite _
  | patchSlotWrite _ | iflagClear _ _ | winfaultClear _ | dataRead | iflagRead _ => exact occurStrobe_sound hs h
  | heldWindowAccess => exact heldWindowAccess_sound hs h
  | cellPortComplete => exact occur_sound (fun _ hu _ => cellPortComplete_sound hu) hs h
  | arrayReadComplete => exact occur_sound (fun _ hu _ => arrayReadComplete_sound hu) hs h
  | programPulseComplete => exact occur_kept displayKept_programPulseComplete hs h
  | pulseLimitReached => exact occur_storeSide storeSide_pulseLimitReached (by simp) hs h
  | eraseSubpulseComplete => exact occur_kept displayKept_eraseSubpulseComplete hs h
  | subpulseBudgetSpent => exact occur_storeSide storeSide_subpulseBudgetSpent (by simp) hs h
  | storeCommandStart => exact occur_storeSide storeSide_startIfDue (by simp) hs h
  | cmdBegin => exact occur_storeSide storeSide_stepBegin (by simp) hs h
  | beginChooseAgain => exact occur_storeSide storeSide_stepChooseAgain (by simp) hs h
  | cmdClone => exact occur_storeSide storeSide_stepClone (by simp) hs h
  | cmdProgram => exact occur_storeSide storeSide_stepProgram (by simp) hs h
  | cmdCommit => exact occur_storeSide storeSide_stepCommit (by simp) hs h
  | cmdAbandon => exact occur_storeSide storeSide_stepAbandon (by simp) hs h
  | cmdScrub => exact occur_storeSide storeSide_stepScrub (by simp) hs h
  | cmdReadglyph => exact occur_storeSide storeSide_stepReadglyph (by simp) hs h
  | cmdCheck => exact occur_storeSide storeSide_stepCheck (by simp) hs h
  | badKind => exact occur_storeSide storeSide_stepBadKind (by simp) hs h
  | startUpScanEnd => exact occur_storeSide storeSide_startUpScanEnd (by simp) hs h
  | lowRun n => exact occur_kept (displayKept_lowRun n) hs h
  | byteReceived b => exact occur_kept (displayKept_byteReceived b) hs h
  | framingError => exact occur_kept displayKept_framingError hs h
  | serviceBreak => exact occur_kept displayKept_serviceBreak hs h
  | interByteTimeout => exact occur_kept displayKept_interByteTimeout hs h
  | confirmTimeout => exact occur_kept displayKept_confirmTimeout hs h
  | bRecord | cRecord | gRecord | mRecord | aRecord | qRecord | eRecord =>
    exact occur_kept (displayKept_actDue _) hs h
  | heldRecord => exact occur_kept displayKept_actHeld hs h
  | transmissionEnd => exact occur_kept displayKept_transmissionEnd hs h

/-- Settles O58: the two invariants together are kept by every command, and an idle step changes nothing. -/
theorem everyStepKeepsRegistersInRangeAndTheDisplayDark :
    Obligations.EveryStepKeepsRegistersInRangeAndTheDisplayDark := by
  intro s t hreg hdark h
  unfold step at h
  split at h
  · cases h; exact ⟨hreg, hdark⟩
  · rename_i c rest _
    exact exec_sound c (s := { s with pending := rest }) ⟨hreg, hdark⟩ h

end Sys2Proof.Machine
end

section
/-! SUPPORT. The frame start and the latch of a `RowInst`: what they settle, and what a first latch left to the next
step means for that step (R8, R10, R17, R20, R26 to R29, R70, R73; log entry 23). -/

namespace Sys2Proof.Machine

/-! ## The latch of a `RowInst` -/

/-- The model's latch checks are those of R10. -/
theorem passes_iff_latchOk (d : Descriptor) (cellw : Nat) : d.passes cellw = true ↔ d.latchOk cellw := by
  unfold Descriptor.passes Descriptor.latchOk
  cases d.hide <;> cases d.marquee <;> simp [and_assoc]

/-- The effective first offset may be reduced before or after the entry's place is added. -/
theorem cellAddr_eq_shownCell (d : Descriptor) (cellw k j : Nat) : d.cellAddr cellw k j = d.shownCell cellw k j := by
  unfold Descriptor.cellAddr Descriptor.shownCell Descriptor.firstOffset
  split
  · rw [Nat.mod_add_mod]
  · rfl

/-- The loader's side of the scan engine is LISTFLT alone. -/
theorem LoaderSide.scan_eq {s t : State} (h : LoaderSide s t) :
    ∃ code index, t.scan = { s.scan with listCode := code, listIndex := index } := ⟨_, _, h.scan⟩

/-- The access in progress at a port is the loader's: this depends on the two ports alone. -/
theorem loaderAccess_congr {s t : State} (hc : t.cellPort.access = s.cellPort.access)
    (ha : t.arrPort.access = s.arrPort.access) : t.loaderAccess = s.loaderAccess := by
  unfold State.loaderAccess
  rw [hc, ha]

theorem beginEntry_loading (i : RowInst) (j : Nat) (s : State) :
    (beginEntry i j s).rows.loading = some (i.setState j .filling) := by
  unfold beginEntry
  dsimp only
  have h : ∀ l w, Rows.loading { s.rows.setLoading (some (i.setState j .filling)) with loader := l, work := w } =
      some (i.setState j .filling) := fun _ _ => setLoading_loading s.rows _
  split <;> exact h _ _

theorem beginEntry_work (i : RowInst) (j : Nat) (s : State) :
    (beginEntry i j s).rows.loader = .loading ∧
      (beginEntry i j s).rows.work = some { entry := j, addr := i.addrs.getD j 0, phase := .cellRead } := by
  unfold beginEntry
  dsimp only
  split <;> exact ⟨rfl, rfl⟩

theorem beginEntry_cellPort (i : RowInst) (j : Nat) (s : State) :
    (beginEntry i j s).cellPort =
      if s.loaderAccess then s.cellPort else { s.cellPort with loaderWait := some (i.addrs.getD j 0) }.grant := by
  have h : ∀ r, State.loaderAccess { s with rows := r } = s.loaderAccess := fun _ => rfl
  unfold beginEntry
  dsimp only
  rw [h]
  cases s.loaderAccess <;> rfl

theorem beginEntry_scan (i : RowInst) (j : Nat) (s : State) : (beginEntry i j s).scan = s.scan := by
  unfold beginEntry; dsimp only; split <;> rfl

/-- The latch of a `RowInst` into the empty loading buffer leaves what R8, R10 and R73 say. -/
theorem latches_latchInst (index k : Nat) {s : State} (h : s.rows.loading = none) :
    s.latches (latchInst index k s) s.cellPort s.descs s.scan.cfg.cellw.toNat index k := by
  unfold latchInst State.latches
  dsimp only
  generalize hd : readDescriptor s.descs index = d
  rw [← passes_iff_latchOk]
  by_cases hp : d.passes s.scan.cfg.cellw.toNat = true
  case neg =>
    rw [if_neg hp]
    exact ⟨fun _ => ⟨isSet_raise_self _ _, rfl, rfl, rfl, rfl, h, rfl⟩, fun hk => absurd hk hp⟩
  rw [if_pos hp]
  refine ⟨fun hk => absurd hp hk, fun _ => ?_⟩
  cases hh : d.hide
  case true =>
    have hi : (instanceOf d s.scan.cfg.cellw.toNat index k).desc.hide = true := hh
    simp only [beginLoad, hi, if_true]
    refine ⟨rfl, rfl, rfl, _, setLoading_loading _ _, rfl, rfl, rfl, fun _ => ⟨?_, rfl, rfl, rfl⟩, fun hk => ?_⟩
    · simp [instanceOf, hh]
    · cases hk
  case false =>
    have hi : ¬(instanceOf d s.scan.cfg.cellw.toNat index k).desc.hide = true := by simp [instanceOf, hh]
    have hw : 1 ≤ d.width := (((passes_iff_latchOk _ _).1 hp).2 hh).1
    obtain ⟨w, hw⟩ := Nat.exists_eq_add_of_le' hw
    have ha : (instanceOf d s.scan.cfg.cellw.toNat index k).addrs =
        (List.range d.width).map (d.shownCell s.scan.cfg.cellw.toNat k) := by
      simp [instanceOf, hh, cellAddr_eq_shownCell]
    have ha0 : (instanceOf d s.scan.cfg.cellw.toNat index k).addrs.getD 0 0 =
        d.shownCell s.scan.cfg.cellw.toNat k 0 := by
      rw [ha, hw, List.range_succ_eq_map]
      rfl
    obtain ⟨hload, hwork⟩ := beginEntry_work (instanceOf d s.scan.cfg.cellw.toNat index k) 0 s
    have hb : beginLoad (instanceOf d s.scan.cfg.cellw.toNat index k) s =
        beginEntry (instanceOf d s.scan.cfg.cellw.toNat index k) 0 s := by simp only [beginLoad, if_neg hi]
    rw [hb]
    refine ⟨by rw [beginEntry_scan], by rw [beginEntry_scan], by rw [beginEntry_irq], _,
      beginEntry_loading _ _ _, rfl, rfl, rfl, (nomatch ·),
      fun _ => ⟨rfl, ?_, ha, hload, ?_, ?_⟩⟩
    · simp [instanceOf, hh, RowInst.setState, RowInst.putEntry, hw, List.replicate_succ, Entry.blank]
    · rw [hwork, ha0]
    · rw [beginEntry_cellPort, ha0]

/-- What a latch leaves speaks of the state before it only by LISTFLT and the loader's access, and of the state after it only
by LISTFLT, the row buffers and the cell port. -/
theorem State.latches.congr {s s' t t' : State} {p : CellPort} {m : Memory} {cellw i k : Nat}
    (h : s'.latches t' p m cellw i k) (hs : s.noListFault s') (ha : s'.loaderAccess = s.loaderAccess)
    (ht : t'.noListFault t) (hr : t.rows = t'.rows) (hp : t.cellPort = t'.cellPort) : s.latches t p m cellw i k := by
  obtain ⟨hs1, hs2, hs3⟩ := hs
  obtain ⟨ht1, ht2, ht3⟩ := ht
  unfold State.latches at *
  rwa [hs1, hs2, hs3, ha, ← ht1, ← ht2, ← ht3, ← hr, ← hp] at h

theorem noListFault_arrayGrant (s : State) : s.noListFault (arrayGrant s) := by simp [State.noListFault]

/-- The first latch of a frame, made with the rows and the ports as `s` has them, with the grant that follows it. -/
theorem headLatched_latchFirst {s s' : State} (hl : s'.scan.latchDue = false) (hf : s.noListFault s')
    (hr : s'.rows = s.rows) (hp : s'.cellPort = s.cellPort) (ha : s'.arrPort = s.arrPort) :
    s.headLatched (arrayGrant (latchFirst s')) := by
  have hside := loaderSide_latchFirst s'
  have hhead : (latchFirst s').scan.headact = s'.scan.headact := by rw [hside.scan]
  have hcfg : (latchFirst s').scan.cfg = s'.scan.cfg := by rw [hside.scan]
  refine ⟨by rw [arrayGrant_scan, hside.scan, hl], fun h => ?_, fun hnone hact => ?_⟩
  · rw [arrayGrant_scan, hhead] at h
    have he : latchFirst s' = loaderRests s' := by simp [latchFirst, h]
    obtain ⟨h1, h2, h3⟩ := hf
    simp [he, hr, hp, State.noListFault, h1, h2, h3]
  · rw [arrayGrant_scan, hhead] at hact
    rw [arrayGrant_descs, arrayGrant_scan, hhead, hcfg, hside.descs]
    have he : latchFirst s' = latchInst s'.scan.headact.toNat 0 s' := if_neg hact
    have h := latches_latchInst s'.scan.headact.toNat 0 (s := s') (by rw [hr, hnone])
    rw [← he, hp] at h
    exact h.congr hf (loaderAccess_congr (by rw [hp]) (by rw [ha])) (noListFault_arrayGrant _) (arrayGrant_rows _)
      (arrayGrant_cellPort _)

/-! ## The frame start -/

theorem blinkStep_eq (s : State) :
    blinkStep s = { s with
      scan := { s.scan with
        blinkCount := if s.scan.blinkCount < s.scan.cfg.blinkp.toNat then s.scan.blinkCount + 1 else 1
        blinkOn := if s.scan.blinkCount < s.scan.cfg.blinkp.toNat then s.scan.blinkOn else !s.scan.blinkOn } } := by
  unfold blinkStep
  split
  · rfl
  · rfl

/-- Everything that a frame start settles before the first latch, in one record (R17, R20, R26 to R29, R99, R100). -/
theorem frameSettings_eq (s : State) :
    frameSettings s = { s with
      irq := (if s.scan.swapPending then s.irq.raise .swap else s.irq).raise .frame
      descs := advanceMarquees s.ctl.cellw.toNat s.descs
      store := { s.store with
        roles := if s.store.engine = .starting then s.store.roles else releaseDraining s.store.roles }
      scan := { s.scan with
        cfg := s.ctl.frame, headact := if s.scan.swapPending then s.scan.headpend else s.scan.headact
        swapPending := false
        displayMap := if s.store.engine = .starting then s.scan.displayMap else s.store.storeMap
        blinkCount := if s.scan.blinkCount < s.ctl.blinkp.toNat then s.scan.blinkCount + 1 else 1
        blinkOn := if s.scan.blinkCount < s.ctl.blinkp.toNat then s.scan.blinkOn else !s.scan.blinkOn
        framecnt := s.scan.framecnt + 1, pos := .vblank 0, rowStart := none, part := .blankLine, dots := [] } } := by
  have hswap : swapIfPending (latchConfig s) = { latchConfig s with
      irq := if s.scan.swapPending then s.irq.raise .swap else s.irq
      scan := { (latchConfig s).scan with
        headact := if s.scan.swapPending then s.scan.headpend else s.scan.headact, swapPending := false } } := by
    have hw : (latchConfig s).scan.swapPending = s.scan.swapPending := rfl
    unfold swapIfPending
    rw [hw]
    split
    · rfl
    · rename_i h
      simp only [Bool.not_eq_true] at h
      rw [← h]
      rfl
  unfold frameSettings
  rw [hswap, copyUnlessStarting_eq, blinkStep_eq]
  rfl

@[simp] theorem releaseDraining_get (v : Vector BankEntry 16) (b : Bank) :
    (releaseDraining v).get b = releaseBank (v.get b) := by
  simp [releaseDraining, Vector.get_eq_getElem]

theorem releaseBank_role (e : BankEntry) :
    (releaseBank e).role = if e.role = .spareDraining then .spareDirty else e.role := by
  unfold releaseBank; split <;> rfl

/-- The settings of a frame start, with the free value that it takes counted. -/
theorem frameSettled_frameSettings {s : State} (n : Nat) (he : s.scan.enabled = true) :
    s.frameSettled (frameSettings { s with freeCount := n }) := by
  have hswap : s.scan.swapPending = true →
      ((if s.scan.swapPending then s.irq.raise .swap else s.irq).raise .frame).isSet .swap = true := by
    intro h
    rw [if_pos h]
    exact isSet_raise_of _ (isSet_raise_self _ _)
  rw [frameSettings_eq]
  refine ⟨⟨rfl, rfl, rfl, hswap, fun h => ⟨if_neg h, fun b => ?_⟩, fun h => ⟨if_pos h, if_pos h⟩,
    fun h => ⟨if_pos h, if_pos h⟩, fun h => ⟨if_neg (by simpa using h), if_neg (by simpa using h)⟩, rfl,
    isSet_raise_self _ _, rfl, he, rfl, rfl, rfl, rfl, rfl, rfl, rfl, rfl, rfl, rfl, rfl, rfl, rfl, rfl⟩, rfl⟩
  simp only [if_neg h, releaseDraining_get, releaseBank_role]

/-- The first latch leaves what the frame start has settled. -/
theorem frameSettled_latchFirst {s u : State} (h : s.frameSettled u) : s.frameSettled (arrayGrant (latchFirst u)) := by
  have hside := loaderSide_latchFirst u
  obtain ⟨⟨hcfg, hact, hpend, hswap, hmap, hstart, hblink, hflip, hcount, hframe, hrest⟩, hdescs⟩ := h
  obtain ⟨g, hstore, -⟩ := arrayGrant_store (latchFirst u)
  obtain ⟨code, index, hscan⟩ := hside.scan_eq
  unfold State.frameSettled State.frameOpened
  simp only [arrayGrant_scan, arrayGrant_irq, arrayGrant_descs, arrayGrant_ctl, arrayGrant_cells, arrayGrant_attrs,
    arrayGrant_patch, arrayGrant_patchValid, arrayGrant_array, arrayGrant_mover, arrayGrant_svc, hstore, hside.store,
    hscan, hside.descs, hside.ctl, hside.cells, hside.attrs, hside.patch, hside.patchValid, hside.array, hside.mover,
    hside.svc]
  exact ⟨⟨hcfg, hact, hpend, fun hw => hside.flags _ (hswap hw), hmap, hstart, hblink, hflip, hcount,
    hside.flags _ hframe, hrest⟩, hdescs⟩

/-- A frame start sets flags of its own and not LISTFAULT. -/
theorem noListFault_frameSettings (s : State) (n : Nat) : s.noListFault (frameSettings { s with freeCount := n }) := by
  rw [frameSettings_eq]
  refine ⟨rfl, rfl, ?_⟩
  by_cases h : s.scan.swapPending = true <;> simp [h, isSet_raise]

/-! ## A first latch left to the next step -/

/-- The first latch touches the loader's side, and the grant after it the store engine's command in flight. -/
theorem takeLatch_side {s : State} (h : s.scan.latchDue = true) :
    LoaderSide { s with scan := { s.scan with latchDue := false } }
      (latchFirst { s with scan := { s.scan with latchDue := false } }) ∧
      takeLatch s = arrayGrant (latchFirst { s with scan := { s.scan with latchDue := false } }) :=
  ⟨loaderSide_latchFirst _, takeLatch_due h⟩

@[simp] theorem takeLatch_part (s : State) : (takeLatch s).part = s.part := (scanWork_takeLatch s).part

@[simp] theorem takeLatch_win (s : State) : (takeLatch s).win = s.win := by
  unfold takeLatch
  split
  · rw [arrayGrant_win, (loaderSide_latchFirst _).win]
  · rfl

theorem takeLatch_scan {s : State} (h : s.scan.latchDue = true) :
    (takeLatch s).scan = { s.scan with
      latchDue := false, listCode := (takeLatch s).scan.listCode, listIndex := (takeLatch s).scan.listIndex } := by
  obtain ⟨hside, he⟩ := takeLatch_side h
  rw [he, arrayGrant_scan, hside.scan]

/-- A first latch that was still to be made is made with the table as it stands. -/
theorem headLatched_takeLatch {s s' : State} (h : s'.scan.latchDue = true) (hf : s.noListFault s')
    (hr : s'.rows = s.rows) (hp : s'.cellPort = s.cellPort) (ha : s'.arrPort = s.arrPort) :
    s.headLatched (takeLatch s') := by
  rw [takeLatch_due h]
  exact headLatched_latchFirst rfl hf hr hp ha

@[simp] theorem takeLatch_latchDue (s : State) : (takeLatch s).scan.latchDue = false := by
  by_cases h : s.scan.latchDue = true
  · rw [takeLatch_scan h]
  · rwa [takeLatch_none (by simpa using h), ← Bool.not_eq_true]

/-- A step of the part is the same step after the first latch. -/
theorem occur_takeLatch (f : State → State) {s : State} (hr : s.part.resetHeld = false) :
    occur f s = occur f (takeLatch s) := by
  simp [occur, hr]

/-- What an access writes depends on the window and the mode alone. -/
theorem writesDescriptor_takeLatch (s : State) : (takeLatch s).writesDescriptor = s.writesDescriptor := by
  funext x
  simp [State.writesDescriptor]

/-- An access away from the descriptor table is the same access after the first latch. -/
theorem occurAccess_takeLatch {x y : Option Access} (f : State → State) {s : State} (hr : s.part.resetHeld = false)
    (hy : y = x) (hx : x.any s.writesDescriptor = false) : occurAccess x f s = occurAccess y f (takeLatch s) := by
  subst hy
  rw [occurAccess_plain hx, occurAccess_plain (by rwa [writesDescriptor_takeLatch]), occur_takeLatch f hr]

theorem occurStrobe_takeLatch {x : Access} {s : State} (hr : s.part.resetHeld = false)
    (hx : s.writesDescriptor x = false) : occurStrobe x s = occurStrobe x (takeLatch s) := by
  refine occurAccess_takeLatch _ hr ?_ ?_
  · simp [State.takesNow, State.waitLow]
  · unfold State.takesNow
    split
    · rfl
    · exact hx

/-- With the window address outside the descriptor table no access writes it. -/
theorem writesDescriptor_elsewhere {s : State} (h : s.win.space ≠ 2 ∨ 768 ≤ s.win.addr.toNat) (x : Access) :
    s.writesDescriptor x = false := by
  cases x with
  | read port => rfl
  | write port v =>
    rcases h with h | h
    · simp only [State.writesDescriptor, decide_eq_false h, Bool.and_false, Bool.false_and]
    · simp only [State.writesDescriptor, decide_eq_false (Nat.not_lt.2 h), Bool.and_false]

/-- An access at any port but 4 writes no descriptor. -/
theorem writesDescriptor_port {s : State} {port : PortNo} (h : port ≠ 4) (v : Byte) :
    s.writesDescriptor (.write port v) = false := by
  simp only [State.writesDescriptor, decide_eq_false h, Bool.false_and]

/-- A write strobe that is no write of a descriptor byte: away from port 4, or away from the table. -/
theorem writesDescriptor_strobe {s : State} {port : PortNo} (v : Byte)
    (h : decide (port = 4) = false ∨ s.win.space ≠ 2 ∨ 768 ≤ s.win.addr.toNat) :
    s.writesDescriptor (.write port v) = false := by
  rcases h with h | h
  · exact writesDescriptor_port (by simpa using h) v
  · exact writesDescriptor_elsewhere h _

/-- Every command but the pins' events and the writes of a descriptor byte is that command after the first latch (R8, R21,
log entry 23). -/
theorem exec_takeLatch (c : Instr) {s : State} (hr : s.part.resetHeld = false) (hpin : isPinEvent c = false)
    (hw : mayWriteData c = false ∨ s.win.space ≠ 2 ∨ 768 ≤ s.win.addr.toNat) : exec c s = exec c (takeLatch s) := by
  have hdata : ∀ v, true = false ∨ s.win.space ≠ 2 ∨ 768 ≤ s.win.addr.toNat →
      occurStrobe (.write 4 v) s = occurStrobe (.write 4 v) (takeLatch s) := fun v h =>
    occurStrobe_takeLatch hr (writesDescriptor_strobe v h)
  have hcmd : ∀ v, occurStrobe (.write 0 v) s = occurStrobe (.write 0 v) (takeLatch s) := fun v =>
    occurStrobe_takeLatch hr (writesDescriptor_port (by decide) v)
  cases c with
  | powerOn | reset | resetRelease _ | lowvAsserted | lowvReleased => cases hpin
  | displayEnable v | displayDisable v | panelwLowByteWrite v | panelwHighByteWrite v | cellLowByteWrite v
  | cellHighByteWrite v | descriptorByteWrite v | attributeByteWrite v | patchSlotWrite v => exact hdata v hw
  | registerWrite port v | iflagClear port v => exact occurStrobe_takeLatch hr (writesDescriptor_strobe v hw)
  | displayReset | swapList | submit | popResult | ackHalt | storeAbort | moverStart | moverAbort => exact hcmd _
  | badCommand code => exact hcmd code
  | winfaultClear v => exact occurStrobe_takeLatch hr (writesDescriptor_port (by decide) v)
  | framecntLowByteRead | framecntHighByteRead | mvdoneLowByteRead | mvdoneHighByteRead | cellLowByteRead
  | cellHighByteRead | dataRead | iflagRead _ => exact occurStrobe_takeLatch hr rfl
  | heldWindowAccess =>
    have hplace : s.win.space ≠ 2 ∨ 768 ≤ s.win.addr.toNat := hw.resolve_left (by simp [mayWriteData])
    refine occurAccess_takeLatch heldAccess hr (by simp [State.oldestReady]) ?_
    rw [Option.any_eq_false_iff_get]
    exact fun _ => writesDescriptor_elsewhere hplace _
  | _ => exact occur_takeLatch _ hr

/-- A frame start that is due settles the frame, whether or not it makes the first latch. -/
theorem frameStart_settles {s : State} (h : s.frameDue = true) :
    s.frameSettled (frameStart s) ∧ (frameStart s).win = s.win ∧ (frameStart s).part = s.part := by
  have hset := frameSettled_frameSettings (s.freeCount + 1) (enabled_of_frameDue h)
  have heq := frameSettings_eq { s with freeCount := s.freeCount + 1 }
  rcases frameStart_due h with e | e <;> rw [e]
  · refine ⟨frameSettled_latchFirst hset, ?_, ?_⟩
    · rw [openFrame, arrayGrant_win, (loaderSide_latchFirst _).win, heq]
    · rw [openFrame, arrayGrant_part, (loaderSide_latchFirst _).part, heq]
  · exact ⟨hset, by simp only [heq], by simp only [heq]⟩

/-- The first latch of a frame start that is due: made at once, or left to the next step with the loader as it was. -/
theorem frameStart_latch {s : State} (hl : s.scan.latchDue = false) (h : s.frameDue = true) :
    s.headLatched (frameStart s) ∨
      ((frameStart s).scan.latchDue = true ∧ (frameStart s).rows = s.rows ∧ (frameStart s).cellPort = s.cellPort ∧
        (frameStart s).arrPort = s.arrPort ∧ s.noListFault (frameStart s)) := by
  have hfault := noListFault_frameSettings s (s.freeCount + 1)
  have heq := frameSettings_eq { s with freeCount := s.freeCount + 1 }
  rcases frameStart_due h with e | e <;> rw [e]
  · refine .inl (headLatched_latchFirst ?_ hfault ?_ ?_ ?_)
    · rw [heq]; exact hl
    all_goals rw [heq]
  · refine .inr ⟨rfl, ?_, ?_, ?_, hfault⟩ <;> simp only [heq]

/-- Settles O8: the settings of the frame and its first latch, at once or in the next step. -/
theorem frameStartSettlesTheFrame : Obligations.FrameStartSettlesTheFrame := by
  refine ⟨fun s hs hdue => ?_, fun s hr hdue => ?_⟩
  · obtain ⟨hset, hwin, -⟩ := frameStart_settles hdue
    exact ⟨frameStart s, occur_released hs, hset, hwin, frameStart_latch hs.2 hdue⟩
  · obtain ⟨hside, he⟩ := takeLatch_side hdue
    obtain ⟨g, hstore, -⟩ := arrayGrant_store (latchFirst { s with scan := { s.scan with latchDue := false } })
    refine ⟨takeLatch s, headLatched_takeLatch hdue ⟨rfl, rfl, rfl⟩ rfl rfl rfl, takeLatch_scan hdue, ?_,
      takeLatch_win s, ?_, ?_, ?_, ?_, ?_, ?_, ?_, ?_, ?_, ?_, fun c hpin hw => exec_takeLatch c hr hpin hw⟩ <;> rw [he]
    · rw [arrayGrant_descs, hside.descs]
    · rw [arrayGrant_ctl, hside.ctl]
    · rw [arrayGrant_cells, hside.cells]
    · rw [arrayGrant_attrs, hside.attrs]
    · rw [arrayGrant_patch, hside.patch]
    · rw [arrayGrant_array, hside.array]
    · rw [arrayGrant_mover, hside.mover]
    · rw [arrayGrant_svc, hside.svc]
    all_goals rw [hstore, hside.store]

end Sys2Proof.Machine
end

section
/-! SUPPORT. The host's writes of the display side: the tables, the registers, SWAP LIST, and accesses held behind
WAIT# (R1 to R6, R15, R16, R19, R21, R35, R36, R55, R59, R82, R84, R113, R166, R168). -/

namespace Sys2Proof.Machine

/-! ## Tables -/

/-- A write strobe at port 4 with the window address in the descriptor table writes a descriptor byte (R19, R153, R167). -/
theorem writesDescriptor_data {s : State} (v : Byte) (hp : s.part.service = false) (hs : s.win.space = 2)
    (ha : s.win.addr.toNat < 768) : s.writesDescriptor (.write 4 v) = true := by
  simp only [State.writesDescriptor, hp, hs, decide_eq_true ha]
  decide

/-- A write in the descriptor table at once replaces its byte and steps the address. -/
theorem strobe_descriptor {s : State} {a : Nat} (h : s.dataAt 2 a) (ha : a < 768) (v : Byte) :
    occurStrobe (.write 4 v) s = .next (stepAddr (descriptorWrite a v s)) := by
  rw [strobe_dataWrite h ha]
  obtain ⟨-, hs, hw⟩ := h
  simp [spaceWrite, hs, hw]

/-- A write in the table of attributes at once replaces its byte and steps the address. -/
theorem strobe_attribute {s : State} {a : Nat} (h : s.dataAt 3 a) (ha : a < 128) (v : Byte) :
    occurStrobe (.write 4 v) s = .next (stepAddr (attributeWrite a v s)) := by
  rw [strobe_dataWrite h ha]
  obtain ⟨-, hs, hw⟩ := h
  simp [spaceWrite, hs, hw]

theorem Memory.read_write_self {m : Memory} (a : Nat) (v : Byte) (h : m.wf = true) : (m.write a v).read a = v := by
  rw [Memory.read_write _ _ _ h, if_pos rfl]

theorem Memory.read_write_other {m : Memory} {a b : Nat} (v : Byte) (h : m.wf = true) (hb : b ≠ a) :
    (m.write a v).read b = m.read b := by
  rw [Memory.read_write _ _ _ h, if_neg hb]

/-- A write of a descriptor byte that is the step after a frame start comes before the first latch, which reads the table so
left (R21, log entry 23). -/
theorem strobe_descriptor_beforeLatch {s : State} (v : Byte) (hr : s.part.resetHeld = false)
    (hw : s.waitLow = false) (hp : s.part.service = false) (hs : s.win.space = 2) (ha : s.win.addr.toNat < 768) :
    occurStrobe (.write 4 v) s = .next (takeLatch (stepAddr (descriptorWrite s.win.addr.toNat v s))) := by
  have hx := writesDescriptor_data v hp hs ha
  rw [strobe_beforeLatch hr hw hx]
  obtain ⟨v', hv, he⟩ := takeAccess_descriptor hx
  cases hv
  rw [he]

@[simp] theorem takeLatch_descs (s : State) : (takeLatch s).descs = s.descs := by
  unfold takeLatch
  split
  · rw [arrayGrant_descs, (loaderSide_latchFirst _).descs]
  · rfl

/-- Bit 3 of a byte as an eighth of its value. -/
theorem bit3_of_byte (v : Byte) : (if v.getLsbD 3 then 8 else 0) = 8 * (v.toNat / 8 % 2) := by
  rw [BitVec.getLsbD, Nat.testBit_eq_decide_div_mod_eq]
  have := Nat.mod_two_eq_zero_or_one (v.toNat / 8)
  simp only [decide_eq_true_eq, Nat.reducePow]
  split <;> omega

/-- Settles O28: the frame of the two table writes, the write before a first latch, and the layout of a descriptor. -/
theorem tableWritesChangeOneByte : Obligations.TableWritesChangeOneByte := by
  refine ⟨?_, ?_, ?_, ?_⟩
  · intro s v a c h ha hwf hc
    have he : exec c s = .next (stepAddr (descriptorWrite a v s)) := by
      rcases hc with rfl | rfl <;> exact strobe_descriptor h ha v
    exact ⟨_, he, Memory.read_write_self a v hwf,
      fun b hb => Memory.read_write_other v hwf hb, rfl⟩
  · intro s v a c hr hl hw hp hs ha hlt hwf hc
    subst ha
    have he : exec c s = .next (takeLatch (stepAddr (descriptorWrite s.win.addr.toNat v s))) := by
      rcases hc with rfl | rfl <;> exact strobe_descriptor_beforeLatch v hr hw hp hs hlt
    refine ⟨_, he, ?_, fun b hb => ?_, by simp, headLatched_takeLatch hl ⟨rfl, rfl, rfl⟩ rfl rfl rfl,
      takeLatch_scan (s := stepAddr (descriptorWrite s.win.addr.toNat v s)) hl⟩
    · rw [takeLatch_descs]; exact Memory.read_write_self _ v hwf
    · rw [takeLatch_descs]; exact Memory.read_write_other v hwf hb
  · intro s v a h ha hwf
    exact ⟨_, strobe_attribute h ha v, Memory.read_write_self a v hwf,
      fun b hb => Memory.read_write_other v hwf hb, rfl⟩
  · intro m n
    dsimp only
    have h5 := (m.read (16 * n + 5)).isLt
    have h6 := (m.read (16 * n + 6)).isLt
    have hwide := bit3_of_byte (m.read (16 * n + 6))
    refine ⟨rfl, rfl, rfl, rfl, rfl, rfl, rfl, rfl, rfl, ?_, rfl, ?_, ?_, ?_, ?_, ?_, ?_, ?_,
      ⟨(m.read (16 * n + 7)).toNat / 64, ?_⟩, ?_, ?_, rfl, rfl, rfl, rfl, rfl, rfl⟩
    all_goals simp only [readDescriptor, word16_toNat]
    all_goals omega

/-! ## Registers -/

/-- A write at a location of the control block is judged there, and the address steps. -/
theorem strobe_control {s : State} {a : Nat} (h : s.dataAt 0 a) (ha : a < 64) (v : Byte) :
    occurStrobe (.write 4 v) s = .next (stepAddr (controlWrite a v s)) := by
  rw [strobe_dataWrite h ha, spaceWrite_control h]

/-- Settles O23: each location of the control block by its own line of the layout, the judgement of its value as R15, R35,
R36, R84 and R113 word it. -/
theorem registerValuesAreJudged : Obligations.RegisterValuesAreJudged := by
  refine ⟨fun s v h => ?vislines, fun s v h => ?hblank, fun s v h => ?vblank, fun s v h => ?cellw,
    fun s v h => ?blinkp, fun s v h => ?pace, fun s v h => ?cursty, fun s v h => ?headpend, fun s v h => ?curadrLow,
    fun s v h => ?curadrHigh, fun s v h => ?mvkind, fun s v h => ?mvsrcLow, fun s v h => ?mvsrcHigh,
    fun s v h => ?mvdstLow, fun s v h => ?mvdstHigh, fun s v h => ?mvcntLow, fun s v h => ?mvcntHigh,
    fun s v h => ?mvvalLow, fun s v h => ?mvvalHigh, fun s v h => ?panelwLow, fun s v h => ?panelwHigh⟩
  all_goals refine (strobe_control h (by decide) v).trans ?_
  case vislines | hblank | vblank | cellw | blinkp | pace =>
    simp only [controlWrite, acceptIf, Bool.and_eq_true, decide_eq_true_eq]
  case cursty => simp only [controlWrite, acceptIf, decide_eq_true_eq, ne_eq, ite_not]
  case panelwHigh => simp only [controlWrite, panelwHighWrite, acceptIf, Bool.and_eq_true, decide_eq_true_eq]
  all_goals rfl

/-! ## SWAP LIST -/

theorem swapList_enabled {s : State} (h : s.scan.enabled = true) :
    swapList s = { s with scan := { s.scan with swapPending := true } } := if_pos h

theorem swapList_disabled {s : State} (h : s.scan.enabled = false) : swapList s = doSwap s := by
  simp [swapList, h]

/-- A command strobe in normal mode, also one that is the step after a frame start: the first latch is made before it. -/
theorem strobe_command_afterLatch {s : State} (hr : s.part.resetHeld = false) (hw : s.waitLow = false)
    (hp : s.part.service = false) (code : Byte) :
    occurStrobe (.write 0 code) s = .next (command code (takeLatch s)) := by
  rw [occurStrobe_takeLatch hr (writesDescriptor_port (by decide) code)]
  exact strobe_command ⟨⟨⟨by simpa using hr, by simp⟩, by simpa [State.waitLow] using hw⟩, by simpa using hp⟩ code

theorem takeLatch_head (s : State) :
    (takeLatch s).scan.enabled = s.scan.enabled ∧ (takeLatch s).scan.headact = s.scan.headact := by
  by_cases h : s.scan.latchDue = true
  · rw [takeLatch_scan h]; exact ⟨rfl, rfl⟩
  · rw [takeLatch_none (by simpa using h)]; exact ⟨rfl, rfl⟩

/-- Settles O15: the three rows of R16, and both orders with a frame start. -/
theorem swapListWaitsOrActsAtOnce : Obligations.SwapListWaitsOrActsAtOnce := by
  refine ⟨fun s h he => ?_, fun s h he => ?_, fun s h hdue => ?_, fun s h hdue => ?_⟩
  · exact (strobe_command h 8).trans (congrArg _ (swapList_enabled he))
  · exact (strobe_command h 8).trans (congrArg _ (swapList_disabled he))
  · let u : State := { s with scan := { s.scan with swapPending := true } }
    have hu : exec .swapList s = .next u :=
      (strobe_command h 8).trans (congrArg _ (swapList_enabled (enabled_of_frameDue hdue)))
    obtain ⟨⟨⟨-, hhead, hpend, hflag, -⟩, -⟩, -, -⟩ := frameStart_settles (s := u) hdue
    exact ⟨u, frameStart u, hu, occur_released h.1.1, hhead, hpend, hflag rfl⟩
  · obtain ⟨⟨⟨-, -, -, -, -, -, -, -, -, -, -, hen, -⟩, -⟩, hwin, hpart⟩ := frameStart_settles hdue
    obtain ⟨⟨⟨hr, hl⟩, hw⟩, hp⟩ := h
    obtain ⟨hlen, hlhead⟩ := takeLatch_head (frameStart s)
    refine ⟨frameStart s, swapList (takeLatch (frameStart s)), occur_released ⟨hr, hl⟩, ?_, ?_⟩
    · refine strobe_command_afterLatch (by rwa [hpart]) ?_ (by rwa [hpart]) 8
      rwa [State.waitLow, hwin]
    · rw [swapList_enabled (hlen.trans hen)]
      exact ⟨rfl, hlhead⟩

/-! ## Accesses held behind WAIT# -/

/-- A strobe while WAIT# is low is held behind those that wait already. -/
theorem strobe_held {s : State} (hs : s.released) (hw : s.waitLow = true) (x : Access) :
    occurStrobe x s = .next { s with win := { s.win with held := s.win.held ++ [x] } } := by
  have hn : s.takesNow x = none := by simp [State.takesNow, hw]
  rw [occurStrobe, hn, occurAccess_plain rfl, occur_released hs, strobe, if_pos hw]

/-- HELD_WINDOW_ACCESS takes the oldest access as at its strobe. -/
theorem heldWindowAccess_taken {s : State} {x : Access} {rest : List Access} (hs : s.released)
    (hc : s.win.cellOp = none) (hh : s.win.held = x :: rest) :
    exec .heldWindowAccess s = .next (takeAccess x { s with win := { s.win with held := rest } }) := by
  have hn : s.oldestReady = some x := by simp [State.oldestReady, hc, hh]
  show occurAccess s.oldestReady heldAccess s = _
  rw [hn, ← heldAccess_taken hc hh]
  by_cases hx : s.writesDescriptor x = true
  · have hx' : State.writesDescriptor { s with win := { s.win with held := rest } } x = true := hx
    obtain ⟨v, -, he⟩ := takeAccess_descriptor hx'
    have hl : (heldAccess s).scan.latchDue = false := by
      rw [heldAccess_taken hc hh, he]
      exact hs.2
    simp [occurAccess, hx, hs.1, takeLatch_none hl]
  · rw [occurAccess_plain (by simpa using hx), occur_released hs]

/-- A strobe that follows the last held access finds WAIT# high. -/
theorem windowFree_emptied {s : State} (hs : s.released) (hc : s.win.cellOp = none) :
    State.windowFree { s with win := { s.win with held := [] } } :=
  ⟨hs, by simp [State.waitLow, hc]⟩

/-- Settles O31: strobes held and taken in order, each as at its strobe. -/
theorem heldAccessesAreTakenInOrder : Obligations.HeldAccessesAreTakenInOrder := by
  refine ⟨fun s port v hs hw => ⟨strobe_held hs hw _, strobe_held hs hw _⟩,
    fun s x rest hs hc hh => heldWindowAccess_taken hs hc hh,
    fun s port v hs => ⟨strobe_taken hs _, strobe_taken hs _⟩,
    fun s v rest hs hc hh => heldWindowAccess_taken hs hc hh, fun s port v hs hc hh => ?_, fun s port hs hc hh => ?_,
    fun s v hr hl hp hsp ha hc hh => ?_, fun s hs hn => ?_⟩
  · exact (heldWindowAccess_taken hs hc hh).trans (strobe_taken (windowFree_emptied hs hc) _).symm
  · exact (heldWindowAccess_taken hs hc hh).trans (strobe_taken (windowFree_emptied hs hc) _).symm
  · have hx := writesDescriptor_data v hp hsp ha
    have hany : (some (Access.write 4 v)).any s.writesDescriptor = true := hx
    have hn : s.oldestReady = some (.write 4 v) := by simp [State.oldestReady, hc, hh]
    have hstrobe := strobe_beforeLatch (s := { s with win := { s.win with held := [] } }) (x := .write 4 v) hr
      (by simp [State.waitLow, hc]) hx
    refine Eq.trans ?_ hstrobe.symm
    show occurAccess s.oldestReady heldAccess s = _
    rw [hn, ← heldAccess_taken hc hh]
    rw [occurAccess, if_pos hany, if_neg (by simp [hr])]
  · have hx : heldAccess s = s := by
      unfold heldAccess
      rcases hn with hc | hh
      · obtain ⟨op, hc⟩ := Option.isSome_iff_exists.1 hc
        rw [hc]
      · rw [hh]
        cases s.win.cellOp <;> rfl
    have hy : s.oldestReady = none := by
      rcases hn with hc | hh
      · simp [State.oldestReady, hc]
      · simp [State.oldestReady, hh]
    show occurAccess s.oldestReady heldAccess s = _
    rw [hy, occurAccess_plain rfl, occur_released hs, hx]

end Sys2Proof.Machine
end

section
/-! SUPPORT. The stop of the display and the row start: what the row loader leaves when it quits, what DISPLAY_DISABLE
and DISPLAY_RESET leave, and what a row start exchanges, marks, counts and latches (R8, R9, R11 to R13, R18, R24, R30
to R32, R37, R69, R79 to R81, R99, R108, R109). -/

namespace Sys2Proof.Machine

/-! ## The loader quits -/

/-- The loader's withdrawal at the cell port. -/
@[simp] theorem loaderLeaves_cellPort (s : State) : (loaderLeaves s).cellPort = s.cellPort.withoutLoader := by
  simp only [loaderLeaves, CellPort.abandon, CellPort.withoutLoader]
  rcases s.cellPort.access with _ | acc
  · rfl
  · simp only [Option.map_some]
    split <;> rfl

/-- A loader that has withdrawn leaves the array port to the arbiter, which may let a waiting pulse run (R108, R109). -/
theorem loaderQuits_arrayGrant {s s' t : State} (ha : s'.arrPort = s.arrPort.loaderLeaves)
    (hf : s'.store.inFlight = s.store.inFlight) (hp : t.arrPort = (arrayGrant s').arrPort)
    (ht : t.store.inFlight = (arrayGrant s').store.inFlight) (hr : t.rows.loader = s'.rows.loader) :
    s.loaderQuits t := by
  unfold State.loaderQuits State.arbitrates
  rw [hp, ht, hr]
  refine ⟨fun g ab h => ?_, fun r ab h => ?_, fun h => ⟨fun g hg => by simp at hg, fun r _ hw hrun => ?_,
    fun r _ hw hpulse hload => ?_, fun _ hw => ?_⟩⟩
  · have hacc : s'.arrPort = { s.arrPort with loaderWait := none, access := some (.loader g true) } := by
      simp [ha, ArrayPort.loaderLeaves, h]
    rw [arrayGrant_busy (by simp [hacc]), hacc]
  · have hacc : s'.arrPort = { s.arrPort with loaderWait := none } := by
      simp [ha, ArrayPort.loaderLeaves, h]
    rw [arrayGrant_busy (by simp [hacc, h]), hacc]
  all_goals
    have hfree : s'.arrPort = { s.arrPort with loaderWait := none } := by
      simp [ha, ArrayPort.loaderLeaves, h]
  · have hmay : r.mayRun s'.rows.loader = true := by
      rcases hrun with ⟨u, rfl⟩ | hrun
      · rfl
      · cases r <;> simp [StoreReq.mayRun, hrun]
    have hgrant : arrayGrant s' = { s' with
        arrPort := { s'.arrPort with storeWait := none, access := some (.store r false) }
        store := { s'.store with inFlight := s'.store.inFlight.map fun f => f.countGrant r } } := by
      simp [arrayGrant, hfree, h, hw, hmay]
    rw [hgrant]
    refine ⟨by rw [hfree], ?_, fun u f q hu hfl hq => ?_, fun u f e hu hfl he => ?_⟩
    · rintro ⟨u, rfl⟩
      rw [hf]
      cases s.store.inFlight <;> rfl
    · subst hu
      simp [hf, hfl, InFlight.countGrant, hq]
    · subst hu
      simp [hf, hfl, InFlight.countGrant, he]
  · have hmay : r.mayRun s'.rows.loader = false := by
      cases r
      · exact absurd rfl (hpulse _)
      · simp [StoreReq.mayRun, hload]
      · simp [StoreReq.mayRun, hload]
    have hgrant : arrayGrant s' = s' := by simp [arrayGrant, hfree, h, hw, hmay]
    rw [hgrant, hfree, hf]
    exact ⟨rfl, rfl⟩
  · rw [arrayGrant_idle (by rw [hfree]) (by rw [hfree]; exact hw), hfree, hf]
    exact ⟨rfl, rfl⟩

/-! ## The stop of the display -/

@[simp] theorem stopDisplay_cellPort (s : State) : (stopDisplay s).cellPort = s.cellPort.withoutLoader := by
  simp [stopDisplay, loaderStops]

/-- The store of a display that has been stopped: the draining spares are released with the copy, and the command in flight
may have had a pulse granted (R99, R100, R108). -/
theorem stopDisplay_store (s : State) :
    ∃ g : InFlight → InFlight, (stopDisplay s).store = { s.store with
      inFlight := s.store.inFlight.map g
      roles := if s.store.engine = .starting then s.store.roles else releaseDraining s.store.roles } := by
  obtain ⟨g, hg, -⟩ := arrayGrant_store (copyUnlessStarting { loaderStops s with scan := { (loaderStops s).scan with
    enabled := false, pos := .none, rowStart := none, part := .off, lsel := 0, dots := [] } })
  refine ⟨g, ?_⟩
  rw [stopDisplay, hg, copyUnlessStarting_eq]
  rfl

theorem stopDisplay_loaderQuits {s t : State} (hp : t.arrPort = (stopDisplay s).arrPort)
    (hf : t.store.inFlight = (stopDisplay s).store.inFlight) (hr : t.rows.loader = .stopped) : s.loaderQuits t := by
  refine loaderQuits_arrayGrant ?_ ?_ hp hf ?_
  · simp
  · simp
  · simp [hr]

/-- After the copy no bank drains. -/
theorem releaseDraining_not_draining (v : Vector BankEntry 16) (b : Bank) :
    ((releaseDraining v).get b).role ≠ .spareDraining := by
  rw [releaseDraining_get, releaseBank_role]
  split
  · exact nofun
  · assumption

@[simp] theorem swapIfPending_irq (s : State) :
    (swapIfPending s).irq = if s.scan.swapPending then s.irq.raise .swap else s.irq := by
  unfold swapIfPending; split <;> rfl

@[simp] theorem swapIfPending_scan (s : State) :
    (swapIfPending s).scan = { s.scan with
      headact := if s.scan.swapPending then s.scan.headpend else s.scan.headact, swapPending := false } := by
  unfold swapIfPending
  split
  · rfl
  · rename_i h
    simp only [Bool.not_eq_true] at h
    rw [← h]

/-- A pending swap touches the scan engine and its flag alone. -/
theorem swapIfPending_eq (s : State) :
    swapIfPending s = { s with irq := (swapIfPending s).irq, scan := (swapIfPending s).scan } := by
  unfold swapIfPending; split <;> rfl

/-- A write to DISPCTL. -/
theorem strobe_dispctl {s : State} (h : s.dataAt 0 0) (v : Byte) :
    occurStrobe (.write 4 v) s = .next (stepAddr (writeDispctl v s)) := strobe_control h (by decide) v

/-- A write to DISPCTL with ENABLE clear. -/
theorem writeDispctl_clear {v : Byte} (hv : v.getLsbD 0 = false) (s : State) :
    writeDispctl v s = if s.scan.enabled then disableDisplay s else s :=
  if_neg (by simp only [hv, Bool.false_eq_true, not_false_eq_true])

/-- Settles O13: the stop of the display with its swap, and the write that changes nothing. -/
theorem disableEndsTheFrame : Obligations.DisableEndsTheFrame := by
  refine ⟨fun s v h hv he => ?_, fun s v h hv he => ?_⟩
  · have hstep : exec (.displayDisable v) s = .next (stepAddr (disableDisplay s)) := by
      rw [← if_pos (t := disableDisplay s) (e := s) he, ← writeDispctl_clear hv]
      exact strobe_dispctl h v
    have hswap := swapIfPending_eq s
    obtain ⟨g, hstore⟩ := stopDisplay_store (swapIfPending s)
    have hs : (swapIfPending s).store = s.store := by rw [hswap]
    have ha : (swapIfPending s).arrPort = s.arrPort := by rw [hswap]
    have hquit : (swapIfPending s).loaderQuits (stepAddr (disableDisplay s)) :=
      stopDisplay_loaderQuits rfl rfl (by simp [disableDisplay])
    refine ⟨_, hstep, ?_, ?_, ?_, ?_, ?_, fun hstart b => ?_, ?_, ?_, ?_, ?_, ?_, ?_, ?_, ?_, ?_, ?_⟩
    · simp [disableDisplay, hs]
    · simp [disableDisplay]
    · simp [disableDisplay]
    · simp only [stepAddr_cellPort, disableDisplay, stopDisplay_cellPort]; rw [hswap]
    · unfold State.loaderQuits State.arbitrates at *
      rwa [ha, hs] at hquit
    · simp only [stepAddr_store, disableDisplay, hstore, hs, if_neg hstart]
      exact releaseDraining_not_draining _ b
    all_goals simp only [disableDisplay, stepAddr_win, stepAddr_ctl, stepAddr_mover, stepAddr_cells, stepAddr_descs,
      stepAddr_attrs, stepAddr_patch, stepAddr_array, stepAddr_store, stopDisplay_win, stopDisplay_ctl, stopDisplay_mover,
      stopDisplay_cells, stopDisplay_descs, stopDisplay_attrs, stopDisplay_patch, stopDisplay_array, hstore, hs]
    all_goals rw [hswap]
  · refine (strobe_dispctl h v).trans ?_
    rw [writeDispctl_clear hv, if_neg (by simp [he])]
    rfl

/-! ## DISPLAY RESET -/

/-- The cell port after DISPLAY RESET: the requests of the loader and the mover are withdrawn, and an access in progress of
either is abandoned (R69, R81). -/
theorem displayReset_cellPort (s : State) :
    (displayReset s).cellPort = { s.cellPort with
      loaderWait := none, moverWait := none
      access := s.cellPort.access.map fun acc => if acc.who = .host then acc else { acc with abandoned := true } } := by
  have h : (displayReset s).cellPort =
      { s.cellPort.withoutLoader with moverWait := none }.abandon .mover := by
    simp [displayReset, resetDisplaySide, moverStop]
  rw [h]
  simp only [CellPort.withoutLoader, CellPort.abandon]
  rcases s.cellPort.access with _ | ⟨_ | _ | _, req, ab⟩ <;> rfl

/-- The mover after DISPLAY RESET: IDLE with nothing in hand, a write in progress still to be counted (R69). -/
theorem displayReset_mover (s : State) :
    (displayReset s).mover = { s.mover.finish .idle with tail := s.mover.tail || s.moverWriting } := by
  have h : (resetDisplaySide s).moverWriting = s.moverWriting := by
    have hp : (resetDisplaySide s).cellPort = s.cellPort.withoutLoader := by simp [resetDisplaySide]
    unfold State.moverWriting
    rw [hp]
    simp only [CellPort.withoutLoader]
    rcases s.cellPort.access with _ | ⟨_ | _ | _, _ | _, _ | _⟩ <;> rfl
  have hm : (displayReset s).mover = { (resetDisplaySide s).mover.finish .idle with
      tail := (resetDisplaySide s).mover.tail || (resetDisplaySide s).moverWriting } := rfl
  rw [hm, h]
  simp [resetDisplaySide]

theorem moverWriting_iff (s : State) :
    s.moverWriting = true ↔ ∃ a w, s.cellPort.access = some ⟨.mover, .write a w, false⟩ := by
  unfold State.moverWriting
  rcases s.cellPort.access with _ | ⟨_ | _ | _, _ | _, _ | _⟩ <;> simp

theorem displayReset_store (s : State) :
    ∃ g : InFlight → InFlight, (displayReset s).store = { s.store with
      inFlight := s.store.inFlight.map g
      roles := if s.store.engine = .starting then s.store.roles else releaseDraining s.store.roles } :=
  stopDisplay_store s

theorem displayReset_irq (s : State) : (displayReset s).irq = { s.irq with iflag0 := s.irq.iflag0 &&& 0xC0 } := by
  simp [displayReset, resetDisplaySide]

/-- DISPLAY RESET clears the MOVER flag with the other flags of the display side (R37). -/
theorem displayReset_moverFlag (s : State) : (displayReset s).irq.isSet .mover = false := by
  rw [displayReset_irq]
  simp [Interrupts.isSet, Flag.second, Flag.bit]

/-- The completion of a write that DISPLAY RESET has cut loose from the mover: it is counted, and nothing follows (R69). -/
theorem cellPortComplete_tail {s : State} {a : CellAddr} {w : Word16}
    (ha : s.cellPort.access = some ⟨.mover, .write a w, true⟩) (ht : s.mover.tail = true) (ho : s.mover.op = none) :
    cellPortComplete s = arrayGrant (cellGrant { freeCellPort s with
      cells := s.cells.writeCell a w, mover := { s.mover with mvdone := s.mover.mvdone + 1, tail := false } }) := by
  simp [cellPortComplete, ha, deliverCell, moverAbandonedDone, moverResumes, ht, ho]

/-- The cell of a memory after the write of its word. -/
theorem cell_writeCell {s t : State} {a : CellAddr} {w : Word16} (h : s.cells.wf = true)
    (ht : t.cells = s.cells.writeCell a w) :
    t.cell a = w ∧ ∀ x, x / 2 ≠ a.toNat → t.cells.read x = s.cells.read x := by
  unfold State.cell
  rw [ht]
  refine ⟨?_, fun x hx => ?_⟩
  · rw [Memory.read_writeCell _ _ h, Memory.read_writeCell _ _ h, if_pos rfl, if_neg (by omega), if_pos rfl,
      word16_byteOf]
  · rw [Memory.read_writeCell _ _ h, if_neg (by omega), if_neg (by omega)]

/-- Settles O14: what DISPLAY RESET leaves, and the end of a mover write that it cut loose. -/
theorem displayResetRestoresTheDisplaySide : Obligations.DisplayResetRestoresTheDisplaySide := by
  refine ⟨fun s h => ?_, fun s a w h hwf hacc => ?_⟩
  · obtain ⟨g, hstore⟩ := displayReset_store s
    have hmover := displayReset_mover s
    have hport := displayReset_cellPort s
    refine ⟨displayReset s, strobe_command h 1, ?_, displayReset_irq s, ?_, ?_, congrArg Mover.mvstate hmover,
      congrArg Mover.op hmover, congrArg Mover.transfer hmover, by rw [hmover]; rfl,
      by rw [hmover]; rfl, by rw [hmover]; rfl, by rw [hmover]; rfl,
      by rw [hmover]; rfl, by rw [hmover]; rfl, ?tail, fun acc hacc => ?access,
      congrArg CellPort.loaderWait hport, congrArg CellPort.moverWait hport, stopDisplay_loaderQuits rfl rfl ?_, ?_, ?_,
      ?_, ?_, ?_, ?_, ?_, ?_, by rw [hstore], by rw [hstore], by rw [hstore],
      by rw [hstore]⟩
    case tail => rw [hmover, Bool.or_eq_true, moverWriting_iff]
    case access => rw [hport, hacc]; rfl
    all_goals simp [displayReset, resetDisplaySide]
  · let t := displayReset s
    have hport : t.cellPort.access = some ⟨.mover, .write a w, true⟩ := by
      rw [displayReset_cellPort, hacc]
      rfl
    have hmover := displayReset_mover s
    have htail : t.mover.tail = true := by
      rw [hmover, Bool.or_eq_true]
      exact .inr ((moverWriting_iff s).2 ⟨a, w, hacc⟩)
    have hcells : t.cells = s.cells := by simp [t, displayReset, resetDisplaySide]
    have hrel : t.released := by
      obtain ⟨⟨⟨hr, hl⟩, -⟩, -⟩ := h
      exact ⟨by simpa [t, displayReset, resetDisplaySide] using hr,
        by simpa [t, displayReset, resetDisplaySide] using hl⟩
    have hdone := cellPortComplete_tail hport htail (by rw [hmover]; rfl)
    obtain ⟨hcell, hother⟩ := cell_writeCell (t := cellPortComplete t) (a := a) (w := w) (hcells ▸ hwf)
      (by rw [hdone]; simp)
    refine ⟨t, cellPortComplete t, strobe_command h 1, occur_released hrel, hcell, fun x hx => ?_, ?_, ?_, ?_, ?_⟩
    · rw [hother x hx, hcells]
    · rw [hdone]; simp [t, hmover, Mover.finish]
    · rw [hdone]; simp [t, hmover, Mover.finish]
    · rw [hdone]; simp
    · rw [hdone]; simpa using displayReset_moverFlag s

end Sys2Proof.Machine
end

section
/-! SUPPORT. The row start: what it exchanges, marks and counts before its latch, and the `RowInst` that it latches
(R8, R9, R11 to R13, R30 to R32, R78 to R80, R89). -/

namespace Sys2Proof.Machine

/-! ## The row start up to its latch -/

/-- The `RowInst` asks for ROWMARK at its row start (R32). -/
def RowInst.marked (i : RowInst) : Prop := (i.desc.mark = true ∧ i.number = 0) ∨ i.desc.markAll = true

/-- The row start of `i` at visible line `n` up to its latch: late or not, with the buffers exchanged and the row
marked (R31, R32, R78, R79). -/
def State.rowBegun (s : State) (i : RowInst) (n : Nat) : State :=
  markRow i { lateRow s with rows := (lateRow s).rows.exchange, scan := { (lateRow s).scan with rowStart := some n } }

theorem startRow_eq (i : RowInst) (n : Nat) (s : State) :
    startRow i n s = arrayGrant (latchFollowing i n (s.rowBegun i n)) := rfl

theorem exchange_loading (r : Rows) : r.exchange.loading = none := setLoading_loading _ _

theorem exchange_displaying (r : Rows) : r.exchange.displaying = r.loading := by
  unfold Rows.exchange
  rw [setLoading_displaying]
  unfold Rows.displaying Rows.loading
  cases r.loadingIs1 <;> rfl

theorem exchange_loadingIs1 (r : Rows) : r.exchange.loadingIs1 = !r.loadingIs1 := setLoading_loadingIs1 _ _

theorem markRow_marked {i : RowInst} (h : i.marked) (s : State) :
    markRow i s = raise .rowmark { s with scan := { s.scan with rowmarkidx := BitVec.ofNat 8 i.index } } :=
  if_pos (by simpa [RowInst.marked] using h)

theorem markRow_unmarked {i : RowInst} (h : ¬i.marked) (s : State) : markRow i s = s :=
  if_neg (by simpa [RowInst.marked] using h)

theorem lateRow_late {s : State} (h : s.rows.loader = .loading) :
    lateRow s = raise .lateRow
      (loaderLeaves { s with scan := { s.scan with latecnt := stepLatecnt s.scan.latecnt } }) := if_pos h

theorem lateRow_inTime {s : State} (h : s.rows.loader ≠ .loading) : lateRow s = s := if_neg h

/-- A late row touches LATECNT in the scan engine, and its loader at most gives up its work. -/
theorem lateRow_rows (s : State) :
    (lateRow s).rows.loading = s.rows.loading ∧ (lateRow s).rows.loadingIs1 = s.rows.loadingIs1 := by
  unfold lateRow; split <;> exact ⟨rfl, rfl⟩

section
variable (s : State) (i : RowInst) (n : Nat)

theorem rowBegun_rows :
    (s.rowBegun i n).rows.loading = none ∧ (s.rowBegun i n).rows.displaying = s.rows.loading ∧
      (s.rowBegun i n).rows.loadingIs1 = !s.rows.loadingIs1 := by
  have h : (s.rowBegun i n).rows = (lateRow s).rows.exchange := by
    unfold State.rowBegun markRow; split <;> rfl
  obtain ⟨hload, his⟩ := lateRow_rows s
  rw [h, exchange_loading, exchange_displaying, exchange_loadingIs1, hload, his]
  exact ⟨rfl, rfl, rfl⟩

theorem rowBegun_scan [Decidable i.marked] :
    (s.rowBegun i n).scan = { s.scan with
      latecnt := if s.rows.loader = .loading then stepLatecnt s.scan.latecnt else s.scan.latecnt
      rowStart := some n, rowmarkidx := if i.marked then BitVec.ofNat 8 i.index else s.scan.rowmarkidx } := by
  unfold State.rowBegun
  by_cases hm : i.marked <;> by_cases hl : s.rows.loader = .loading <;>
    simp [hm, hl, markRow_marked, markRow_unmarked, lateRow_late, lateRow_inTime]

theorem rowBegun_cellPort :
    (s.rowBegun i n).cellPort =
      if s.rows.loader = .loading then s.cellPort.withoutLoader else s.cellPort := by
  have h : (s.rowBegun i n).cellPort = (lateRow s).cellPort := by
    unfold State.rowBegun markRow; split <;> rfl
  rw [h]
  unfold lateRow
  split
  · exact loaderLeaves_cellPort _
  · rfl

theorem rowBegun_arrPort :
    (s.rowBegun i n).arrPort = if s.rows.loader = .loading then s.arrPort.loaderLeaves else s.arrPort := by
  unfold State.rowBegun markRow lateRow
  (repeat' split) <;> rfl

theorem rowBegun_irq [Decidable i.marked] :
    (s.rowBegun i n).irq =
      if i.marked then (if s.rows.loader = .loading then s.irq.raise .lateRow else s.irq).raise .rowmark
      else if s.rows.loader = .loading then s.irq.raise .lateRow else s.irq := by
  unfold State.rowBegun
  by_cases hm : i.marked <;> by_cases hl : s.rows.loader = .loading <;>
    simp [hm, hl, markRow_marked, markRow_unmarked, lateRow_late, lateRow_inTime]

/-- A late row sets LATEROW, and a marked one ROWMARK (R32, R79). -/
theorem rowBegun_flags :
    (s.rows.loader = .loading → (s.rowBegun i n).irq.isSet .lateRow = true) ∧
      (i.marked → (s.rowBegun i n).irq.isSet .rowmark = true) := by
  classical
  rw [rowBegun_irq]
  refine ⟨fun hl => ?_, fun hm => ?_⟩
  · rw [if_pos hl]
    split <;> simp [isSet_raise]
  · rw [if_pos hm]
    exact isSet_raise_self _ _

/-- The tables, the memories and the store are as they were before the row start. -/
theorem rowBegun_frame :
    (s.rowBegun i n).cells = s.cells ∧ (s.rowBegun i n).descs = s.descs ∧ (s.rowBegun i n).attrs = s.attrs ∧
      (s.rowBegun i n).patch = s.patch ∧ (s.rowBegun i n).array = s.array ∧ (s.rowBegun i n).store = s.store := by
  unfold State.rowBegun markRow lateRow
  (repeat' split) <;> exact ⟨rfl, rfl, rfl, rfl, rfl, rfl⟩

theorem noListFault_rowBegun : s.noListFault (s.rowBegun i n) := by
  classical
  unfold State.noListFault
  rw [rowBegun_scan, rowBegun_irq]
  refine ⟨rfl, rfl, ?_⟩
  (repeat' split) <;> simp [isSet_raise]

/-- An access of the loader stays its access when the loader abandons it. -/
theorem loaderAccess_rowBegun : (s.rowBegun i n).loaderAccess = s.loaderAccess := by
  unfold State.loaderAccess
  rw [rowBegun_cellPort, rowBegun_arrPort]
  by_cases hl : s.rows.loader = .loading
  · rw [if_pos hl, if_pos hl]
    simp only [CellPort.withoutLoader, ArrayPort.loaderLeaves]
    rcases s.cellPort.access with _ | ⟨_ | _ | _, req, ab⟩ <;> rcases s.arrPort.access with _ | _ | _ <;> rfl
  · rw [if_neg hl, if_neg hl]

end

/-! ## The `RowInst` that follows -/

/-- A descriptor that repeats is followed by its own next `RowInst` (R9). -/
theorem following_again {d : Descriptor} {index k : Nat} (h : d.marquee = false ∧ k < d.repeats) :
    following d index k = .latch index (k + 1) := by
  obtain ⟨hm, hk⟩ := h
  simp [following, hm, hk]

/-- A descriptor that does not repeat is followed by what NEXT names (R11). -/
theorem following_next {d : Descriptor} {index k : Nat} (h : ¬(d.marquee = false ∧ k < d.repeats)) :
    following d index k = if d.next = 255 then .ends else if 48 ≤ d.next then .badLink else .latch d.next 0 :=
  if_neg (by simpa using h)

section
variable {i : RowInst} {n : Nat} {s : State}

/-- Nothing is latched after a `RowInst` that reaches the last visible line, nor at the end of the walk. -/
theorem latchFollowing_rests (h : ¬n + i.desc.height < s.scan.cfg.vislines.toNat ∨
    (¬(i.desc.marquee = false ∧ i.number < i.desc.repeats) ∧ i.desc.next = 255)) :
    latchFollowing i n s = loaderRests s := by
  unfold latchFollowing
  split
  · obtain ⟨ha, hn⟩ := h.resolve_left (fun hk => hk (by assumption))
    rw [following_next ha, if_pos hn]
  · rfl

theorem latchFollowing_latch {index k : Nat} (h : n + i.desc.height < s.scan.cfg.vislines.toNat)
    (hf : following i.desc i.index i.number = .latch index k) : latchFollowing i n s = latchInst index k s := by
  rw [latchFollowing, if_pos h, hf]

theorem latchFollowing_badLink (h : n + i.desc.height < s.scan.cfg.vislines.toNat)
    (hf : following i.desc i.index i.number = .badLink) :
    latchFollowing i n s = listFault .badLink i.index s := by
  rw [latchFollowing, if_pos h, hf]

end

/-! ## The line start that begins a row -/

/-- A visible line that is due begins at LINE_START. -/
theorem lineStart_due {s : State} {n : Nat} (h : s.lineDue n) : lineStart s = visibleLine n s := by
  unfold lineStart
  rcases h with ⟨k, hpos, hk, rfl⟩ | ⟨k, hpos, hpart, rfl, hn⟩ <;> rw [hpos]
  · exact if_neg (by omega)
  · exact if_pos ⟨hpart, hn⟩

/-- The first line of a `RowInst` shows its first slice (R30). -/
theorem dotsOfLine_first {t : State} {i : RowInst} {n : Nat} (hr : t.scan.rowStart = some n)
    (hd : t.rows.displaying = some i) (hh : 1 ≤ i.desc.height) :
    t.dotsOfLine n = lineDots t.scan.cfg t.scan.blinkOn i i.desc.first := by
  have h : t.instOn n = some (i, n) := by
    unfold State.instOn
    rw [hr, hd]
    exact if_pos (by omega)
  simp [State.dotsOfLine, h, Descriptor.sliceAt]

section
variable {s : State} {i : RowInst} {n : Nat}

/-- The row start with the latch that follows it, as the loader has made it, before the array arbiter's grant and the line's
own dots. -/
def State.rowLatched (s : State) (i : RowInst) (n : Nat) : State := latchFollowing i n (s.rowBegun i n)

theorem loaderSide_rowLatched (s : State) (i : RowInst) (n : Nat) :
    LoaderSide (s.rowBegun i n) (s.rowLatched i n) := loaderSide_latchFollowing _ _ _

/-- The line start at which a row begins: the row start and its latch, the grant, and then the line's own dots. -/
theorem visibleLine_startRow (hinst : s.instOn n = none) (hload : s.rows.loading = some i) :
    visibleLine n s =
      let g := arrayGrant (s.rowLatched i n)
      { g with scan := { g.scan with
          pos := .visible n, lsel := BitVec.ofNat 7 n, part := .activeDots, dots := g.dotsOfLine n } } := by
  have hrow : rowEvents n s = arrayGrant (s.rowLatched i n) := by
    unfold rowEvents
    rw [hinst, hload]
    exact startRow_eq i n s
  unfold visibleLine
  rw [hrow]

/-- `t` has the row buffers, the cell port, the flags and LISTFLT as the row's latch left them. -/
structure RowShown (c t : State) : Prop where
  rows : t.rows = c.rows
  cellPort : t.cellPort = c.cellPort
  irq : t.irq = c.irq
  list : t.scan.listCode = c.scan.listCode ∧ t.scan.listIndex = c.scan.listIndex

theorem rowShown_visibleLine (hinst : s.instOn n = none) (hload : s.rows.loading = some i) :
    RowShown (s.rowLatched i n) (visibleLine n s) := by
  rw [visibleLine_startRow hinst hload]
  exact ⟨arrayGrant_rows _, arrayGrant_cellPort _, arrayGrant_irq _, by simp⟩

theorem RowShown.noListFault {c t : State} (h : RowShown c t) : c.noListFault t :=
  ⟨h.list.1, h.list.2, by rw [h.irq]⟩

/-- The scan engine after a line start at which a row begins, but for LISTFLT and the dots (R30 to R32, R80). -/
theorem visibleLine_scan [Decidable i.marked] (hinst : s.instOn n = none) (hload : s.rows.loading = some i) :
    ∃ code index, (visibleLine n s).scan = { s.scan with
      pos := .visible n, lsel := BitVec.ofNat 7 n, part := .activeDots, rowStart := some n
      latecnt := if s.rows.loader = .loading then stepLatecnt s.scan.latecnt else s.scan.latecnt
      rowmarkidx := if i.marked then BitVec.ofNat 8 i.index else s.scan.rowmarkidx
      listCode := code, listIndex := index, dots := (arrayGrant (s.rowLatched i n)).dotsOfLine n } := by
  obtain ⟨code, index, hc⟩ := (loaderSide_rowLatched s i n).scan_eq
  refine ⟨code, index, ?_⟩
  rw [visibleLine_startRow hinst hload]
  dsimp only
  rw [arrayGrant_scan, hc, rowBegun_scan]

/-- The buffers have exchanged roles (R31, R71). -/
theorem visibleLine_exchanged (hinst : s.instOn n = none) (hload : s.rows.loading = some i) :
    (visibleLine n s).rows.loadingIs1 = !s.rows.loadingIs1 ∧ (visibleLine n s).rows.displaying = some i := by
  obtain ⟨-, hdisp, his1⟩ := rowBegun_rows s i n
  have hside := loaderSide_rowLatched s i n
  rw [(rowShown_visibleLine hinst hload).rows, hside.loadingIs1, hside.displaying, his1, hdisp]
  exact ⟨rfl, hload⟩

theorem visibleLine_flags (hinst : s.instOn n = none) (hload : s.rows.loading = some i) :
    (s.rows.loader = .loading → (visibleLine n s).irq.isSet .lateRow = true) ∧
      (i.marked → (visibleLine n s).irq.isSet .rowmark = true) := by
  have hside := loaderSide_rowLatched s i n
  rw [(rowShown_visibleLine hinst hload).irq, hside.otherFlags _ (by decide), hside.otherFlags _ (by decide)]
  exact rowBegun_flags s i n

/-- A late row's loader quits at the array port (R79, R109). -/
theorem visibleLine_loaderQuits (hinst : s.instOn n = none) (hload : s.rows.loading = some i)
    (hl : s.rows.loader = .loading) : s.loaderQuits (visibleLine n s) := by
  have hside := loaderSide_rowLatched s i n
  obtain ⟨-, -, -, -, -, hstore⟩ := rowBegun_frame s i n
  have ht := visibleLine_startRow hinst hload
  refine loaderQuits_arrayGrant (s' := s.rowLatched i n) ?_ ?_ (by rw [ht]) (by rw [ht]) ?_
  · rw [hside.arrPort, rowBegun_arrPort, if_pos hl]
  · rw [hside.store, hstore]
  · rw [(rowShown_visibleLine hinst hload).rows]

/-- After a `RowInst` that is followed by none the loader rests, with no list fault (R9, R12). -/
theorem visibleLine_rests (hinst : s.instOn n = none) (hload : s.rows.loading = some i)
    (h : s.rowLatched i n = loaderRests (s.rowBegun i n)) :
    (visibleLine n s).rows.loading = none ∧ (visibleLine n s).rows.loader = .resting ∧
      (visibleLine n s).rows.work = none ∧
      (visibleLine n s).cellPort = (if s.rows.loader = .loading then s.cellPort.withoutLoader else s.cellPort) ∧
      s.noListFault (visibleLine n s) := by
  obtain ⟨hempty, -, -⟩ := rowBegun_rows s i n
  obtain ⟨h1, h2, h3⟩ := noListFault_rowBegun s i n
  have hshown := rowShown_visibleLine hinst hload
  obtain ⟨k1, k2, k3⟩ := hshown.noListFault
  rw [h] at k1 k2 k3
  rw [hshown.rows, hshown.cellPort, h]
  exact ⟨hempty, rfl, rfl, rowBegun_cellPort s i n, k1.trans h1, k2.trans h2, k3.trans h3⟩

/-- A `RowInst` that follows is latched as any is (R8, R10, R73). -/
theorem visibleLine_latches (hinst : s.instOn n = none) (hload : s.rows.loading = some i) {k m : Nat}
    (h : s.rowLatched i n = latchInst k m (s.rowBegun i n)) :
    s.latches (visibleLine n s) (if s.rows.loader = .loading then s.cellPort.withoutLoader else s.cellPort) s.descs
      s.scan.cfg.cellw.toNat k m := by
  classical
  obtain ⟨hempty, -, -⟩ := rowBegun_rows s i n
  obtain ⟨-, hdescs, -⟩ := rowBegun_frame s i n
  have hshown := rowShown_visibleLine hinst hload
  have hl := latches_latchInst k m hempty
  rw [← h, rowBegun_cellPort, hdescs, rowBegun_scan] at hl
  exact hl.congr (noListFault_rowBegun s i n) (loaderAccess_rowBegun s i n) hshown.noListFault hshown.rows
    hshown.cellPort

/-- A NEXT that names no descriptor is the list fault BAD_LINK, and nothing is loaded (R11 to R13). -/
theorem visibleLine_badLink (hinst : s.instOn n = none) (hload : s.rows.loading = some i)
    (h : s.rowLatched i n = listFault .badLink i.index (s.rowBegun i n)) :
    (visibleLine n s).irq.isSet .listFault = true ∧ (visibleLine n s).scan.listCode = .badLink ∧
      (visibleLine n s).scan.listIndex = BitVec.ofNat 8 i.index ∧ (visibleLine n s).rows.loading = none ∧
      (visibleLine n s).rows.loader = .resting ∧ (visibleLine n s).rows.work = none ∧
      (visibleLine n s).cellPort = (if s.rows.loader = .loading then s.cellPort.withoutLoader else s.cellPort) := by
  obtain ⟨hempty, -, -⟩ := rowBegun_rows s i n
  have hshown := rowShown_visibleLine hinst hload
  obtain ⟨k1, k2, k3⟩ := hshown.noListFault
  rw [h] at k1 k2 k3
  rw [k1, k2, k3, hshown.rows, hshown.cellPort, h]
  exact ⟨isSet_raise_self _ _, rfl, rfl, hempty, rfl, rfl, rowBegun_cellPort s i n⟩

/-- The first line of the new `RowInst` shows its first slice. -/
theorem visibleLine_dots (hinst : s.instOn n = none) (hload : s.rows.loading = some i) (hh : 1 ≤ i.desc.height) :
    (visibleLine n s).scan.dots = lineDots s.scan.cfg s.scan.blinkOn i i.desc.first := by
  classical
  have hside := loaderSide_rowLatched s i n
  obtain ⟨-, hdisp, -⟩ := rowBegun_rows s i n
  obtain ⟨_, _, hc⟩ := hside.scan_eq
  obtain ⟨_, _, hscan⟩ := visibleLine_scan hinst hload
  have hr : (arrayGrant (s.rowLatched i n)).scan.rowStart = some n := by rw [arrayGrant_scan, hc, rowBegun_scan]
  have hd : (arrayGrant (s.rowLatched i n)).rows.displaying = some i := by
    rw [arrayGrant_rows, hside.displaying, hdisp, hload]
  rw [hscan]
  dsimp only
  rw [dotsOfLine_first hr hd hh, arrayGrant_scan, hc, rowBegun_scan]

/-- A row start writes no table and no memory. -/
theorem visibleLine_frame (hinst : s.instOn n = none) (hload : s.rows.loading = some i) :
    (visibleLine n s).cells = s.cells ∧ (visibleLine n s).descs = s.descs ∧ (visibleLine n s).attrs = s.attrs ∧
      (visibleLine n s).patch = s.patch ∧ (visibleLine n s).array = s.array := by
  obtain ⟨hcells, hdescs, hattrs, hpatch, harray, -⟩ := rowBegun_frame s i n
  have hside := loaderSide_rowLatched s i n
  rw [visibleLine_startRow hinst hload]
  simp [hside.cells, hside.descs, hside.attrs, hside.patch, hside.array, hcells, hdescs, hattrs, hpatch, harray]

end

/-- Settles O11: the row start up to its latch, then the latch by what follows the `RowInst`. -/
theorem rowStartExchangesTheBuffers : Obligations.RowStartExchangesTheBuffers := by
  classical
  intro s n i hrel hdue hinst hload
  have hexec : exec .lineStart s = .next (visibleLine n s) := by
    rw [← lineStart_due hdue]
    exact occur_released hrel
  have hcfg : (s.rowBegun i n).scan.cfg = s.scan.cfg := by rw [rowBegun_scan]
  obtain ⟨code, index, hscan⟩ := visibleLine_scan hinst hload
  obtain ⟨his1, hdisp⟩ := visibleLine_exchanged hinst hload
  obtain ⟨hlate, hmark⟩ := visibleLine_flags hinst hload
  obtain ⟨hcells, hdescs, hattrs, hpatch, harray⟩ := visibleLine_frame hinst hload
  refine ⟨visibleLine n s, hexec, by rw [hscan], by rw [hscan], by rw [hscan], his1, hdisp,
    fun hl => ⟨hlate hl, ?_, visibleLine_loaderQuits hinst hload hl⟩, fun hl => ?_, fun hm => ⟨hmark hm, ?_⟩,
    fun hm => ?_, fun hr => visibleLine_rests hinst hload (latchFollowing_rests (by rwa [hcfg])),
    fun hmore ha => visibleLine_latches hinst hload (latchFollowing_latch (by rwa [hcfg]) (following_again ha)),
    fun hmore ha hnext => visibleLine_latches hinst hload (latchFollowing_latch (by rwa [hcfg]) ?_),
    fun hmore ha h48 h255 => visibleLine_badLink hinst hload (latchFollowing_badLink (by rwa [hcfg]) ?_),
    visibleLine_dots hinst hload, hcells, hdescs, hattrs, hpatch, harray, by rw [hscan], by rw [hscan], by rw [hscan]⟩
  · rw [hscan]; exact if_pos hl
  · rw [hscan]; exact if_neg hl
  · rw [hscan]; exact if_pos hm
  · rw [hscan]; exact if_neg hm
  · rw [following_next ha, if_neg (by omega), if_neg (by omega)]
  · rw [following_next ha, if_neg (by omega), if_pos h48]

end Sys2Proof.Machine
end

section
/-! SUPPORT. The marquee advance: the arithmetic of one descriptor's position, and the advance of the whole table byte
by byte (R1, R6, R20). -/

namespace Sys2Proof.Machine

/-! ## The position of one descriptor -/

/-- What the validity of the marquee fields gives to the advance (R20). -/
theorem advances_iff (d : Descriptor) (cellw : Nat) :
    d.advances cellw = true ↔
      d.marquee = true ∧ 1 ≤ d.ringLen ∧ 1 ≤ d.stepDots ∧ d.stepDots ≤ cellw ∧ 1 ≤ d.interval := by
  simp [Descriptor.advances, and_assoc]

/-- With rounds enough the carries divide POSDOT by CELLW, each moving POSCELL on by one round the ring. -/
theorem carryDots_eq {cellw ringLen : Nat} (hc : 0 < cellw) (rounds posCell posDot : Nat)
    (h : posDot < (rounds + 1) * cellw) :
    carryDots cellw ringLen rounds posCell posDot =
      (if posDot < cellw then posCell else (posCell + posDot / cellw) % ringLen, posDot % cellw) := by
  induction rounds generalizing posCell posDot with
  | zero =>
    have hlt : posDot < cellw := by omega
    rw [carryDots, if_pos hlt, Nat.mod_eq_of_lt hlt]
  | succ k ih =>
    rw [carryDots]
    split
    case isFalse hle =>
      have hlt : posDot < cellw := by omega
      rw [if_pos hlt, Nat.mod_eq_of_lt hlt]
    case isTrue hle =>
      have hq : posDot / cellw = (posDot - cellw) / cellw + 1 := Nat.div_eq_sub_div hc hle
      have hbound : posDot - cellw < (k + 1) * cellw := by
        rw [Nat.succ_mul] at h
        omega
      rw [ih _ _ hbound, ← Nat.mod_eq_sub_mod hle, if_neg (show ¬posDot < cellw by omega)]
      split
      case isTrue hlt => rw [hq, Nat.div_eq_of_lt hlt]
      case isFalse =>
        rw [Nat.mod_add_mod, hq]
        congr 2
        omega

/-- The dots to be carried: POSDOT, with STEP added when the interval is over (R20). -/
def Descriptor.movedDots (d : Descriptor) : Nat := d.posDot + if d.interval ≤ d.fCount + 1 then d.stepDots else 0

/-- The three position values in closed form. -/
theorem advancedPosition_eq {d : Descriptor} {cellw : Nat} (h : d.advances cellw = true) (hd : d.posDot ≤ 255) :
    advancedPosition d cellw =
      (if d.movedDots < cellw then d.posCell else (d.posCell + d.movedDots / cellw) % d.ringLen, d.movedDots % cellw,
        if d.interval ≤ d.fCount + 1 then 0 else d.fCount + 1) := by
  obtain ⟨-, -, hs, hsc, -⟩ := (advances_iff d cellw).1 h
  have hm : (if decide (d.interval ≤ d.fCount + 1) then d.posDot + d.stepDots else d.posDot) = d.movedDots := by
    unfold Descriptor.movedDots
    simp only [decide_eq_true_eq]
    split <;> rfl
  have hle : d.movedDots ≤ 255 + cellw := by
    unfold Descriptor.movedDots
    split <;> omega
  unfold advancedPosition
  dsimp only
  rw [hm, carryDots_eq (by omega) _ _ _ (by omega)]
  simp only [decide_eq_true_eq]

/-- A position on the ring, counted in dots: a cell and a dot within it move together round the whole ring. -/
theorem ring_position (p q r cellw ringLen : Nat) (hr : r < cellw) :
    (p + q) % ringLen * cellw + r = (p * cellw + (q * cellw + r)) % (ringLen * cellw) := by
  have hdiv : ((p + q) * cellw + r) / cellw = p + q := by
    rw [Nat.mul_comm, Nat.mul_add_div (by omega), Nat.div_eq_of_lt hr, Nat.add_zero]
  have hmod : ((p + q) * cellw + r) % cellw = r := by
    rw [Nat.mul_comm, Nat.mul_add_mod, Nat.mod_eq_of_lt hr]
  rw [← Nat.add_assoc, ← Nat.add_mul, Nat.mul_comm ringLen, Nat.mod_mul, hdiv, hmod]
  ring

/-- The bytes of an advanced position fit (R6). -/
theorem advancedPosition_lt {d : Descriptor} {cellw : Nat} (h : d.advances cellw = true) (hw : cellw ≤ 8)
    (hd : d.posDot ≤ 255) (hp : d.posCell ≤ 255) (hl : d.ringLen ≤ 255) (hi : d.interval ≤ 255) :
    (advancedPosition d cellw).1 < 256 ∧ (advancedPosition d cellw).2.1 < 256 ∧
      (advancedPosition d cellw).2.2 < 256 := by
  obtain ⟨-, hring, hs, hsc, hint⟩ := (advances_iff d cellw).1 h
  rw [advancedPosition_eq h hd]
  refine ⟨?_, ?_, ?_⟩ <;> dsimp only
  · have := Nat.mod_lt (d.posCell + d.movedDots / cellw) hring
    split <;> omega
  · have := Nat.mod_lt d.movedDots (show cellw > 0 by omega)
    omega
  · split <;> omega

/-! ## The table -/

/-- A descriptor is read from its own sixteen bytes. -/
theorem readDescriptor_congr {m m' : Memory} {n : Nat} (h : ∀ k, k < 16 → m'.read (16 * n + k) = m.read (16 * n + k)) :
    readDescriptor m' n = readDescriptor m n := by
  simp (disch := decide) only [readDescriptor, h]

/-- The advance of one descriptor writes its three position bytes and no other. -/
theorem read_advanceOne {m : Memory} (cellw n a : Nat) (h : m.wf = true) :
    (advanceOne cellw m n).read a =
      let d := readDescriptor m n
      if d.advances cellw then
        if a = 16 * n + 15 then BitVec.ofNat 8 (advancedPosition d cellw).2.2
        else if a = 16 * n + 14 then BitVec.ofNat 8 (advancedPosition d cellw).2.1
        else if a = 16 * n + 13 then BitVec.ofNat 8 (advancedPosition d cellw).1
        else m.read a
      else m.read a := by
  unfold advanceOne
  dsimp only
  split
  · rw [Memory.read_write _ _ _ (Memory.write_wf _ _ (Memory.write_wf _ _ h)),
      Memory.read_write _ _ _ (Memory.write_wf _ _ h), Memory.read_write _ _ _ h]
  · rfl

/-- The advance of one descriptor leaves every byte but its own position bytes. -/
theorem read_advanceOne_other {m : Memory} (cellw : Nat) {n a : Nat} (h : m.wf = true)
    (ha : a / 16 ≠ n ∨ a % 16 < 13) : (advanceOne cellw m n).read a = m.read a := by
  rw [read_advanceOne _ _ _ h]
  dsimp only
  split
  · rw [if_neg (by omega), if_neg (by omega), if_neg (by omega)]
  · rfl

/-- What the advance of a descriptor writes depends on its own bytes alone. -/
theorem read_advanceOne_congr {m m' : Memory} (cellw : Nat) {n a : Nat} (h : m.wf = true) (h' : m'.wf = true)
    (hd : readDescriptor m' n = readDescriptor m n) (ha : m'.read a = m.read a) :
    (advanceOne cellw m' n).read a = (advanceOne cellw m n).read a := by
  rw [read_advanceOne _ _ _ h, read_advanceOne _ _ _ h', hd, ha]

/-- The advance of a list of descriptors, each once: a byte is what the advance of its own descriptor leaves. -/
theorem read_foldl_advanceOne (cellw a : Nat) (l : List Nat) (hl : l.Nodup) {m : Memory} (h : m.wf = true) :
    (l.foldl (advanceOne cellw) m).read a =
      if a / 16 ∈ l then (advanceOne cellw m (a / 16)).read a else m.read a := by
  induction l generalizing m with
  | nil => simp
  | cons n rest ih =>
    obtain ⟨hn, hrest⟩ := List.nodup_cons.1 hl
    rw [List.foldl_cons, ih hrest (advanceOne_wf cellw n h)]
    by_cases ha : a / 16 = n
    · rw [if_neg (ha ▸ hn), if_pos (by simp [ha]), ha]
    · have hmem : a / 16 ∈ n :: rest ↔ a / 16 ∈ rest := by simp [ha]
      have hblock : ∀ k, k < 16 → (advanceOne cellw m n).read (16 * (a / 16) + k) = m.read (16 * (a / 16) + k) :=
        fun k hk => read_advanceOne_other cellw h (.inl (by omega))
      have hread := read_advanceOne_other cellw h (.inl ha)
      simp only [hmem]
      split
      · exact read_advanceOne_congr cellw h (advanceOne_wf cellw n h) (readDescriptor_congr hblock) hread
      · exact hread

/-- A byte after the advance of the whole table. -/
theorem read_advanceMarquees {m : Memory} (cellw a : Nat) (h : m.wf = true) :
    (advanceMarquees cellw m).read a = if a / 16 < 48 then (advanceOne cellw m (a / 16)).read a else m.read a := by
  rw [advanceMarquees, read_foldl_advanceOne cellw a _ List.nodup_range h]
  simp only [List.mem_range]

/-- The advance of the whole table makes of each descriptor what its own advance makes of it. -/
theorem readDescriptor_advanceMarquees {m : Memory} (cellw : Nat) {n : Nat} (h : m.wf = true) (hn : n < 48) :
    readDescriptor (advanceMarquees cellw m) n = readDescriptor (advanceOne cellw m n) n := by
  refine readDescriptor_congr fun k hk => ?_
  have hdiv : (16 * n + k) / 16 = n := by omega
  rw [read_advanceMarquees _ _ h, hdiv, if_pos hn]

/-- The advance of one descriptor puts the three position values into it, and nothing else. -/
theorem readDescriptor_advanceOne {m : Memory} {cellw : Nat} (n : Nat) (h : m.wf = true) (hw : cellw ≤ 8) :
    readDescriptor (advanceOne cellw m n) n =
      let d := readDescriptor m n
      if d.advances cellw then
        { d with
          posCell := (advancedPosition d cellw).1, posDot := (advancedPosition d cellw).2.1
          fCount := (advancedPosition d cellw).2.2 }
      else d := by
  dsimp only
  split
  case isFalse hd =>
    exact readDescriptor_congr fun k _ => by rw [read_advanceOne _ _ _ h]; exact if_neg hd
  case isTrue hd =>
    have hbyte : ∀ a, (m.read a).toNat ≤ 255 := fun a => by have := (m.read a).isLt; omega
    obtain ⟨h1, h2, h3⟩ := advancedPosition_lt hd hw (hbyte _) (hbyte _) (hbyte _) (hbyte _)
    have hr := fun a => read_advanceOne cellw n a h
    simp only [hd, if_true] at hr
    generalize advancedPosition (readDescriptor m n) cellw = p at *
    simp [readDescriptor, hr, Nat.mod_eq_of_lt h1, Nat.mod_eq_of_lt h2, Nat.mod_eq_of_lt h3]

/-- Settles O9: the whole table from the advance of one descriptor, and the arithmetic of its position. -/
theorem marqueeAdvanceMovesTheWindow : Obligations.MarqueeAdvanceMovesTheWindow := by
  refine ⟨fun m cellw n h hw hn => ?_, fun m cellw a h ha => ?_, fun d cellw h hd => ?_⟩
  · rw [readDescriptor_advanceMarquees cellw h hn, readDescriptor_advanceOne n h hw]
  · rw [read_advanceMarquees cellw a h]
    split
    · exact read_advanceOne_other cellw h (.inr (by omega))
    · rfl
  · obtain ⟨-, hring, hs, hsc, -⟩ := (advances_iff d cellw).1 h
    have hc : 0 < cellw := by omega
    have htotal : d.posDot + (if d.interval ≤ d.fCount + 1 then d.stepDots else 0) = d.movedDots := rfl
    have hlt := Nat.mod_lt d.movedDots hc
    dsimp only
    rw [htotal, advancedPosition_eq h hd]
    refine ⟨rfl, hlt, rfl, rfl, fun hp => ⟨?_, ?_⟩⟩ <;> dsimp only
    · split
      · exact hp
      · exact Nat.mod_lt _ hring
    · have hpos := ring_position d.posCell (d.movedDots / cellw) (d.movedDots % cellw) cellw d.ringLen hlt
      rw [Nat.div_add_mod'] at hpos
      rw [← hpos]
      split
      · rename_i hm
        rw [Nat.div_eq_of_lt hm, Nat.add_zero, Nat.mod_eq_of_lt hp]
      · rfl

end Sys2Proof.Machine
end

section
/-! SUPPORT. The enable of the display, the lines that begin no row, and the two counts that are read through a capture
(R8, R23, R25, R29, R30, R34, R38, R39, R63, R168; log entry 15). -/

namespace Sys2Proof.Machine

/-! ## The enable -/

/-- The display as an enable turns it on, before its frame start: the loader rests and buffer 0 is loading (R23). -/
def State.turnedOn (s : State) : State :=
  { s with
    scan := { s.scan with enabled := true }
    rows := { s.rows with loader := .resting, work := none, loadingIs1 := false } }

theorem enableDisplay_eq (s : State) : enableDisplay s = openFrame s.turnedOn := rfl

/-- A write to DISPCTL with ENABLE set. -/
theorem writeDispctl_set {v : Byte} (hv : v.getLsbD 0 = true) (s : State) :
    writeDispctl v s = if s.scan.enabled then s else enableDisplay s := if_pos hv

/-- A frame start that makes its first latch at once settles the frame. -/
theorem frameSettled_openFrame {s : State} (he : s.scan.enabled = true) : s.frameSettled (openFrame s) :=
  frameSettled_latchFirst (frameSettled_frameSettings s.freeCount he)

/-- A frame start that makes its first latch at once leaves none to the next step. -/
theorem headLatched_openFrame {s : State} (hl : s.scan.latchDue = false) : s.headLatched (openFrame s) := by
  have heq := frameSettings_eq s
  refine headLatched_latchFirst ?_ (noListFault_frameSettings s s.freeCount) ?_ ?_ ?_
  · rw [heq]; exact hl
  all_goals rw [heq]

/-- A frame start leaves the window and the buffers' roles as they were. -/
theorem openFrame_kept (s : State) :
    (openFrame s).win = s.win ∧ (openFrame s).rows.loadingIs1 = s.rows.loadingIs1 := by
  have hside := loaderSide_latchFirst (frameSettings s)
  rw [openFrame, arrayGrant_win, arrayGrant_rows, hside.win, hside.loadingIs1, frameSettings_eq]
  exact ⟨rfl, rfl⟩

/-- What the frame start of an enable settles is told of the state before the enable: it reads neither ENABLE nor the row
buffers there. -/
theorem frameSettled_turnedOn (s t : State) : s.turnedOn.frameSettled t ↔ s.frameSettled t := .rfl

/-- The first latch of an enable is told of the state before the enable. -/
theorem latchesHead_turnedOn (s t : State) : s.turnedOn.latchesHead t ↔ s.latchesHead t := .rfl

/-- After an enable buffer 0 is the one that the first latch loads. -/
theorem turnedOn_loading (s : State) : s.turnedOn.rows.loading = s.rows.buf0 := rfl

/-- The address step after a DATA write keeps what a frame start has settled. -/
theorem frameSettled_stepAddr (s t : State) : s.frameSettled (stepAddr t) ↔ s.frameSettled t := .rfl

/-- The address step after a DATA write keeps what a first latch has made. -/
theorem latchesHead_stepAddr (s t : State) : s.latchesHead (stepAddr t) ↔ s.latchesHead t := .rfl

/-- Settles O12: the frame start of an enable with its first latch, and the write that changes nothing. -/
theorem enableRaisesAFrameStart : Obligations.EnableRaisesAFrameStart := by
  refine ⟨fun s v h hv he => ?_, fun s v h hv he => ?_⟩
  · have hstep : exec (.displayEnable v) s = .next (stepAddr (openFrame s.turnedOn)) := by
      refine (strobe_dispctl h v).trans ?_
      rw [writeDispctl_set hv, if_neg (by simp [he]), enableDisplay_eq]
    obtain ⟨⟨⟨-, hlatch⟩, -⟩, -⟩ := h.1
    obtain ⟨hdue, hend, hhead⟩ := headLatched_openFrame (s := s.turnedOn) hlatch
    obtain ⟨hwin, hbuf⟩ := openFrame_kept s.turnedOn
    have hset : s.frameSettled (openFrame s.turnedOn) := (frameSettled_turnedOn s _).1 (frameSettled_openFrame rfl)
    refine ⟨_, hstep, (frameSettled_stepAddr s _).2 hset, ?_, ?_, fun hact => ?_, fun hempty => ?_, ?_⟩
    · rw [stepAddr_rows, hbuf]
      rfl
    · rw [stepAddr_scan, hdue]
    · obtain ⟨hrows, -, -⟩ := hend hact
      rw [stepAddr_rows, hrows]
      exact ⟨rfl, rfl⟩
    · rw [latchesHead_stepAddr, ← latchesHead_turnedOn]
      exact hhead ((turnedOn_loading s).trans hempty)
    · rw [stepAddr_win, hwin]
      rfl
  · refine (strobe_dispctl h v).trans ?_
    rw [writeDispctl_set hv, if_pos he]
    rfl

/-! ## Lines that begin no row -/

section
variable {s : State} {n r : Nat} {i : RowInst}

/-- While blank lines are left the next one is counted (R25, R39). -/
theorem lineStart_blank (hpos : s.scan.pos = .vblank n) (hn : n + 1 < s.scan.cfg.vblank.toNat) :
    lineStart s = { s with scan := { s.scan with pos := .vblank (n + 1) } } := by
  unfold lineStart
  rw [hpos]
  exact if_pos hn

/-- The displayed `RowInst` is in progress on the lines of its height from its row start on (R30). -/
theorem instOn_displaying (hr : s.scan.rowStart = some r) (hd : s.rows.displaying = some i) :
    s.instOn n = if n < r + i.desc.height then some (i, r) else none := by
  unfold State.instOn
  rw [hr, hd]

/-- With no row started, or with nothing displayed or its lines over, no `RowInst` is in progress. -/
theorem instOn_none (h : ∀ r i, s.scan.rowStart = some r → s.rows.displaying = some i → r + i.desc.height ≤ n) :
    s.instOn n = none := by
  unfold State.instOn
  split
  · rename_i r i hr hd
    exact if_neg (Nat.not_lt.2 (h r i hr hd))
  · rfl

/-- A line of the `RowInst` in progress begins no row and shows its slice (R30). -/
theorem visibleLine_instOn (h : s.instOn n = some (i, r)) :
    visibleLine n s = { s with scan := { s.scan with
      pos := .visible n, lsel := BitVec.ofNat 7 n, part := .activeDots
      dots := lineDots s.scan.cfg s.scan.blinkOn i (i.desc.sliceAt (n - r)) } } := by
  have hrow : rowEvents n s = s := by unfold rowEvents; rw [h]
  have hdots : s.dotsOfLine n = lineDots s.scan.cfg s.scan.blinkOn i (i.desc.sliceAt (n - r)) := by
    unfold State.dotsOfLine; rw [h]
  unfold visibleLine
  dsimp only
  rw [hrow, hdots]

/-- With no `RowInst` in progress and none loaded the line is a fill line (R34). -/
theorem visibleLine_fill (h : s.instOn n = none) (hload : s.rows.loading = none) :
    visibleLine n s = { s with scan := { s.scan with
      pos := .visible n, lsel := BitVec.ofNat 7 n, part := .activeDots, rowStart := none
      dots := fillDots s.scan.cfg } } := by
  have hrow : rowEvents n s = { s with scan := { s.scan with rowStart := none } } := by
    unfold rowEvents; rw [h, hload]
  unfold visibleLine
  rw [hrow]
  rfl

/-- The end of the active dots hands the line to the panel (R38). -/
theorem endActiveDots_active (h : s.scan.part = .activeDots) :
    endActiveDots s = { s with scan := { s.scan with
      part := .blankDots, latched := some { line := s.scan.lsel, dots := s.scan.dots } } } := if_pos h

end

/-- Settles O10: a blank line, a line of the `RowInst` in progress, a fill line, and the LATCH pulse. -/
theorem linesShowTheirSlices : Obligations.LinesShowTheirSlices := by
  refine ⟨fun s n hrel hpos hn => ?_, fun s n r i hrel hpos hpart hn hr hd hline => ?_,
    fun s n hrel hdue hload hover => ?_, fun s hrel hpart => ?_⟩ <;> refine (occur_released hrel).trans ?_
  · rw [lineStart_blank hpos hn]
  · have hinst : s.instOn (n + 1) = some (i, r) := (instOn_displaying hr hd).trans (if_pos hline)
    rw [lineStart_due (.inr ⟨n, hpos, hpart, rfl, hn⟩), visibleLine_instOn hinst]
    rfl
  · rw [lineStart_due hdue, visibleLine_fill (instOn_none hover) hload]
    rfl
  · rw [endActiveDots_active hpart]

/-! ## Counts read through a capture -/

/-- A DATA read of the control block drives its byte, and then does to the captures what it does. -/
theorem strobe_controlRead {s : State} {a : Nat} (h : s.dataAt 0 a) (ha : a < 64) :
    occurStrobe (.read 4) s = .next (stepAddr (captureRead a (drive (s.controlByte a) s))) := by
  rw [strobe_dataRead h ha, spaceRead_control h]

/-- The high byte of a count comes from its capture when that holds one (R29, R63). -/
theorem byteOf_captured (c : Option Word16) (count : Word16) :
    byteOf (c.getD count) 1 = match c with
      | some w => byteOf w 1
      | none => byteOf count 1 := by
  cases c <;> rfl

theorem controlByte_framecntHigh (s : State) :
    s.controlByte 18 = byteOf (s.win.framecntCapture.getD s.scan.framecnt) 1 := rfl

theorem controlByte_mvdoneHigh (s : State) :
    s.controlByte 32 = byteOf (s.win.mvdoneCapture.getD s.mover.mvdone) 1 := rfl

/-- Settles O26: a low byte captures its count, and a high byte is read through the capture and empties it. -/
theorem countsAreReadThroughTheirCaptures : Obligations.CountsAreReadThroughTheirCaptures := by
  refine ⟨fun s h => ?_, fun s h => ?_, fun s h => ?_, fun s h => ?_⟩ <;>
    refine (strobe_controlRead h (by decide)).trans ?_
  · rfl
  · rw [controlByte_framecntHigh, byteOf_captured]; rfl
  · rfl
  · rw [controlByte_mvdoneHigh, byteOf_captured]; rfl

end Sys2Proof.Machine
end

section
/-! SUPPORT. The cell port: whom it grants and how an access of the host or of the mover completes; the host's cell bytes,
and the start, the steps and the abort of the mover (R41, R43 to R47, R49 to R54, R60 to R65, R69, R168; log entries 8
and 12). -/

namespace Sys2Proof.Machine

/-! ## Grants -/

section
variable {p : CellPort} (hfree : p.access = none)
include hfree

/-- A free port takes the row loader's read before any other request (R46). -/
theorem grant_rowLoader {a : CellAddr} (hl : p.loaderWait = some a) : p.grant = p.start .rowLoader (.read a) := by
  simp [CellPort.grant, hfree, hl]

/-- With the loader silent the host is taken when the mover is silent or had the last turn (R46). -/
theorem grant_host {r : CellReq} (hl : p.loaderWait = none) (hh : p.hostWait = some r)
    (hm : p.moverWait = none ∨ p.turn = .mover) : p.grant = p.start .host r := by
  rcases hm with hm | ht
  · simp [CellPort.grant, hfree, hl, hh, hm]
  · cases hm : p.moverWait <;> simp [CellPort.grant, hfree, hl, hh, hm, ht]

/-- With the loader silent the mover is taken when the host is silent or had the last turn (R46). -/
theorem grant_mover {r : CellReq} (hl : p.loaderWait = none) (hm : p.moverWait = some r)
    (hh : p.hostWait = none ∨ p.turn = .host) : p.grant = p.start .mover r := by
  rcases hh with hh | ht
  · simp [CellPort.grant, hfree, hl, hm, hh]
  · cases hh : p.hostWait <;> simp [CellPort.grant, hfree, hl, hm, hh, ht]

end

/-- An access once started is in progress. -/
theorem start_access (p : CellPort) (who : CellClaimant) (r : CellReq) :
    (p.start who r).access = some ⟨who, r, false⟩ := by
  cases who <;> rfl

/-- The arbiter makes one grant: asked again it changes nothing (R43). -/
@[simp] theorem grant_grant (p : CellPort) : p.grant.grant = p.grant := by
  rcases grant_cases p with h | ⟨who, r, h, -⟩
  · rw [h, h]
  · exact grant_busy (by rw [h, start_access]; rfl)

/-! ## Completions at the cell port -/

/-- The state in which a completed write is delivered: the port is free and the cell is stored (R41, R43). -/
def State.cellStored (s : State) (a : CellAddr) (w : Word16) : State :=
  { freeCellPort s with cells := s.cells.writeCell a w }

section
variable {s : State} {who : CellClaimant} {a : CellAddr} {w : Word16} {ab : Bool}

/-- A completed read is delivered with the word of its cell, and the next grants are made (R43, R46). -/
theorem cellPortComplete_read (h : s.cellPort.access = some ⟨who, .read a, ab⟩) :
    cellPortComplete s =
      arrayGrant (cellGrant (deliverCell ⟨who, .read a, ab⟩ a (s.cell a) (freeCellPort s))) := by
  simp [cellPortComplete, h]

/-- A completed write is stored and delivered, and the next grants are made (R43, R46). -/
theorem cellPortComplete_write (h : s.cellPort.access = some ⟨who, .write a w, ab⟩) :
    cellPortComplete s =
      arrayGrant (cellGrant (deliverCell ⟨who, .write a w, ab⟩ a w (s.cellStored a w))) := by
  simp [cellPortComplete, h, State.cellStored]

/-- The host's access is delivered whether or not it is marked as abandoned: the host never leaves one (R55). -/
theorem deliverCell_host (r : CellReq) (s : State) :
    deliverCell ⟨.host, r, ab⟩ a w s = hostCellDone a w s := rfl

theorem deliverCell_moverRead (b : CellAddr) (s : State) :
    deliverCell ⟨.mover, .read b, false⟩ a w s = moverReadDone w s := rfl

theorem deliverCell_moverWrite (b : CellAddr) (v : Word16) (s : State) :
    deliverCell ⟨.mover, .write b v, false⟩ a w s = moverWriteDone s := rfl

theorem deliverCell_moverAbandoned (r : CellReq) (s : State) :
    deliverCell ⟨.mover, r, true⟩ a w s = moverAbandonedDone s := rfl

end

/-! ## The host's accesses -/

section
variable {s : State} (a : CellAddr) (w : Word16)

/-- The completion of the host's write empties the assembly latch and refreshes the read latch (R51, R54, R168). -/
theorem hostCellDone_write (h : s.win.cellOp = some .write) :
    hostCellDone a w s = stepAddr { s with
      win := { s.win with assembly := none, readLatch := refreshLatch a w s.win.readLatch, cellOp := none } } := by
  simp [hostCellDone, h]

/-- The completion of the host's read fills the read latch and returns the byte asked for (R52, R53, R168). -/
theorem hostCellDone_read {op : CellOp} (h : s.win.cellOp = some op) (hop : op ≠ .write) :
    hostCellDone a w s = stepAddr (drive (if op = .readLow then byteOf w 0 else byteOf w 1)
      { s with win := { s.win with readLatch := some (a, w), cellOp := none } }) := by
  cases op with
  | write => exact absurd rfl hop
  | readLow => simp [hostCellDone, h]
  | readHigh => simp [hostCellDone, h]

end

/-- Settles O35: the order of the grants, and the completions of the host's writes and reads. -/
theorem cellPortServesTheHost : Obligations.CellPortServesTheHost := by
  refine ⟨fun p acc h => grant_busy (by simp [h]), fun p a hfree hl => grant_rowLoader hfree hl,
    fun p r hfree hl hh hm => grant_host hfree hl hh hm, fun p r hfree hl hm hh => grant_mover hfree hl hm hh,
    fun s a w ab hrel hwf hacc hop => ?_, fun s a op ab hrel hacc hop hne => ?_⟩
  · have hdone : cellPortComplete s = arrayGrant (cellGrant (stepAddr { s.cellStored a w with
        win := { s.win with
          assembly := none, readLatch := refreshLatch a w s.win.readLatch, cellOp := none } })) := by
      rw [cellPortComplete_write hacc, deliverCell_host, hostCellDone_write a w (by exact hop)]
      rfl
    obtain ⟨hcell, hother⟩ := cell_writeCell (t := cellPortComplete s) (a := a) (w := w) hwf
      (by rw [hdone]; simp [State.cellStored])
    refine ⟨cellPortComplete s, occur_released hrel, hcell, hother, ?window, ?_⟩
    case window =>
      rw [hdone]
      cases hl : s.win.readLatch <;> simp [refreshLatch]
    rw [hdone]
    simp [State.cellStored]
  · have hdone : cellPortComplete s = arrayGrant (cellGrant (stepAddr (drive
        (if op = .readLow then byteOf (s.cell a) 0 else byteOf (s.cell a) 1)
        { freeCellPort s with win := { s.win with readLatch := some (a, s.cell a), cellOp := none } }))) := by
      rw [cellPortComplete_read hacc, deliverCell_host, hostCellDone_read a (s.cell a) (by exact hop) hne]
      rfl
    refine ⟨cellPortComplete s, occur_released hrel, ?_⟩
    rw [hdone]
    simp

/-! ## Cell bytes at the window -/

/-- A DATA write at a location of the cell store goes by the byte of the cell (R50, R51). -/
theorem strobe_cellWrite {s : State} {a : Nat} (h : s.dataAt 1 a) (ha : a < 8192) (v : Byte) :
    occurStrobe (.write 4 v) s = .next (if a % 2 = 0 then cellLowWrite v s else cellHighWrite v s) := by
  rw [strobe_dataWrite h ha, spaceWrite_cells h]

/-- A DATA read at a location of the cell store goes by the byte of the cell (R52, R53). -/
theorem strobe_cellRead {s : State} {a : Nat} (h : s.dataAt 1 a) (ha : a < 8192) :
    occurStrobe (.read 4) s = .next (if a % 2 = 0 then cellLowRead s else cellHighRead s) := by
  rw [strobe_dataRead h ha, spaceRead_cells h]

section
variable {s : State} {c : CellAddr} (hc : cellOfAddr s.win.addr = c)
include hc

/-- A low byte is loaded into the assembly latch; what becomes of the byte it replaces is judged after (R50). -/
theorem cellLowWrite_eq (v : Byte) :
    let held := { s with win := { s.win with assembly := some (c, v) } }
    cellLowWrite v s = stepAddr
      (match s.win.assembly with
        | some (d, _) => if d = c then held else refuse .pair held
        | none => held) := by
  unfold cellLowWrite
  rw [hc]
  cases s.win.assembly <;> rfl

/-- A high byte whose low byte is held presents the whole cell (R51). -/
theorem cellHighWrite_held {lo : Byte} (v : Byte) (h : s.win.assembly = some (c, lo)) :
    cellHighWrite v s = hostCellRequest .write (.write c (word16 v lo)) s := by
  unfold cellHighWrite
  rw [hc, h]
  exact if_pos rfl

/-- A high byte whose low byte is not held is refused with PAIR (R51). -/
theorem cellHighWrite_unheld (v : Byte) (h : ∀ lo, s.win.assembly ≠ some (c, lo)) :
    cellHighWrite v s = stepAddr (refuse .pair s) := by
  unfold cellHighWrite
  rw [hc]
  rcases hl : s.win.assembly with _ | ⟨d, lo⟩
  · rfl
  · exact if_neg fun hd => h lo (by rw [hl, hd])

/-- A low byte is fetched (R52). -/
theorem cellLowRead_eq : cellLowRead s = hostCellRequest .readLow (.read c) s := by rw [cellLowRead, hc]

/-- A high byte is served from the read latch when that holds its cell (R53). -/
theorem cellHighRead_held {w : Word16} (h : s.win.readLatch = some (c, w)) :
    cellHighRead s = stepAddr (drive (byteOf w 1) s) := by
  unfold cellHighRead
  rw [hc, h]
  exact if_pos rfl

/-- A high byte of a cell that the read latch does not hold is fetched (R53). -/
theorem cellHighRead_unheld (h : ∀ w, s.win.readLatch ≠ some (c, w)) :
    cellHighRead s = hostCellRequest .readHigh (.read c) s := by
  unfold cellHighRead
  rw [hc]
  rcases hl : s.win.readLatch with _ | ⟨d, w⟩
  · rfl
  · exact if_neg fun hd => h w (by rw [hl, hd])

end

/-- The cell that the window address concerns (R49). -/
theorem cellOfAddr_dataAt {s : State} {a : Nat} (h : s.dataAt 1 a) :
    cellOfAddr s.win.addr = BitVec.ofNat 12 (a / 2) := by
  obtain ⟨-, -, hw⟩ := h
  rw [cellOfAddr, hw]

/-- Settles O27: each byte of a cell, written and read, with what the latch holds. -/
theorem cellBytesPassThroughTheLatches : Obligations.CellBytesPassThroughTheLatches := by
  refine ⟨fun s v a h ha heven => ?_, fun s v lo a h ha hodd hheld => ?_, fun s v a h ha hodd hunheld => ?_,
    fun s a h ha heven => ?_, fun s w a h ha hodd hheld => ?_, fun s a h ha hodd hunheld => ?_⟩ <;>
    have hc := cellOfAddr_dataAt h
  · exact (strobe_cellWrite h ha v).trans (congrArg _ ((if_pos heven).trans (cellLowWrite_eq hc v)))
  · exact (strobe_cellWrite h ha v).trans
      (congrArg _ ((if_neg (by omega)).trans (cellHighWrite_held hc v hheld)))
  · exact (strobe_cellWrite h ha v).trans
      (congrArg _ ((if_neg (by omega)).trans (cellHighWrite_unheld hc v hunheld)))
  · exact (strobe_cellRead h ha).trans (congrArg _ ((if_pos heven).trans (cellLowRead_eq hc)))
  · exact (strobe_cellRead h ha).trans (congrArg _ ((if_neg (by omega)).trans (cellHighRead_held hc hheld)))
  · exact (strobe_cellRead h ha).trans (congrArg _ ((if_neg (by omega)).trans (cellHighRead_unheld hc hunheld)))

/-! ## The start of the mover -/

/-- Which operation MVKIND asks for (R60). -/
def Mover.asks (m : Mover) (kind : MvKind) : Prop :=
  (m.mvkind = 1 ∧ kind = .fill) ∨ (m.mvkind = 2 ∧ kind = .copy)

/-- The operation of a kind that the parameter registers hold, with its direction (R60, R61). -/
def Mover.opOf (m : Mover) (kind : MvKind) : MoverOp :=
  { kind := kind, src := m.mvsrc.setWidth 12, dst := m.mvdst.setWidth 12, count := m.mvcnt.toNat, value := m.mvval
    descending := decide (kind = .copy ∧ 1 ≤ (m.mvdst.setWidth 12 - m.mvsrc.setWidth 12 : CellAddr).toNat ∧
      (m.mvdst.setWidth 12 - m.mvsrc.setWidth 12 : CellAddr).toNat < m.mvcnt.toNat) }

/-- With MVKIND or MVCNT out of range there is no operation to latch (R60). -/
theorem latchOp_none {m : Mover}
    (h : (m.mvkind ≠ 1 ∧ m.mvkind ≠ 2) ∨ m.mvcnt = 0 ∨ 4096 < m.mvcnt.toNat) : m.latchOp = none := by
  unfold Mover.latchOp
  dsimp only
  rcases h with ⟨h1, h2⟩ | h | h
  · rw [if_neg h1, if_neg h2, ite_self]
  · exact if_pos (.inl (by rw [h]; rfl))
  · exact if_pos (.inr h)

/-- With both in range the operation is that of the registers, and a COPY has its direction (R60, R61). -/
theorem latchOp_some {m : Mover} {kind : MvKind} (hk : m.asks kind) (h1 : 1 ≤ m.mvcnt.toNat)
    (h2 : m.mvcnt.toNat ≤ 4096) : m.latchOp = some (m.opOf kind) := by
  unfold Mover.latchOp
  dsimp only
  rw [if_neg (by omega)]
  rcases hk with ⟨hk, rfl⟩ | ⟨hk, rfl⟩
  · rw [if_pos hk]; simp [Mover.opOf]
  · rw [if_neg (by rw [hk]; decide), if_pos hk]; simp [Mover.opOf, copyDescends]

theorem moverAccess_iff (s : State) : s.moverAccess = true ↔ ∃ r ab, s.cellPort.access = some ⟨.mover, r, ab⟩ := by
  unfold State.moverAccess
  rcases s.cellPort.access with _ | ⟨_ | _ | _, r, ab⟩ <;> simp

/-- A MOVER START with its parameters in range puts the operation in hand, and presents its first request unless an access
of the mover is still in progress (R45, R60). -/
theorem moverStart_latched {s : State} {op : MoverOp} (hrun : s.mover.mvstate ≠ .running)
    (hop : s.mover.latchOp = some op) :
    moverStart s = { s with
      mover := s.mover.begin op
      cellPort := if s.moverAccess then s.cellPort else
        { s.cellPort with moverWait := some (op.firstRequest op.firstStep) }.grant } := by
  unfold moverStart
  rw [if_neg hrun, hop]
  cases s.moverAccess <;> rfl

/-- A MOVER START while RUNNING is refused with MOVER_BUSY (R60). -/
theorem moverStart_running {s : State} (hrun : s.mover.mvstate = .running) : moverStart s = refuse .moverBusy s :=
  if_pos hrun

/-- A MOVER START with a parameter out of range is refused with BAD_VALUE (R60). -/
theorem moverStart_outOfRange {s : State} (hrun : s.mover.mvstate ≠ .running) (hop : s.mover.latchOp = none) :
    moverStart s = refuse .badValue s := by
  unfold moverStart
  rw [if_neg hrun, hop]

/-! ## The abort of the mover -/

/-- A MOVER ABORT is ignored unless the mover is RUNNING (R65). -/
theorem moverAbort_ignored {s : State} (hrun : s.mover.mvstate ≠ .running) : moverAbort s = s := if_neg hrun

/-- A step whose cell is in progress is worked to its end first (R65). -/
theorem moverAbort_inProgress {s : State} (hrun : s.mover.mvstate = .running) (hcell : s.moverCellInProgress = true) :
    moverAbort s = { s with mover := { s.mover with aborting := true } } := by
  unfold moverAbort
  rw [if_pos hrun, if_pos hcell]

/-- A step whose cell is not in progress is withdrawn, and the operation ends ABORTED (R47, R65). -/
theorem moverAbort_withdrawn {s : State} (hrun : s.mover.mvstate = .running) (hcell : s.moverCellInProgress = false) :
    moverAbort s = moverEnd .aborted { s with cellPort := { s.cellPort with moverWait := none } } := by
  unfold moverAbort
  rw [if_pos hrun, if_neg (by simp [hcell])]

/-- Settles O20: the refusals of MOVER START and the operation it latches, and MOVER ABORT by the place of the step. -/
theorem moverStartsAndAborts : Obligations.MoverStartsAndAborts := by
  refine ⟨fun s h hrun => ?_, fun s h hrun hbad => ?_, fun s kind h hrun hk h1 h2 => ?_, fun s h hrun => ?_,
    fun s h hrun hcell => ?_, fun s h hrun hcell => ?_⟩
  · exact (strobe_command h 6).trans (congrArg _ (moverStart_running hrun))
  · exact (strobe_command h 6).trans (congrArg _ (moverStart_outOfRange hrun (latchOp_none hbad)))
  · have hstart := moverStart_latched hrun (latchOp_some hk h1 h2)
    refine ⟨moverStart s, strobe_command h 6, ?_, fun hfree => ?_, fun r ab hacc => ?_⟩
    · rw [hstart]; rfl
    · have hidle : s.moverAccess = false := by
        rw [Bool.eq_false_iff, ne_eq, moverAccess_iff]
        exact fun ⟨r, ab, hacc⟩ => hfree r ab hacc
      rw [hstart, hidle]
      cases kind <;> rfl
    · rw [hstart, (moverAccess_iff s).2 ⟨r, ab, hacc⟩]
      rfl
  · exact (strobe_command h 7).trans (congrArg _ (moverAbort_ignored hrun))
  · exact (strobe_command h 7).trans (congrArg _ (moverAbort_inProgress hrun hcell))
  · exact (strobe_command h 7).trans (congrArg _ (moverAbort_withdrawn hrun hcell))

/-! ## The steps of the mover -/

/-- The mover after the write of a step: the step is counted, and its transfer word is spent (R62, R63). -/
def State.stepCounted (s : State) : State :=
  { s with mover := { s.mover with mvdone := s.mover.mvdone + 1, transfer := none } }

/-- The mover after the end of an access that DISPLAY RESET cut loose: a write is counted while it is still to be (R69). -/
def State.tailCounted (s : State) : State :=
  if s.mover.tail then { s with mover := { s.mover with mvdone := s.mover.mvdone + 1, tail := false } } else s

/-- The last step in the direction of the run has no step after it (R61). -/
theorem nextStep_last {op : MoverOp} {k : Nat}
    (h : (op.descending = true ∧ k = 0) ∨ (op.descending = false ∧ op.count ≤ k + 1)) : op.nextStep k = none := by
  rcases h with ⟨hd, hk⟩ | ⟨hd, hk⟩
  · simp [MoverOp.nextStep, hd, hk]
  · simp [MoverOp.nextStep, hd, hk]

/-- Any other step is followed by its neighbour in the direction of the run (R61). -/
theorem nextStep_next {op : MoverOp} {k i : Nat}
    (h : (op.descending = true ∧ k = i + 1) ∨ (op.descending = false ∧ i = k + 1 ∧ i < op.count)) :
    op.nextStep k = some i := by
  rcases h with ⟨hd, hk⟩ | ⟨hd, hk, hi⟩
  · simp [MoverOp.nextStep, hd, hk]
  · subst hk
    simp [MoverOp.nextStep, hd, hi]

section
variable {s : State} {op : MoverOp} (hop : s.mover.op = some op)
include hop

/-- A word read is kept as the transfer word, and its write is presented (R62). -/
theorem moverReadDone_op (w : Word16) :
    moverReadDone w s = moverCellRequest (.write (op.dstCell s.mover.position) w)
      { s with mover := { s.mover with transfer := some w } } := by
  simp [moverReadDone, hop]

/-- After a MOVER ABORT the step in hand is the last (R65). -/
theorem moverWriteDone_aborting (ha : s.mover.aborting = true) :
    moverWriteDone s = moverEnd .aborted s.stepCounted := by
  simp [moverWriteDone, hop, ha, State.stepCounted]

/-- The operation ends COMPLETE with its last step (R64). -/
theorem moverWriteDone_last (ha : s.mover.aborting = false) (hn : op.nextStep s.mover.position = none) :
    moverWriteDone s = moverEnd .complete s.stepCounted := by
  simp [moverWriteDone, hop, ha, hn, State.stepCounted]

/-- Any other step is followed by the next, whose first request is presented (R62). -/
theorem moverWriteDone_next {i : Nat} (ha : s.mover.aborting = false) (hn : op.nextStep s.mover.position = some i) :
    moverWriteDone s = moverCellRequest (op.firstRequest i)
      { s.stepCounted with mover := { s.stepCounted.mover with position := i } } := by
  simp [moverWriteDone, hop, ha, hn, State.stepCounted]

/-- However the operation goes on, the write of a step counts it and touches the interrupt unit, the mover and the cell port
alone (R62 to R65). -/
theorem moverWriteDone_counts :
    ∃ q m p, moverWriteDone s = { s with irq := q, mover := m, cellPort := p } ∧
      m.mvdone = s.mover.mvdone + 1 ∧ m.transfer = none := by
  rcases ha : s.mover.aborting
  case true => exact ⟨_, _, _, moverWriteDone_aborting hop ha, rfl, rfl⟩
  rcases hn : op.nextStep s.mover.position with _ | i
  · exact ⟨_, _, _, moverWriteDone_last hop ha hn, rfl, rfl⟩
  · exact ⟨_, _, _, moverWriteDone_next hop ha hn, rfl, rfl⟩

end

/-- At the end of an access that was cut loose nothing follows with no operation in hand, and an operation that has started
since presents the request that it had put off (R45, R69). -/
theorem moverAbandonedDone_follows (s : State) :
    ∃ p, moverAbandonedDone s = { s with mover := s.tailCounted.mover, cellPort := p } ∧
      (s.mover.op = none → p = s.cellPort) ∧
      ∀ op, s.mover.op = some op →
        p = { s.cellPort with moverWait := some (op.firstRequest s.mover.position) }.grant := by
  rcases ht : s.mover.tail <;> rcases hop : s.mover.op with _ | op <;>
    simp [moverAbandonedDone, moverResumes, State.tailCounted, moverCellRequest, ht, hop]

/-- The completion of an access that DISPLAY RESET cut loose from the mover: a write stores its cell (R43, R69). -/
theorem cellPortComplete_moverAbandoned {s : State} {r : CellReq}
    (h : s.cellPort.access = some ⟨.mover, r, true⟩) :
    ∃ m, cellPortComplete s = arrayGrant (cellGrant (moverAbandonedDone { freeCellPort s with cells := m })) ∧
      (∀ a, r = .read a → m = s.cells) ∧ ∀ a w, r = .write a w → m = s.cells.writeCell a w := by
  cases r with
  | read a => exact ⟨s.cells, cellPortComplete_read h, by simp, by simp⟩
  | write a w => exact ⟨s.cells.writeCell a w, cellPortComplete_write h, by simp, by simp⟩

/-- Settles O36: the completions of a step's read and write, and of an access that DISPLAY RESET cut loose. -/
theorem moverStepsAreCounted : Obligations.MoverStepsAreCounted := by
  refine ⟨fun s a op hrel hacc hop => ?_, fun s a w op hrel hwf hacc hop => ?_, fun s r hrel hwf hacc => ?_⟩ <;>
    refine ⟨cellPortComplete s, occur_released hrel, ?_⟩
  · rw [cellPortComplete_read hacc, deliverCell_moverRead, moverReadDone_op (s := freeCellPort s) hop]
    simp [MoverOp.dstCell]
  · have hop' : (s.cellStored a w).mover.op = some op := hop
    have hdone : cellPortComplete s = arrayGrant (cellGrant (moverWriteDone (s.cellStored a w))) := by
      rw [cellPortComplete_write hacc, deliverCell_moverWrite]
    obtain ⟨q, m, p, hcount, hmvdone, htransfer⟩ := moverWriteDone_counts hop'
    obtain ⟨hcell, hother⟩ := cell_writeCell (t := cellPortComplete s) (a := a) (w := w) hwf
      (by rw [hdone, hcount]; simp [State.cellStored])
    refine ⟨hcell, hother, ?_, ?_, ?_, ?_, ?_, ?_, ?_, ?_, ?_, fun ha => ?abort, fun ha hlast => ?last,
      fun i ha hnext => ?next⟩
    case abort =>
      rw [hdone, moverWriteDone_aborting hop' ha]
      simp [State.stepCounted, State.cellStored, moverEnd, Mover.finish]
    case last =>
      rw [hdone, moverWriteDone_last hop' ha (nextStep_last hlast)]
      simp [State.stepCounted, State.cellStored, moverEnd, Mover.finish]
    case next =>
      rw [hdone, moverWriteDone_next hop' ha (nextStep_next hnext)]
      cases hk : op.kind <;>
        simp [State.stepCounted, State.cellStored, MoverOp.firstRequest, MoverOp.dstCell, MoverOp.srcCell, hk, hop]
    all_goals rw [hdone, hcount]
    all_goals simp [State.cellStored, hmvdone, htransfer]
  · obtain ⟨m, hdone, hread, hwrite⟩ := cellPortComplete_moverAbandoned hacc
    obtain ⟨p, hfollow, hidle, hresume⟩ := moverAbandonedDone_follows { freeCellPort s with cells := m }
    rw [hdone, hfollow]
    refine ⟨fun a hr => ?_, fun a w hr => ?_, fun ht => ?_, fun ht => ?_, fun hop => ?_, fun op hop => ?_, ?_⟩
    · simpa using hread a hr
    · exact cell_writeCell hwf (by simpa using hwrite a w hr)
    · simp [State.tailCounted, ht]
    · simp [State.tailCounted, ht]
    · simp [hidle hop]
    · cases hk : op.kind <;>
        simp [hresume op hop, MoverOp.firstRequest, MoverOp.dstCell, MoverOp.srcCell, hk]
    · simp

end Sys2Proof.Machine
end

section
/-! SUPPORT. The resolution of a cell: where its slices come from, what its entry samples, what the row loader does next,
and what the array arbiter makes of it (R42, R72 to R76, R79, R84, R91, R92, R95, R97, R107, R108, R110, R111). -/

namespace Sys2Proof.Machine

/-! ## The array arbiter's choice -/

/-- A read may run at any time, a pulse or sub-pulse only while the loader is not LOADING (R108). -/
theorem mayRun_iff (r : StoreReq) (ld : LoaderState) :
    r.mayRun ld = true ↔ (∃ u, r = .read u) ∨ ld ≠ .loading := by
  cases r <;> simp [StoreReq.mayRun]

/-- A read is counted by no operation (R110, R111). -/
theorem map_countGrant_read (u : ArrUnit) (f : Option InFlight) : (f.map fun g => g.countGrant (.read u)) = f := by
  cases f <;> rfl

section
variable {s : State} (hfree : s.arrPort.access = none)
include hfree

/-- The loader's read is granted before any request of the store engine (R108). -/
theorem arrayGrant_loader {g : GlyphRead} (hl : s.arrPort.loaderWait = some g) :
    arrayGrant s = { s with
      arrPort := { s.arrPort with loaderWait := none, access := some (.loader g false) } } := by
  simp [arrayGrant, hfree, hl]

/-- A request of the store engine that waits alone and may run is granted, and its operation counts it (R108, R110, R111). -/
theorem arrayGrant_storeRuns {r : StoreReq} (hl : s.arrPort.loaderWait = none) (hw : s.arrPort.storeWait = some r)
    (hm : r.mayRun s.rows.loader = true) :
    arrayGrant s = { s with
      arrPort := { s.arrPort with storeWait := none, access := some (.store r false) }
      store := { s.store with inFlight := s.store.inFlight.map fun f => f.countGrant r } } := by
  simp [arrayGrant, hfree, hl, hw, hm]

/-- A request of the store engine that may not run goes on waiting (R108). -/
theorem arrayGrant_storeWaits {r : StoreReq} (hl : s.arrPort.loaderWait = none) (hw : s.arrPort.storeWait = some r)
    (hm : ¬r.mayRun s.rows.loader = true) : arrayGrant s = s := by
  simp [arrayGrant, hfree, hl, hw, hm]

end

/-- A grant at a free array port chooses among what waits there as R108 says. -/
theorem arbitrates_arrayGrant {s u : State} {p : ArrayPort} (hp : u.arrPort = p) (hfree : p.access = none)
    (hflight : u.store.inFlight = s.store.inFlight) : s.arbitrates (arrayGrant u) p := by
  subst hp
  rw [State.arbitrates, arrayGrant_rows, ← hflight]
  refine ⟨fun g hl => ?_, fun r hl hw hrun => ?_, fun r hl hw hpulse hload => ?_, fun hl hw => ?_⟩
  · rw [arrayGrant_loader hfree hl]
    exact ⟨rfl, rfl⟩
  · rw [arrayGrant_storeRuns hfree hl hw ((mayRun_iff r _).2 hrun)]
    refine ⟨rfl, ?_, fun v f q hr hf hq => ?_, fun v f e hr hf he => ?_⟩
    · rintro ⟨v, rfl⟩
      exact map_countGrant_read v _
    · simp [hr, hf, InFlight.countGrant, hq]
    · simp [hr, hf, InFlight.countGrant, he]
  · rw [arrayGrant_storeWaits hfree hl hw]
    · exact ⟨rfl, rfl⟩
    · rw [mayRun_iff]
      rintro (⟨v, hr⟩ | hnot)
      · exact hpulse v hr
      · exact hnot hload
  · rw [arrayGrant_idle hl hw]
    exact ⟨rfl, rfl⟩

/-- The loader's read of slices waits behind an access in progress (R107). -/
theorem loaderArrayRead_busy (g : GlyphRead) {s : State} (h : s.arrPort.access.isSome = true) :
    loaderArrayRead g s = { s with arrPort := { s.arrPort with loaderWait := some g } } :=
  arrayGrant_busy h

/-- The loader's read of slices is granted at once by a free port (R108). -/
theorem loaderArrayRead_free (g : GlyphRead) {s : State} (h : s.arrPort.access = none) :
    loaderArrayRead g s = { s with
      arrPort := { s.arrPort with loaderWait := none, access := some (.loader g false) } } :=
  arrayGrant_loader (s := { s with arrPort := { s.arrPort with loaderWait := some g } }) h rfl

@[simp] theorem loaderArrayRead_rows (g : GlyphRead) (s : State) : (loaderArrayRead g s).rows = s.rows := by
  simp [loaderArrayRead]

theorem loaderArrayRead_frame (g : GlyphRead) (s : State) :
    loaderArrayRead g s = { s with arrPort := (loaderArrayRead g s).arrPort } := by
  rcases h : s.arrPort.access with _ | acc
  · rw [loaderArrayRead_free g h]
  · rw [loaderArrayRead_busy g (by simp [h])]

/-! ## Where the slices come from -/

section
variable {s : State} {code : Nat}

/-- The one valid slot that holds a code is found (R95). -/
theorem patchHolder_unique {n : Nat} (hn : n < 16) (hv : s.patchValid.getLsbD n = true)
    (hc : patchCode s.patch n = code)
    (hu : ∀ m, m < 16 → m ≠ n → s.patchValid.getLsbD m = true → patchCode s.patch m ≠ code) :
    s.patchHolder code = some n := by
  have hfound : (s.patchHolder code).isSome = true :=
    List.find?_isSome.2 ⟨n, List.mem_range.2 hn, by simp [hv, hc]⟩
  obtain ⟨m, hm⟩ := Option.isSome_iff_exists.1 hfound
  obtain ⟨hmv, hmc⟩ : s.patchValid.getLsbD m = true ∧ patchCode s.patch m = code := by
    simpa using List.find?_some hm
  have hmn : m = n := by
    by_contra hne
    exact hu m (List.mem_range.1 (List.mem_of_find?_eq_some hm)) hne hmv hmc
  rw [hm, hmn]

/-- A code that no valid slot holds is not patched (R95). -/
theorem patchHolder_none (h : ∀ n, n < 16 → s.patchValid.getLsbD n = true → patchCode s.patch n ≠ code) :
    s.patchHolder code = none :=
  List.find?_eq_none.2 fun n hn => by simpa using h n (List.mem_range.1 hn)

variable (first count : Nat)

/-- A patched code shows the slices of its slot's image (R97). -/
theorem resolveCode_patched {n : Nat} (h : s.patchHolder code = some n) :
    s.resolveCode code first count = .slices (s.patch.readBytes (18 * n + 2 + first) count) := by
  simp [State.resolveCode, h]

/-- A code of logical bank 14 or 15, and any code while the store engine is STARTING, shows a blank glyph (R91, R97). -/
theorem resolveCode_blank (h : s.patchHolder code = none) (hb : 896 ≤ code ∨ s.store.engine = .starting) :
    s.resolveCode code first count = .slices (List.replicate count 0) := by
  by_cases hlow : code / 64 < 14
  · have hs : s.store.engine = .starting := hb.resolve_left (by omega)
    simp [State.resolveCode, h, hs]
  · simp [State.resolveCode, h, hlow]

/-- Any other code is a glyph of the bank that the display map names (R97). -/
theorem resolveCode_stored (h : s.patchHolder code = none) (l : Logical) (hl : l.val = code / 64)
    (hs : s.store.engine ≠ .starting) :
    s.resolveCode code first count = .stored (s.scan.displayMap.get l) (code % 64) := by
  have hlow : code / 64 < 14 := hl ▸ l.isLt
  have hbank : l = ⟨code / 64, hlow⟩ := Fin.ext hl
  subst hbank
  simp [State.resolveCode, h, hlow, hs]

end

/-! ## What the entry samples -/

/-- The cursor marks the cell that it stands on while it is visible (R74, R84). -/
theorem cursorMarkAt_isSome (s : State) (a : CellAddr) :
    (s.cursorMarkAt a).isSome = true ↔ s.ctl.cursty.getLsbD 3 = true ∧ a = s.ctl.curadr.setWidth 12 := by
  unfold State.cursorMarkAt
  split <;> simp_all

/-- The mark carries the blink setting and the style of CURSTY (R74, R84). -/
theorem cursorMarkAt_style {s : State} {a : CellAddr} {m : CursorMark} (h : s.cursorMarkAt a = some m) :
    m.blink = s.ctl.cursty.getLsbD 2 ∧ (s.ctl.cursty.toNat % 4 = 0 → m.style = .block) ∧
      (s.ctl.cursty.toNat % 4 = 1 → m.style = .line) ∧ (s.ctl.cursty.toNat % 4 = 2 → m.style = .bar) := by
  have hm : m = { style := cursorStyle s.ctl.cursty, blink := s.ctl.cursty.getLsbD 2 } := by
    unfold State.cursorMarkAt at h
    split at h <;> simp_all
  subst hm
  refine ⟨rfl, fun hs => ?_, fun hs => ?_, fun hs => ?_⟩ <;> simp [cursorStyle, hs]

/-- What a source makes of the entry that was sampled: its slices at once, or an entry that waits for them (R74). -/
def GlyphSource.entryOf (e : Entry) : GlyphSource → Entry
  | .slices l => { e with state := .complete, slices := l }
  | .stored _ _ => e

/-- Where the slices of a cell word come from, in the descriptor's range of slices (R42, R97). -/
def State.sourceOf (s : State) (d : Descriptor) (w : Word16) : GlyphSource :=
  s.resolveCode (w.toNat % 1024) d.first d.count

/-- The entry that the resolution of a cell word leaves (R74). -/
def State.resolvedEntry (s : State) (d : Descriptor) (a : CellAddr) (w : Word16) : Entry :=
  (s.sourceOf d w).entryOf (s.sampledEntry d a w)

/-- The `RowInst` with its entry in hand resolved (R74). -/
def State.resolvedInst (s : State) (i : RowInst) (wk : Work) (w : Word16) : RowInst :=
  i.putEntry wk.entry (s.resolvedEntry i.desc wk.addr w)

section
variable {s : State} {d : Descriptor} (a : CellAddr) {w : Word16}

/-- Wherever its slices come from, a resolved entry holds what was sampled (R74). -/
theorem resolvedEntry_sampled (s : State) (d : Descriptor) (w : Word16) :
    (s.resolvedEntry d a w).flags = s.attrs.read (2 * attrIndex d w) ∧
      (s.resolvedEntry d a w).uline = (s.attrs.read (2 * attrIndex d w + 1)).toNat % 16 ∧
      (s.resolvedEntry d a w).sline = (s.attrs.read (2 * attrIndex d w + 1)).toNat / 16 ∧
      (s.resolvedEntry d a w).mark = s.cursorMarkAt a := by
  unfold State.resolvedEntry
  cases s.sourceOf d w <;> exact ⟨rfl, rfl, rfl, rfl⟩

theorem resolvedEntry_slices {l : List Byte} (h : s.sourceOf d w = .slices l) :
    (s.resolvedEntry d a w).state = .complete ∧ (s.resolvedEntry d a w).slices = l := by
  rw [State.resolvedEntry, h]
  exact ⟨rfl, rfl⟩

theorem resolvedEntry_stored {b : Bank} {g : Nat} (h : s.sourceOf d w = .stored b g) :
    (s.resolvedEntry d a w).state = .filling := by
  rw [State.resolvedEntry, h]
  rfl

/-- An entry that its resolution completes had its slices at once. -/
theorem slices_of_complete (h : (s.resolvedEntry d a w).state = .complete) : ∃ l, s.sourceOf d w = .slices l := by
  rcases hs : s.sourceOf d w with l | ⟨b, g⟩
  · exact ⟨l, rfl⟩
  · rw [resolvedEntry_stored a hs] at h
    cases h

end

/-! ## What the loader does next -/

/-- The loader's next entry is a matter of the row buffers and the cell port alone. -/
theorem beginEntry_frame (i : RowInst) (j : Nat) (s : State) :
    beginEntry i j s = { s with rows := (beginEntry i j s).rows, cellPort := (beginEntry i j s).cellPort } := by
  unfold beginEntry
  dsimp only
  split <;> rfl

section
variable {i : RowInst} {j : Nat}

/-- With entries left the loader goes on to the next (R76). -/
theorem entryDone_next (h : j + 1 < i.desc.width) (s : State) : entryDone i j s = beginEntry i (j + 1) s := if_pos h

/-- With the last entry complete the loader rests (R76). -/
theorem entryDone_last (h : i.desc.width ≤ j + 1) (s : State) :
    entryDone i j s = loaderRests { s with rows := s.rows.setLoading (some i) } := if_neg (Nat.not_lt.2 h)

/-- Either way the loading buffer holds the `RowInst`, and only the entry after the one in hand may change (R73, R76). -/
theorem entryDone_frame (i : RowInst) (j : Nat) (s : State) :
    ∃ r p, entryDone i j s = { s with rows := r, cellPort := p } ∧ r.displaying = s.rows.displaying ∧
      ∃ i', r.loading = some i' ∧ i'.desc = i.desc ∧ ∀ k, k ≠ j + 1 → i'.entries[k]? = i.entries[k]? := by
  rcases Nat.lt_or_ge (j + 1) i.desc.width with h | h
  · rw [entryDone_next h]
    exact ⟨_, _, beginEntry_frame i (j + 1) s, (loaderSide_beginEntry i (j + 1) s).displaying, _,
      beginEntry_loading i (j + 1) s, rfl, fun k hk => List.getElem?_set_ne (Ne.symm hk)⟩
  · rw [entryDone_last h]
    exact ⟨_, _, rfl, setLoading_displaying _ _, i, setLoading_loading _ _, rfl, fun k _ => rfl⟩

end

/-- The loader works on the next entry, or rests after the last (R72, R76). -/
theorem entryDone_work (i : RowInst) (j : Nat) (s : State) :
    (j + 1 < i.desc.width → (entryDone i j s).rows.loader = .loading ∧
      (entryDone i j s).rows.work.map Work.entry = some (j + 1)) ∧
    (i.desc.width ≤ j + 1 → (entryDone i j s).rows.loader = .resting ∧ (entryDone i j s).rows.work = none) := by
  refine ⟨fun h => ?_, fun h => ?_⟩
  · obtain ⟨hloader, hwork⟩ := beginEntry_work i (j + 1) s
    rw [entryDone_next h, hwork]
    exact ⟨hloader, rfl⟩
  · rw [entryDone_last h]
    exact ⟨rfl, rfl⟩

section
variable {s : State} {wk : Work} {i : RowInst} {w : Word16} (hwork : s.rows.work = some wk)
  (hload : s.rows.loading = some i)
include hwork hload

/-- A cell whose slices are at hand completes its entry (R74, R76). -/
theorem resolveCell_slices {l : List Byte} (h : s.sourceOf i.desc w = .slices l) :
    resolveCell w s = entryDone (s.resolvedInst i wk w) wk.entry s := by
  rw [State.resolvedInst, State.resolvedEntry, h]
  unfold State.sourceOf at h
  simp [resolveCell, hwork, hload, h, GlyphSource.entryOf]

/-- A cell whose glyph is in the array asks for its slices (R74). -/
theorem resolveCell_stored {b : Bank} {g : Nat} (h : s.sourceOf i.desc w = .stored b g) :
    resolveCell w s = loaderArrayRead { bank := b, glyph := g, first := i.desc.first, count := i.desc.count }
      { s with rows := { s.rows.setLoading (some (s.resolvedInst i wk w)) with
          work := some { wk with phase := .arrayRead } } } := by
  rw [State.resolvedInst, State.resolvedEntry, h]
  unfold State.sourceOf at h
  simp [resolveCell, hwork, hload, h, GlyphSource.entryOf]

/-- A resolution puts the resolved entry in its place, and reaches no entry but that and the next, and no state but the row
buffers and the two ports (R73, R74, R76). -/
theorem resolveCell_frame (w : Word16) (hentry : wk.entry < i.entries.length) :
    ∃ r p q, resolveCell w s = { s with rows := r, cellPort := p, arrPort := q } ∧
      r.displaying = s.rows.displaying ∧
      ∃ j, r.loading = some j ∧ j.desc = i.desc ∧
        j.entries[wk.entry]? = some (s.resolvedEntry i.desc wk.addr w) ∧
        ∀ k, k ≠ wk.entry → k ≠ wk.entry + 1 → j.entries[k]? = i.entries[k]? := by
  have hhere : (s.resolvedInst i wk w).entries[wk.entry]? = some (s.resolvedEntry i.desc wk.addr w) :=
    List.getElem?_set_self hentry
  have hthere : ∀ k, k ≠ wk.entry → (s.resolvedInst i wk w).entries[k]? = i.entries[k]? := fun k hk =>
    List.getElem?_set_ne (Ne.symm hk)
  rcases hsrc : s.sourceOf i.desc w with l | ⟨b, g⟩
  · rw [resolveCell_slices hwork hload hsrc]
    obtain ⟨r, p, hdone, hdisp, j, hj, hdesc, hsame⟩ := entryDone_frame (s.resolvedInst i wk w) wk.entry s
    exact ⟨r, p, s.arrPort, hdone, hdisp, j, hj, hdesc, (hsame _ (Nat.ne_of_lt (Nat.lt_succ_self _))).trans hhere,
      fun k hk hk' => (hsame k hk').trans (hthere k hk)⟩
  · rw [resolveCell_stored hwork hload hsrc]
    exact ⟨_, _, _, loaderArrayRead_frame _ _, setLoading_displaying s.rows _, _, setLoading_loading s.rows _, rfl,
      hhere, fun k hk _ => hthere k hk⟩

/-- After a resolution that completes its entry the loader goes on or rests, and the array port is as it was (R76). -/
theorem resolveCell_completes {l : List Byte} (h : s.sourceOf i.desc w = .slices l) :
    (wk.entry + 1 < i.desc.width → (resolveCell w s).rows.loader = .loading ∧
      (resolveCell w s).rows.work.map Work.entry = some (wk.entry + 1)) ∧
    (i.desc.width ≤ wk.entry + 1 → (resolveCell w s).rows.loader = .resting ∧ (resolveCell w s).rows.work = none) ∧
    (resolveCell w s).arrPort = s.arrPort ∧ (resolveCell w s).store = s.store := by
  rw [resolveCell_slices hwork hload h]
  obtain ⟨hnext, hlast⟩ := entryDone_work (s.resolvedInst i wk w) wk.entry s
  refine ⟨hnext, hlast, ?_⟩
  obtain ⟨r, p, hdone, -⟩ := entryDone_frame (s.resolvedInst i wk w) wk.entry s
  rw [hdone]
  exact ⟨rfl, rfl⟩

/-- After any other the loader waits for the slices, whose read a free array port grants at once (R74, R107, R108). -/
theorem resolveCell_asks {b : Bank} {n : Nat} (h : s.sourceOf i.desc w = .stored b n) :
    let g : GlyphRead := { bank := b, glyph := n, first := i.desc.first, count := i.desc.count }
    (resolveCell w s).rows.work = some { wk with phase := .arrayRead } ∧
      (s.arrPort.access = none → (resolveCell w s).arrPort.access = some (.loader g false)) ∧
      (s.arrPort.access.isSome = true → (resolveCell w s).arrPort = { s.arrPort with loaderWait := some g }) := by
  rw [resolveCell_stored hwork hload h]
  refine ⟨by rw [loaderArrayRead_rows], fun hfree => ?_, fun hbusy => ?_⟩
  · rw [loaderArrayRead_free _ (by exact hfree)]
  · rw [loaderArrayRead_busy _ (by exact hbusy)]

end

/-! ## Completions of the loader's cell reads -/

section
variable {s : State} {a : CellAddr}

/-- The completion of the loader's cell read resolves the entry in hand (R43, R74). -/
theorem cellPortComplete_loaderRead (h : s.cellPort.access = some ⟨.rowLoader, .read a, false⟩) :
    cellPortComplete s = arrayGrant (cellGrant (resolveCell (s.cell a) (freeCellPort s))) :=
  cellPortComplete_read h

/-- The completion of a read of an abandoned load resolves nothing (R73, R79). -/
theorem cellPortComplete_loaderAbandoned (h : s.cellPort.access = some ⟨.rowLoader, .read a, true⟩) :
    cellPortComplete s = arrayGrant (cellGrant (loaderResumes (freeCellPort s))) :=
  cellPortComplete_read h

end

/-- After a read of an abandoned load a load that has begun since presents its first request (R73, R79). -/
theorem loaderResumes_follows (s : State) :
    ∃ p, loaderResumes s = { s with cellPort := p } ∧
      (∀ wk, s.rows.loader = .loading → s.rows.work = some wk →
        p = { s.cellPort with loaderWait := some wk.addr }.grant) ∧
      (s.rows.loader ≠ .loading → p = s.cellPort) := by
  unfold loaderResumes
  split
  · rename_i wk hl hw
    refine ⟨_, rfl, fun wk' _ hw' => ?_, fun hne => absurd hl hne⟩
    rw [Option.some.inj (hw.symm.trans hw')]
  · rename_i hno
    exact ⟨_, rfl, fun wk hl hw => (hno wk hl hw).elim, fun _ => rfl⟩

/-- Settles O37: a resolution goes by the source of its slices, and the end of an abandoned read resolves nothing. -/
theorem resolutionFollowsItsOrder : Obligations.ResolutionFollowsItsOrder := by
  refine ⟨fun s a hrel hacc => ?_, fun s a wk i hrel hacc hwork haddr hload hentry => ?_⟩
  · refine ⟨cellPortComplete s, occur_released hrel, ?_⟩
    obtain ⟨p, hfollow, hloading, hquiet⟩ := loaderResumes_follows (freeCellPort s)
    rw [cellPortComplete_loaderAbandoned hacc, hfollow]
    refine ⟨?_, ?_, ?_, ?_, ?_, ?_, ?_, ?_, ?_, fun wk hl hw => ?begun, fun hl => ?quiet⟩
    case begun => simp [hloading wk hl hw]
    case quiet => simp [hquiet hl]
    all_goals simp
  · subst haddr
    intro w code attr
    have hdone : cellPortComplete s = arrayGrant (cellGrant (resolveCell w (freeCellPort s))) :=
      cellPortComplete_loaderRead hacc
    obtain ⟨r, p, q, hframe, hdisp, j, hj, hdesc, hhere, hthere⟩ :=
      resolveCell_frame (s := freeCellPort s) hwork hload w hentry
    obtain ⟨hflags, huline, hsline, hmark⟩ := resolvedEntry_sampled wk.addr s i.desc w
    refine ⟨cellPortComplete s, s.resolvedEntry i.desc wk.addr w, j, occur_released hrel, ?_, hhere, hthere, hdesc, hflags,
      huline, hsline, ?_, fun m hm => cursorMarkAt_style (hmark.symm.trans hm),
      fun n hn hv hc hu => ?_, fun hnone hb => ?_, fun hcomplete => ?_, fun l hnone hl hs => ?_, ?_⟩
    · rw [hdone, hframe]
      simpa using hj
    · rw [hmark]
      exact cursorMarkAt_isSome s wk.addr
    · exact resolvedEntry_slices _ (resolveCode_patched _ _ (patchHolder_unique hn hv hc hu))
    · exact resolvedEntry_slices _ (resolveCode_blank _ _ (patchHolder_none hnone) hb)
    · obtain ⟨l, hsrc⟩ := slices_of_complete _ hcomplete
      obtain ⟨hnext, hlast, harr, hstore⟩ := resolveCell_completes (s := freeCellPort s) hwork hload hsrc
      rw [hdone, arrayGrant_rows, cellGrant_rows]
      refine ⟨hnext, hlast, fun hfree => arbitrates_arrayGrant harr hfree (by rw [cellGrant_store, hstore]; rfl),
        fun hbusy => ?_⟩
      rw [arrayGrant_busy (by rw [cellGrant_arrPort, harr]; exact hbusy)]
      exact harr
    · have hsrc : s.sourceOf i.desc w = .stored (s.scan.displayMap.get l) (code % 64) :=
        resolveCode_stored _ _ (patchHolder_none hnone) l hl hs
      obtain ⟨hphase, hgrant, hwait⟩ := resolveCell_asks (s := freeCellPort s) hwork hload hsrc
      rw [hdone, arrayGrant_rows, cellGrant_rows]
      refine ⟨resolvedEntry_stored _ hsrc, hphase, fun hfree => ?_, fun hbusy => ?_⟩
      · rw [arrayGrant_busy (by rw [cellGrant_arrPort, hgrant hfree]; rfl)]
        exact hgrant hfree
      · rw [arrayGrant_busy (by rw [cellGrant_arrPort, hwait hbusy]; exact hbusy), cellGrant_arrPort, hwait hbusy]
        exact ⟨rfl, rfl⟩
    · rw [hdone, hframe]
      simpa using hdisp

end Sys2Proof.Machine
end

section
/-! SUPPORT. Composition: each effect on a row of dots told by what it does to one dot, and the dots of a line by cell
(R83, R85 to R89). -/

namespace Sys2Proof.Machine

/-! ## Rows of dots -/

/-- The row of `n` dots of which dot `c` is `dot c`. -/
def dotRow (n : Nat) (dot : Nat → Bool) : List Bool := (List.range n).map dot

@[simp] theorem dotRow_length (n : Nat) (dot : Nat → Bool) : (dotRow n dot).length = n := by simp [dotRow]

theorem dotRow_getD {n c : Nat} (dot : Nat → Bool) (h : c < n) : (dotRow n dot).getD c false = dot c := by
  simp [dotRow, h]

/-- The leftmost dots of a slice byte, from bit 7 down (R86). -/
theorem sliceDots_eq (n : Nat) (v : Byte) : sliceDots n v = dotRow n fun c => v.getLsbD (7 - c) := rfl

section
variable (b : Bool) (n : Nat) (dot : Nat → Bool)

theorem applyIf_darken_dotRow : applyIf b darken (dotRow n dot) = dotRow n fun c => !b && dot c := by
  cases b <;> simp [applyIf, darken, dotRow]

theorem applyIf_light_dotRow : applyIf b light (dotRow n dot) = dotRow n fun c => b || dot c := by
  cases b <;> simp [applyIf, light, dotRow]

theorem applyIf_invert_dotRow : applyIf b invert (dotRow n dot) = dotRow n fun c => Bool.xor b (dot c) := by
  cases b <;> simp [applyIf, invert, dotRow]

/-- BLINK in the OFF phase darkens, or with FLASHINV inverts (R87). -/
theorem applyIf_blink_dotRow (on flash : Bool) :
    applyIf (b && !on) (if flash then invert else darken) (dotRow n dot) =
      dotRow n fun c => if b = true ∧ on = false then flash && !dot c else dot c := by
  cases b <;> cases on <;> cases flash <;> simp [applyIf, invert, darken, dotRow]

/-- BOLD looks at the dot to the left as it stood, and the first dot has none (R87). -/
theorem embolden_dotRow : embolden (dotRow n dot) = dotRow n fun c => dot c || (decide (1 ≤ c) && dot (c - 1)) := by
  refine List.ext_getElem (by simp [embolden]) fun c _ _ => ?_
  cases c <;> simp [embolden, dotRow]

theorem applyIf_embolden_dotRow :
    applyIf b embolden (dotRow n dot) = dotRow n fun c => dot c || (b && decide (1 ≤ c) && dot (c - 1)) := by
  cases b
  · simp [applyIf]
  · simp [applyIf, embolden_dotRow]

theorem lightFirst_dotRow : lightFirst (dotRow n dot) = dotRow n fun c => decide (c = 0) || dot c := by
  cases n <;> simp [lightFirst, dotRow, List.range_succ_eq_map]

end

/-! ## The cursor -/

/-- The cursor is not left out: neither NOCURSOR nor the OFF phase of a blinking mark takes it away (R88). -/
theorem cursorStays_iff (noCursor blink on : Bool) :
    (noCursor || (blink && !on)) = false ↔ noCursor = false ∧ (blink = false ∨ on = true) := by
  cases blink <;> simp

section
variable {d : Descriptor} {e : Entry} {blinkOn : Bool} {slice : Nat} {m : CursorMark} (hm : e.mark = some m)
include hm

theorem cursorEffect_leftOut (h : ¬(e.flags.getLsbD 7 = false ∧ (m.blink = false ∨ blinkOn = true))) (l : List Bool) :
    cursorEffect d e blinkOn slice l = l := by
  rw [← cursorStays_iff, Bool.not_eq_false] at h
  simp only [cursorEffect, hm, h, if_true]

/-- A cursor that stays inverts the cell, underlines it in the last displayed slice, or lights its first dot (R88). -/
theorem cursorEffect_stays (h : e.flags.getLsbD 7 = false ∧ (m.blink = false ∨ blinkOn = true)) (n : Nat)
    (dot : Nat → Bool) :
    cursorEffect d e blinkOn slice (dotRow n dot) = dotRow n fun c =>
      match m.style with
      | .block => !dot c
      | .line => d.lastSlice slice || dot c
      | .bar => decide (c = 0) || dot c := by
  rw [← cursorStays_iff] at h
  simp only [cursorEffect, hm, h]
  cases m.style
  · simp [invert, dotRow]
  · exact applyIf_light_dotRow _ _ _
  · exact lightFirst_dotRow _ _

end

/-- With or without a cursor a row keeps its number of dots. -/
theorem cursorEffect_length (d : Descriptor) (e : Entry) (blinkOn : Bool) (slice n : Nat) (dot : Nat → Bool) :
    (cursorEffect d e blinkOn slice (dotRow n dot)).length = n := by
  rcases hm : e.mark with _ | m
  · simp [cursorEffect, hm]
  · by_cases h : e.flags.getLsbD 7 = false ∧ (m.blink = false ∨ blinkOn = true)
    · rw [cursorEffect_stays hm h, dotRow_length]
    · rw [cursorEffect_leftOut hm h, dotRow_length]

/-! ## The dots of a cell -/

section
variable {e : Entry} (cellw slice : Nat) (d : Descriptor) (blinkOn : Bool)

/-- An entry that is not COMPLETE is dark (R86). -/
theorem cellDots_incomplete (h : e.state ≠ .complete) :
    cellDots cellw d blinkOn slice e = List.replicate cellw false := if_neg h

theorem cellDots_complete (h : e.state = .complete) :
    cellDots cellw d blinkOn slice e = cursorEffect d e blinkOn slice
      (rowEffects d slice (attrEffects e blinkOn slice (sliceDots cellw (byteAt e.slices (slice - d.first))))) :=
  if_pos h

end

/-- A HIDE `RowInst` is dark in every dot of its lines (R83). -/
theorem lineDots_hide {i : RowInst} (cfg : FrameCfg) (blinkOn : Bool) (slice : Nat) (h : i.desc.hide = true) :
    lineDots cfg blinkOn i slice = List.replicate cfg.panelw.toNat false := if_pos h

/-- Settles O25: the cell told dot by dot in the order of effects, then its cursor, and the dark lines of HIDE. -/
theorem cellDotsFollowTheirOrder : Obligations.CellDotsFollowTheirOrder := by
  refine ⟨fun cellw slice d blinkOn e h => cellDots_incomplete cellw slice d blinkOn h,
    fun cellw slice d blinkOn e h => ?_, fun cfg blinkOn i slice h => lineDots_hide cfg blinkOn slice h⟩
  intro lastSlice glyph conceal blink underline strike bold reverse revRow underRow cursor
  have hrow : cellDots cellw d blinkOn slice e = cursorEffect d e blinkOn slice (dotRow cellw underRow) := by
    rw [cellDots_complete _ _ _ _ h, sliceDots_eq, attrEffects, applyIf_darken_dotRow, applyIf_blink_dotRow,
      applyIf_light_dotRow, applyIf_light_dotRow, applyIf_embolden_dotRow, applyIf_invert_dotRow, rowEffects,
      applyIf_invert_dotRow, applyIf_light_dotRow]
    rfl
  rw [hrow]
  refine ⟨cursorEffect_length _ _ _ _ _ _, fun c hc => ⟨fun hm => ?_, fun m hm => ?_⟩⟩
  · rw [cursorEffect, hm]
    exact dotRow_getD _ hc
  · split
    next hstays =>
      rw [cursorEffect_stays hm hstays]
      exact dotRow_getD _ hc
    next hout =>
      rw [cursorEffect_leftOut hm hout]
      exact dotRow_getD _ hc

/-- Whatever the state of its entry, a cell has CELLW dots (R86). -/
theorem cellDots_length (cellw slice : Nat) (d : Descriptor) (blinkOn : Bool) (e : Entry) :
    (cellDots cellw d blinkOn slice e).length = cellw := by
  obtain ⟨-, hcomplete, -⟩ := cellDotsFollowTheirOrder
  by_cases h : e.state = .complete
  · exact (hcomplete cellw slice d blinkOn e h).left
  · simp [cellDots_incomplete _ _ _ _ h]

/-! ## The dots of a line -/

/-- In rows of `w` items set end to end, item `c` is item `c % w` of row `c / w`. -/
theorem getD_flatMap_rows {α β : Type} {f : α → List β} {w : Nat} (hw : ∀ a, (f a).length = w) (x : α) (y : β)
    (l : List α) (c : Nat) :
    (l.flatMap f).getD c y = if c < l.length * w then (f (l.getD (c / w) x)).getD (c % w) y else y := by
  induction l generalizing c with
  | nil => simp
  | cons a l ih =>
    rw [List.flatMap_cons, List.length_cons, Nat.add_one_mul]
    rcases Nat.lt_or_ge c w with hc | hc
    · rw [List.getD_append _ _ _ _ (by rwa [hw]), if_pos (by omega), Nat.div_eq_of_lt hc, Nat.mod_eq_of_lt hc]
      rfl
    · obtain ⟨k, rfl⟩ := Nat.exists_eq_add_of_le hc
      rw [List.getD_append_right _ _ _ _ (by rwa [hw]), hw, Nat.add_sub_cancel_left, ih]
      rcases Nat.eq_zero_or_pos w with rfl | hpos
      · simp
      · rw [Nat.add_div_left k hpos, Nat.add_mod_left, List.getD_cons_succ]
        exact if_congr (by omega) rfl rfl

/-- Settles O16: a line takes its dots from the stream of its cells, each CELLW dots wide. -/
theorem panelDotsFollowTheDotStream : Obligations.PanelDotsFollowTheDotStream := by
  intro cfg blinkOn i slice hhide hwidth
  have hline : lineDots cfg blinkOn i slice = dotRow cfg.panelw.toNat fun x =>
      (dotStream cfg.cellw.toNat i blinkOn slice).getD (i.pan + if i.desc.wide then x / 2 else x) false := by
    rw [lineDots, if_neg (by simp [hhide])]
    rfl
  rw [hline, ← hwidth]
  refine ⟨dotRow_length _ _, fun x hx => ?_⟩
  rw [dotRow_getD _ hx]
  exact getD_flatMap_rows (cellDots_length _ _ _ _) Entry.blank false i.entries _

end Sys2Proof.Machine
end

section
/-! SUPPORT. Completions of reads at the array port: what each claimant makes of its bytes, what an abandoned read
leaves, and the request or the grant that follows (R73, R76, R79, R81, R105 to R108, R115, R134, R135, R149, R150; log
entry 8). -/

namespace Sys2Proof.Machine

/-! ## Who takes the read -/

section
variable {s : State}

/-- A wanted read of the loader is delivered on the free port: its slices are stored (R76, R106). -/
theorem arrayReadComplete_loader {g : GlyphRead} (h : s.arrPort.access = some (.loader g false)) :
    arrayReadComplete s = arrayGrant (storeSlices (s.glyphSlices g.bank g.glyph g.first g.count) s.portFree) := by
  rw [arrayReadComplete, h]
  rfl

/-- An abandoned read of the loader delivers nothing (R73, R79, R81). -/
theorem arrayReadComplete_loaderAbandoned {g : GlyphRead} (h : s.arrPort.access = some (.loader g true)) :
    arrayReadComplete s = arrayGrant (loaderResumes s.portFree) := by
  rw [arrayReadComplete, h]
  rfl

/-- A read of the start-up scan is delivered on the free port (R149, R150). -/
theorem arrayReadComplete_scan {u : ArrUnit} {p : ScanProgress}
    (h : s.arrPort.access = some (.store (.read u) false)) (hp : s.store.scan = some p) :
    arrayReadComplete s = arrayGrant (scanRead p (s.rawBytes u) s.portFree) := by
  have hp' : (freeArrayPort s).store.scan = some p := hp
  simp only [arrayReadComplete, h, storeReadDone, hp']
  rfl

/-- A discarded read of the store engine delivers nothing (R107, R115). -/
theorem arrayReadComplete_storeAbandoned {u : ArrUnit} (h : s.arrPort.access = some (.store (.read u) true)) :
    arrayReadComplete s = arrayGrant (presentDeferred s.portFree) := by
  rw [arrayReadComplete, h]
  rfl

/-- The slices of a glyph by their places in the array, inverted (R104, R105). -/
theorem glyphSlices_eq (b : Bank) (g first count : Nat) :
    s.glyphSlices b g first count =
      (List.range count).map fun k => ~~~(s.array.read (1028 * b.val + 16 * g + first + k)) := by
  simp [State.glyphSlices, Memory.readBytes, ArrUnit.base, EraseUnit.base, bankBytes, Nat.mul_comm]

/-- The image of a whole glyph in host polarity (R105). -/
theorem rawBytes_glyph_inverted (b : Bank) (g : Nat) :
    ((s.rawBytes (.glyph b g)).map fun v => ~~~v) =
      (List.range 16).map fun k => ~~~(s.array.read (1028 * b.val + 16 * g + k)) := by
  have h := glyphSlices_eq (s := s) b g 0 16
  rwa [State.glyphSlices, Nat.add_zero] at h

end

/-! ## The row loader -/

/-- With the array port free, an access of the loader in progress can only be at the cell port (R73). -/
theorem portFree_loaderAccess {s : State} (h : s.cellPort.access.map CellAccess.who ≠ some .rowLoader) :
    s.portFree.loaderAccess = false := by
  rcases ha : s.cellPort.access with _ | acc <;> simp_all [State.loaderAccess, State.portFree]

/-- The entry that takes the slices of its array read (R76). -/
def Entry.completed (e : Entry) (l : List Byte) : Entry := { e with state := .complete, slices := l }

section
variable {s : State} {wk : Work} {i : RowInst} {e : Entry} (hwork : s.rows.work = some wk)
  (hload : s.rows.loading = some i) (he : i.entries[wk.entry]? = some e) (l : List Byte)
include hwork hload he

/-- The slices of the entry in hand are stored, and the loader moves on (R76). -/
theorem storeSlices_eq : storeSlices l s = entryDone (i.putEntry wk.entry (e.completed l)) wk.entry s := by
  have hin : i.entries.getD wk.entry Entry.blank = e := by simp [he]
  simp only [storeSlices, hwork, hload, hin]
  rfl

/-- The slices reach the entry in hand, and no other entry but the next, and no state but the row buffers and the cell
port (R73, R76). -/
theorem storeSlices_frame :
    ∃ r p, storeSlices l s = { s with rows := r, cellPort := p } ∧ r.displaying = s.rows.displaying ∧
      ∃ j, r.loading = some j ∧ j.entries[wk.entry]? = some (e.completed l) ∧
        ∀ k, k ≠ wk.entry → k ≠ wk.entry + 1 → j.entries[k]? = i.entries[k]? := by
  obtain ⟨r, p, hdone, hdisp, j, hj, -, hsame⟩ := entryDone_frame (i.putEntry wk.entry (e.completed l)) wk.entry s
  obtain ⟨hin, -⟩ := List.getElem?_eq_some_iff.1 he
  rw [storeSlices_eq hwork hload he]
  exact ⟨r, p, hdone, hdisp, j, hj,
    (hsame _ (Nat.ne_of_lt (Nat.lt_succ_self _))).trans (List.getElem?_set_self hin),
    fun k hk hk' => (hsame k hk').trans (List.getElem?_set_ne (Ne.symm hk))⟩

/-- With entries left the loader goes on to the next, and asks for its cell unless an access of it is in progress (R73,
R76). -/
theorem storeSlices_next (h : wk.entry + 1 < i.desc.width) :
    (storeSlices l s).rows.loader = .loading ∧
      (storeSlices l s).rows.work =
        some { entry := wk.entry + 1, addr := i.addrs.getD (wk.entry + 1) 0, phase := .cellRead } ∧
      (s.loaderAccess = false → (storeSlices l s).cellPort =
        { s.cellPort with loaderWait := some (i.addrs.getD (wk.entry + 1) 0) }.grant) := by
  rw [storeSlices_eq hwork hload he, entryDone_next (i := i.putEntry wk.entry (e.completed l)) h]
  obtain ⟨hloader, hnext⟩ := beginEntry_work (i.putEntry wk.entry (e.completed l)) (wk.entry + 1) s
  refine ⟨hloader, hnext, fun hquiet => ?_⟩
  rw [beginEntry_cellPort, hquiet]
  rfl

/-- After the last entry the loader rests (R72, R76). -/
theorem storeSlices_last (h : i.desc.width ≤ wk.entry + 1) :
    (storeSlices l s).rows.loader = .resting ∧ (storeSlices l s).rows.work = none ∧
      (storeSlices l s).cellPort = s.cellPort := by
  rw [storeSlices_eq hwork hload he, entryDone_last (i := i.putEntry wk.entry (e.completed l)) h]
  exact ⟨rfl, rfl, rfl⟩

end

/-! ## The store engine -/

section
variable {s t : State}

/-- A request presented on the free port leaves a waiting read of the loader granted (R108). -/
theorem presents_loaderFirst {r : StoreReq} {g : GlyphRead} (h : s.portFree.presents t r)
    (hg : s.arrPort.loaderWait = some g) : t.arrPort.access = some (.loader g false) := by
  obtain ⟨-, -, -, hloader, -⟩ := h
  rw [hloader g rfl hg]

/-- A request changes of the store only the counts of the command in flight and what the engine has put off. -/
theorem storeRequest_kept (r : StoreReq) (s : State) :
    (storeRequest r s).store.results = s.store.results ∧ (storeRequest r s).store.queue = s.store.queue ∧
      s.store.SameRest (storeRequest r s).store := by
  rcases hb : s.storeBusy with _ | _
  · obtain ⟨g, hg, -⟩ := arrayGrant_store { s with arrPort := { s.arrPort with storeWait := some r } }
    rw [storeRequest_free r hb, hg]
    exact ⟨rfl, rfl, by constructor <;> rfl⟩
  · rw [storeRequest_busy r hb]
    exact ⟨rfl, rfl, by constructor <;> rfl⟩

/-- With nothing put off, a discarded read of the store engine leaves nothing (R115). -/
theorem presentDeferred_none (h : s.store.deferred = none) : presentDeferred s = s := by rw [presentDeferred, h]

/-- A request that was put off is presented, a pulse or sub-pulse only with LOWV# high (R107, R114). -/
theorem presentDeferred_some {r : StoreReq} (h : s.store.deferred = some r)
    (hrun : (∃ v, r = .read v) ∨ s.part.lowv = false) :
    presentDeferred s = storeRequest r { s with store := { s.store with deferred := none } } := by
  rw [presentDeferred, h]
  cases r
  case read => rfl
  all_goals
    have hl : s.part.lowv = false := hrun.resolve_left (by simp)
    simp [presentPulse, hl]

/-- A command that ends DONE on the free port: its end is told, the loader's waiting read is granted, and the banks, the
staging and the array are as they were (R108, R123). -/
theorem arrayGrant_endDone {f : InFlight} (p : Option Bank) (d c : Word16) (l : List Byte)
    (hf : s.store.inFlight = some f) (ho : s.svc.outstanding = none) :
    let t := arrayGrant (endDone p d c l s.portFree)
    s.completes t f p d c l ∧ (∀ g, s.arrPort.loaderWait = some g → t.arrPort.access = some (.loader g false)) ∧
      t.array = s.array ∧ t.store.staging = s.store.staging ∧ t.store.roles = s.store.roles := by
  intro t
  obtain ⟨hrest, -, hport⟩ := endDone_sameRest (s := s.portFree) p d c l hf ho
  obtain ⟨g, hstore, -⟩ := arrayGrant_store (endDone p d c l s.portFree)
  refine ⟨((endDone_completes (s := s.portFree) p d c l hf ho).from rfl rfl).grant, fun g hg => ?_, ?_, ?_, ?_⟩
  · have hwait : (endDone p d c l s.portFree).arrPort.loaderWait = some g := by rw [hport]; exact hg
    exact congrArg (·.arrPort.access) (arrayGrant_loader (by rw [hport]; rfl) hwait)
  · exact (arrayGrant_array _).trans (storeSide_endDone p d c l s.portFree).array
  · rw [hstore]
    exact hrest.staging
  · rw [hstore]
    exact hrest.roles

end

/-! ## The reads of READGLYPH and CHECK -/

section
variable {f : InFlight} {b : Bank} (hprog : f.prog = none) (herase : f.erase = none) (raw : List Byte) (s : State)
include hprog herase

/-- The read of READGLYPH ends it with the image (R134). -/
theorem flightRead_reading (hstage : f.stage = .reading b) :
    flightRead f raw s = endDone (some b) 0 0 (raw.map fun v => ~~~v) s := by
  rw [flightRead, hprog, herase, hstage]

/-- A read of CHECK is summed (R135). -/
theorem flightRead_summing {i : Nat} {sum : Word16} (hstage : f.stage = .summing b i sum) :
    flightRead f raw s = checkRead b i sum raw s := by
  rw [flightRead, hprog, herase, hstage]

end

/-- The sum of the words that `2 * n` bytes make, as a running total (R135). -/
theorem foldl_word16_eq_wordSum (n : Nat) (raw : Nat → Byte) (sum : Word16) :
    (List.range n).foldl (fun acc k => acc + word16 (raw (2 * k + 1)) (raw (2 * k))) sum =
      sum + wordSum ((List.range (2 * n)).map raw) := by
  induction n generalizing raw sum with
  | zero => simp [wordSum]
  | succ n ih =>
    have hrest := ih (fun k => raw (k + 2)) (sum + word16 (raw 1) (raw 0))
    rw [List.range_succ_eq_map, List.foldl_cons, List.foldl_map, show 2 * (n + 1) = 2 * n + 1 + 1 by omega,
      List.range_succ_eq_map, List.range_succ_eq_map]
    simp only [List.map_cons, List.map_map, wordSum, ← BitVec.add_assoc]
    exact hrest

section
variable {b : Bank} {i : Nat} {sum : Word16} {raw : List Byte} (s : State)

/-- After the last glyph CHECK completes with its sum (R135). -/
theorem checkRead_last (h : 63 ≤ i) :
    checkRead b i sum raw s = endDone (some b) 0 (sum + wordSum (raw.map fun v => ~~~v)) noImage s :=
  if_neg (by omega)

/-- After any other CHECK asks for the next glyph (R135). -/
theorem checkRead_next (h : i < 63) :
    checkRead b i sum raw s = storeRequest (.read (.glyph b (i + 1))) (s.withFlight fun f =>
      { f with stage := .summing b (i + 1) (sum + wordSum (raw.map fun v => ~~~v)) }) :=
  if_pos (by omega)

end

/-! ## The start-up scan -/

/-- The scan with the bytes of its read taken, before it presents the next (R149, R150). -/
def State.scanTakes (s : State) (p : ScanProgress) (raw : List Byte) : State :=
  { s with store := { s.store with scan := some (p.take raw) } }

section
variable (p : ScanProgress) (raw : List Byte) (s : State)

/-- With units left to read the scan presents the next (R149, R150). -/
theorem scanRead_next {u : ArrUnit} (h : (p.take raw).nextUnit = some u) :
    scanRead p raw s = storeRequest (.read u) (s.scanTakes p raw) := by
  simp only [scanRead, h]
  rfl

/-- With every unit read the scan presents nothing (R152). -/
theorem scanRead_over (h : (p.take raw).nextUnit = none) : scanRead p raw s = s.scanTakes p raw := by
  simp only [scanRead, h]
  rfl

/-- The next unit of the scan is presented as R107 and R108 say. -/
theorem presents_scanRead {u : ArrUnit} (h : (p.take raw).nextUnit = some u) :
    s.presents (arrayGrant (scanRead p raw s)) (.read u) := by
  rw [scanRead_next p raw s h, arrayGrant_storeRequest]
  exact (presents_storeRequest _ _).from rfl rfl rfl

/-- Whether or not the scan goes on, it has taken the bytes, and the engine is as it was (R149, R150). -/
theorem arrayGrant_scanRead_store :
    (arrayGrant (scanRead p raw s)).store.scan = some (p.take raw) ∧
      (arrayGrant (scanRead p raw s)).store.engine = s.store.engine := by
  rcases h : (p.take raw).nextUnit with _ | u
  · obtain ⟨g, hg, -⟩ := arrayGrant_store (s.scanTakes p raw)
    rw [scanRead_over p raw s h, hg]
    exact ⟨rfl, rfl⟩
  · rw [scanRead_next p raw s h, arrayGrant_storeRequest, storeRequest_read_store]
    exact ⟨rfl, rfl⟩

/-- A waiting read of the loader is granted at the scan's completion, whether or not the scan goes on (R108). -/
theorem arrayGrant_scanRead_loader {g : GlyphRead} (hg : s.arrPort.loaderWait = some g) :
    (arrayGrant (scanRead p raw s.portFree)).arrPort.access = some (.loader g false) := by
  rcases h : (p.take raw).nextUnit with _ | u
  · rw [scanRead_over p raw _ h, arrayGrant_loader (s := s.portFree.scanTakes p raw) rfl hg]
  · exact presents_loaderFirst (presents_scanRead p raw _ h) hg

theorem scanRead_array : (scanRead p raw s).array = s.array := by
  rcases h : (p.take raw).nextUnit with _ | u
  · rw [scanRead_over p raw s h]
    rfl
  · rw [scanRead_next p raw s h]
    exact (storeSide_storeRequest _ _).array

end

section
variable {p : ScanProgress} (raw : List Byte)

theorem take_slot (h : p.slots.length < 16) : p.take raw = { p with slots := p.slots ++ [classify raw] } := if_pos h

theorem take_header (h : 16 ≤ p.slots.length) : p.take raw = { p with headers := p.headers ++ [headerCount raw] } :=
  if_neg (Nat.not_lt.2 h)

/-- The slots of area A and then of area B are read in turn (R149). -/
theorem nextUnit_take_slot {n : Nat} (hn : n = p.slots.length + 1) (hlt : n < 16) :
    (p.take raw).nextUnit = some (.slot (if n < 8 then .a else .b) (n % 8)) := by
  subst hn
  rw [take_slot raw (by omega)]
  simp [ScanProgress.nextUnit, areaOf, hlt]

/-- After the last slot comes the first header (R150). -/
theorem nextUnit_take_lastSlot (hs : p.slots.length = 15) (hh : p.headers = []) :
    (p.take raw).nextUnit = some (.header 0) := by
  rw [take_slot raw (by omega)]
  simp [ScanProgress.nextUnit, hs, hh]

/-- The headers are read in the order of the banks (R150). -/
theorem nextUnit_take_header {b : Bank} (hs : p.slots.length = 16) (hb : b.val = p.headers.length + 1) :
    (p.take raw).nextUnit = some (.header b) := by
  rw [take_header raw (by omega)]
  have hlt : p.headers.length + 1 < 16 := hb ▸ b.isLt
  have hbank : Fin.ofNat 16 (p.headers.length + 1) = b := Fin.ext ((Nat.mod_eq_of_lt hlt).trans hb.symm)
  simpa [ScanProgress.nextUnit, hs, hlt] using hbank

end

/-- Settles O38: the delivery of each read to its claimant, and what is presented or granted after it. -/
theorem arrayReadsAreDelivered : Obligations.ArrayReadsAreDelivered := by
  refine ⟨fun s g wk i e hrel hacc hwork hload he => ?slices, fun s g hrel hacc => ?loaderAbandoned,
    fun s f b c g hrel hacc hscan hf hprog herase hstage ho => ?image,
    fun s f b c g i sum hrel hacc hscan hf hprog herase hstage ho => ?sum, fun s u p hrel hacc hp => ?scan,
    fun s u hrel hacc hnone => ?discarded, fun s u r hrel hacc hr hrun => ?putOff⟩
  case slices =>
    let l := s.glyphSlices g.bank g.glyph g.first g.count
    obtain ⟨r, p, hstore, hdisp, j, hj, hhere, hthere⟩ := storeSlices_frame (s := s.portFree) hwork hload he l
    refine ⟨arrayReadComplete s, j, occur_released hrel, ?_⟩
    rw [arrayReadComplete_loader hacc, ← glyphSlices_eq, arrayGrant_rows, arrayGrant_cellPort, arrayGrant_array,
      arrayGrant_scan, arrayGrant_win, arrayGrant_irq]
    refine ⟨by rw [hstore]; exact hj, hhere, hthere, fun hnext => ?_,
      storeSlices_last (s := s.portFree) hwork hload he l,
      arbitrates_arrayGrant (by rw [hstore]) rfl (by rw [hstore]; rfl), ?_⟩
    · obtain ⟨hloader, hwk, hasks⟩ := storeSlices_next (s := s.portFree) hwork hload he l hnext
      exact ⟨hloader, hwk, fun hquiet => hasks (portFree_loaderAccess hquiet)⟩
    · rw [hstore]
      exact ⟨hdisp, rfl, rfl, rfl, rfl⟩
  case loaderAbandoned =>
    obtain ⟨p, hfollow, hloading, hquiet⟩ := loaderResumes_follows s.portFree
    refine ⟨arrayReadComplete s, occur_released hrel, ?_⟩
    rw [arrayReadComplete_loaderAbandoned hacc, hfollow, arrayGrant_rows, arrayGrant_array, arrayGrant_scan,
      arrayGrant_win, arrayGrant_irq, arrayGrant_cells, arrayGrant_cellPort]
    exact ⟨rfl, rfl, rfl, rfl, rfl, rfl, arbitrates_arrayGrant rfl rfl rfl, hloading, hquiet⟩
  case image =>
    refine ⟨arrayReadComplete s, occur_released hrel, ?_⟩
    rw [arrayReadComplete_flight hacc hscan hf, flightRead_reading hprog herase _ _ hstage, rawBytes_glyph_inverted]
    exact arrayGrant_endDone _ _ _ _ hf ho
  case sum =>
    intro raw total
    have htotal : sum + wordSum ((s.rawBytes (.glyph b g)).map fun v => ~~~v) = total := by
      rw [rawBytes_glyph_inverted]
      exact (foldl_word16_eq_wordSum 8 raw sum).symm
    refine ⟨arrayReadComplete s, occur_released hrel, ?_⟩
    rw [arrayReadComplete_flight hacc hscan hf, flightRead_summing hprog herase _ _ hstage]
    rcases Nat.lt_or_ge i 63 with hi | hi
    · rw [checkRead_next _ hi, htotal, arrayGrant_storeRequest]
      have hpres : s.portFree.presents _ (.read (.glyph c (i + 1))) :=
        (presents_storeRequest _ (s.portFree.withFlight fun f => { f with stage := .summing c (i + 1) total })).from
          rfl rfl rfl
      refine ⟨fun hle => absurd hi (Nat.not_lt.2 hle), fun _ => ⟨hpres, ?_⟩, fun r hr => presents_loaderFirst hpres hr,
        (storeSide_storeRequest _ _).array⟩
      rw [storeRequest_read_store]
      exact ⟨congrArg (Option.map _) hf, rfl⟩
    · rw [checkRead_last _ hi, htotal]
      obtain ⟨hdone, hloader, harray, -⟩ := arrayGrant_endDone (s := s) (some c) 0 total noImage hf ho
      exact ⟨fun _ => hdone, fun hlt => absurd hlt (Nat.not_lt.2 hi), hloader, harray⟩
  case scan =>
    obtain ⟨hscan, hengine⟩ := arrayGrant_scanRead_store p (s.rawBytes u) s.portFree
    refine ⟨arrayReadComplete s, occur_released hrel, ?_⟩
    rw [arrayReadComplete_scan hacc hp, hscan]
    exact ⟨(arrayGrant_array _).trans (scanRead_array p _ s.portFree), hengine,
      fun h => congrArg some (take_slot _ h), fun h => congrArg some (take_header _ h),
      fun n hn hlt => presents_scanRead p _ _ (nextUnit_take_slot _ hn hlt),
      fun hs hh => presents_scanRead p _ _ (nextUnit_take_lastSlot _ hs hh),
      fun b hs hb => presents_scanRead p _ _ (nextUnit_take_header _ hs hb),
      fun r hr => arrayGrant_scanRead_loader p _ s hr⟩
  case discarded =>
    obtain ⟨g, hg, -⟩ := arrayGrant_store s.portFree
    refine ⟨arrayReadComplete s, occur_released hrel, ?_⟩
    rw [arrayReadComplete_storeAbandoned hacc, presentDeferred_none (s := s.portFree) hnone, hg]
    exact ⟨arrayGrant_array _, rfl, rfl, rfl, rfl, rfl, hnone, arrayGrant_rows _, arrayGrant_cellPort _,
      arbitrates_arrayGrant rfl rfl rfl⟩
  case putOff =>
    obtain ⟨hresults, hqueue, hrest⟩ :=
      storeRequest_kept r { s.portFree with store := { s.store with deferred := none } }
    refine ⟨arrayReadComplete s, occur_released hrel, ?_⟩
    rw [arrayReadComplete_storeAbandoned hacc, presentDeferred_some (s := s.portFree) hr hrun, arrayGrant_storeRequest]
    exact ⟨presents_storeRequest _ _, (storeSide_storeRequest _ _).array, hresults, hqueue, hrest.scan, hrest.staging,
      hrest.roles, (storeSide_storeRequest _ _).rows⟩

end Sys2Proof.Machine
end

section
/-! SUPPORT. The memories, the patch table and the bank roles: what an operation has to keep for the two invariants about
them, and the work that keeps all of it, which is everything but the patch writes, RESET#, and the store engine's own
operations (R94, R99, R100, R116, R125). -/

namespace Sys2Proof.Machine

/-! ## What is kept -/

/-- `t` has the memories as `s` has them but for writes that keep the canonical form, and the same patch table. -/
structure MemoriesKept (s t : State) : Prop where
  cells : s.cells.wf = true → t.cells.wf = true
  descs : s.descs.wf = true → t.descs.wf = true
  attrs : s.attrs.wf = true → t.attrs.wf = true
  array : s.array.wf = true → t.array.wf = true
  patch : t.patch = s.patch
  patchValid : t.patchValid = s.patchValid

/-- The bank role table of a state agrees with its maps and its staging record. -/
abbrev State.banksAgree (s : State) : Prop := s.store.tableAgrees s.scan.displayMap

/-- What the bank roles have to do with a command in flight: what it is doing, its body and the unit that it erases. -/
def InFlight.business (f : InFlight) : CmdStage × CmdBody × Option EraseUnit :=
  (f.stage, f.entry.body, f.erase.map EraseOp.target)

/-- `t` comes from `s` by work that leaves the bank roles consistent: the table still agrees, no staging opens, a dirty
spare stays one, and the command in flight goes on with the same business or has only just started. -/
structure BanksKept (s t : State) : Prop where
  held : t.part.resetHeld = s.part.resetHeld
  scan : t.store.scan = s.store.scan
  starting : t.store.engine = .starting ↔ s.store.engine = .starting
  closed : s.store.staging = none → t.store.staging = none
  table : s.banksAgree → t.banksAgree
  dirty : ∀ b : Bank, (s.store.roles.get b).role = .spareDirty → (t.store.roles.get b).role = .spareDirty
  flight : ∀ f, t.store.inFlight = some f →
    (t.store.engine ≠ .starting ∧ f.stage = .fresh ∧ f.erase = none) ∨
      ∃ g, s.store.inFlight = some g ∧ f.business = g.business

/-- `t` comes from `s` by work that disturbs neither the memories nor the banks. -/
structure Undisturbed (s t : State) : Prop where
  memories : MemoriesKept s t
  banks : BanksKept s t

/-! ## Memories -/

theorem MemoriesKept.of_eq {s t : State} (hc : t.cells = s.cells) (hd : t.descs = s.descs) (ha : t.attrs = s.attrs)
    (hr : t.array = s.array) (hp : t.patch = s.patch) (hv : t.patchValid = s.patchValid) : MemoriesKept s t :=
  ⟨by rw [hc]; exact id, by rw [hd]; exact id, by rw [ha]; exact id, by rw [hr]; exact id, hp, hv⟩

theorem MemoriesKept.refl (s : State) : MemoriesKept s s := .of_eq rfl rfl rfl rfl rfl rfl

theorem MemoriesKept.trans {s t u : State} (h : MemoriesKept s t) (k : MemoriesKept t u) : MemoriesKept s u :=
  ⟨k.cells ∘ h.cells, k.descs ∘ h.descs, k.attrs ∘ h.attrs, k.array ∘ h.array, k.patch.trans h.patch,
    k.patchValid.trans h.patchValid⟩

/-- The store engine's work writes no memory. -/
theorem StoreSide.memoriesKept {s t : State} (h : StoreSide s t) : MemoriesKept s t :=
  .of_eq h.cells h.descs h.attrs h.array h.patch h.patchValid

/-! ## Banks -/

theorem InFlight.business_eq_iff {f g : InFlight} : f.business = g.business ↔
    f.stage = g.stage ∧ f.entry.body = g.entry.body ∧ f.erase.map EraseOp.target = g.erase.map EraseOp.target := by
  simp [InFlight.business]

/-- A command that erases nothing and has no special business agrees with any table. -/
theorem flightAgrees_of_quiet {st : Store} {f : InFlight} (hs : ∀ b, f.stage ≠ .erasing b) (hd : f.stage ≠ .draining)
    (he : ∀ e b, f.erase = some e → e.target ≠ .bank b) : st.flightAgrees f :=
  ⟨fun b h => absurd h (hs b), fun h => absurd h hd, fun e b h k => absurd k (he e b h)⟩

/-- What a command has to do with the table does not depend on how far its operations have come. -/
theorem flightAgrees_of_business {a b : Store} {f g : InFlight} (h : f.business = g.business)
    (hc : a.staging = none → b.staging = none)
    (hd : ∀ x : Bank, (a.roles.get x).role = .spareDirty → (b.roles.get x).role = .spareDirty)
    (hg : a.flightAgrees g) : b.flightAgrees f := by
  obtain ⟨hstage, hbody, herase⟩ := InFlight.business_eq_iff.1 h
  obtain ⟨herasing, hdraining, htarget⟩ := hg
  unfold Store.flightAgrees
  rw [hstage, hbody]
  refine ⟨fun x hx => ?_, fun hx => hc (hdraining hx), fun e x he ht => ?_⟩
  · obtain ⟨hrole, hclosed⟩ := herasing x hx
    exact ⟨hd x hrole, fun v hv => hc (hclosed v hv)⟩
  · rw [he, Option.map_some] at herase
    obtain ⟨e', he', hte⟩ := Option.map_eq_some_iff.1 herase.symm
    exact htarget e' x he' (hte.trans ht)

theorem BanksKept.trans {s t u : State} (h : BanksKept s t) (k : BanksKept t u) : BanksKept s u where
  held := k.held.trans h.held
  scan := k.scan.trans h.scan
  starting := k.starting.trans h.starting
  closed := k.closed ∘ h.closed
  table := k.table ∘ h.table
  dirty b := k.dirty b ∘ h.dirty b
  flight f hf := by
    rcases k.flight f hf with hfresh | ⟨g, hg, hfg⟩
    · exact .inl hfresh
    · rcases h.flight g hg with ⟨hrun, hstage, herase⟩ | ⟨x, hx, hgx⟩
      · obtain ⟨hs, -, he⟩ := InFlight.business_eq_iff.1 hfg
        exact .inl ⟨fun hu => hrun (k.starting.1 hu), hs.trans hstage, by simpa [herase] using he⟩
      · exact .inr ⟨x, hx, hfg.trans hgx⟩

theorem BanksKept.after {s t u : State} (k : BanksKept t u) (h : BanksKept s t) : BanksKept s u := h.trans k

/-- What the invariant about the bank roles reads of a state. -/
def State.bankView (s : State) :=
  (s.part.resetHeld, s.scan.displayMap, s.store.engine, s.store.inFlight, s.store.staging, s.store.storeMap,
    s.store.roles, s.store.scan)

theorem BanksKept.of_view {s t : State} (h : t.bankView = s.bankView) : BanksKept s t := by
  simp only [State.bankView, Prod.mk.injEq] at h
  obtain ⟨hheld, hdisp, hengine, hflight, hstaging, hmap, hroles, hscan⟩ := h
  refine ⟨hheld, hscan, by rw [hengine], by rw [hstaging]; exact id, fun ht => ?_, by rw [hroles]; exact fun _ => id,
    fun f hf => .inr ⟨f, by rw [← hflight, hf], rfl⟩⟩
  unfold State.banksAgree Store.tableAgrees
  rw [hroles, hmap, hdisp, hstaging]
  exact ht

theorem BanksKept.refl (s : State) : BanksKept s s := .of_view rfl

/-- Kept banks are consistent banks. -/
theorem BanksKept.consistent {s t : State} (h : BanksKept s t) (hs : s.rolesConsistent) : t.rolesConsistent := by
  obtain ⟨hstart, hidle, htable, hflight, hscan⟩ := hs
  refine ⟨?_, fun ht => ⟨?_, h.closed (hidle (h.starting.1 ht)).2⟩, fun ht => h.table (htable (mt h.starting.2 ht)),
    fun f hf => ?_, by rwa [h.scan]⟩
  · rw [h.held, h.scan]
    exact h.starting.2 ∘ hstart
  · rw [Option.eq_none_iff_forall_ne_some]
    intro f hf
    rcases h.flight f hf with ⟨hrun, -⟩ | ⟨g, hg, -⟩
    · exact hrun ht
    · rw [(hidle (h.starting.1 ht)).1] at hg
      cases hg
  · rcases h.flight f hf with ⟨-, hstage, herase⟩ | ⟨g, hg, hfg⟩
    · exact flightAgrees_of_quiet (by simp [hstage]) (by simp [hstage]) (by simp [herase])
    · exact flightAgrees_of_business hfg h.closed h.dirty (hflight g hg)

/-- A change of the command in flight that leaves its business alone. -/
theorem banksKept_mapFlight {s t : State} (g : InFlight → InFlight) (hg : ∀ f, (g f).business = f.business)
    (hv : t.bankView = { s with store := { s.store with inFlight := s.store.inFlight.map g } }.bankView) :
    BanksKept s t := by
  refine BanksKept.trans (t := { s with store := { s.store with inFlight := s.store.inFlight.map g } })
    ⟨rfl, rfl, .rfl, id, id, fun _ => id, fun f hf => ?_⟩ (.of_view hv)
  obtain ⟨f', hf', rfl⟩ := Option.map_eq_some_iff.1 hf
  exact .inr ⟨f', hf', hg f'⟩

theorem banksKept_withFlight (g : InFlight → InFlight) (hg : ∀ f, (g f).business = f.business) (s : State) :
    BanksKept s (s.withFlight g) := banksKept_mapFlight g hg rfl

theorem countGrant_business (f : InFlight) (r : StoreReq) : (f.countGrant r).business = f.business := by
  cases r with
  | read u => rfl
  | pulse u => rfl
  | subPulse u => simp [InFlight.countGrant, InFlight.business, Option.map_map, Function.comp_def]

/-- A grant counts itself in the operation of the command in flight, and changes nothing else of the store. -/
theorem banksKept_arrayGrant (s : State) : BanksKept s (arrayGrant s) := by
  unfold arrayGrant
  split
  · exact .refl s
  · exact .of_view rfl
  · split
    · exact banksKept_mapFlight _ (fun f => countGrant_business f _) rfl
    · exact .refl s
  · exact .refl s

theorem banksKept_storeRequest (r : StoreReq) (s : State) : BanksKept s (storeRequest r s) := by
  unfold storeRequest
  split
  · exact .of_view rfl
  · exact (banksKept_arrayGrant _).after (.of_view rfl)

/-! ## Undisturbed work -/

/-- What the invariant about the memories reads of a state. -/
def State.memoryView (s : State) := (s.cells, s.descs, s.attrs, s.array, s.patch, s.patchValid)

theorem Undisturbed.of_view {s t : State} (hm : t.memoryView = s.memoryView) (hb : t.bankView = s.bankView) :
    Undisturbed s t := by
  simp only [State.memoryView, Prod.mk.injEq] at hm
  obtain ⟨hc, hd, ha, hr, hp, hv⟩ := hm
  exact ⟨.of_eq hc hd ha hr hp hv, .of_view hb⟩

theorem Undisturbed.refl (s : State) : Undisturbed s s := ⟨.refl s, .refl s⟩

theorem Undisturbed.trans {s t u : State} (h : Undisturbed s t) (k : Undisturbed t u) : Undisturbed s u :=
  ⟨h.memories.trans k.memories, h.banks.trans k.banks⟩

theorem Undisturbed.after {s t u : State} (k : Undisturbed t u) (h : Undisturbed s t) : Undisturbed s u := h.trans k

/-- The store engine's work that keeps the banks. -/
theorem StoreSide.undisturbed {s t : State} (h : StoreSide s t) (k : BanksKept s t) : Undisturbed s t :=
  ⟨h.memoriesKept, k⟩

/-- The row loader's work. -/
theorem LoaderSide.undisturbed {s t : State} (h : LoaderSide s t) : Undisturbed s t where
  memories := .of_eq h.cells h.descs h.attrs h.array h.patch h.patchValid
  banks := .of_view (by simp only [State.bankView]; rw [h.part, h.store, h.scan])

theorem undisturbed_arrayGrant (s : State) : Undisturbed s (arrayGrant s) :=
  (storeSide_arrayGrant s).undisturbed (banksKept_arrayGrant s)

theorem undisturbed_storeRequest (r : StoreReq) (s : State) : Undisturbed s (storeRequest r s) :=
  (storeSide_storeRequest r s).undisturbed (banksKept_storeRequest r s)

/-! ## The copy of the store map -/

/-- With the store map shown and the draining spares released the table agrees as before: only the roles that a display
map may name lost one, and the store map names none of those banks. -/
theorem tableAgrees_copy {st : Store} {display : Vector Bank 14} (h : st.tableAgrees display) :
    Store.tableAgrees { st with roles := releaseDraining st.roles } st.storeMap := by
  obtain ⟨hmapped, honly, -, hstaging⟩ := h
  have hrole : ∀ b, ((releaseDraining st.roles).get b).role =
      if (st.roles.get b).role = .spareDraining then .spareDirty else (st.roles.get b).role :=
    fun b => by rw [releaseDraining_get, releaseBank_role]
  have hkept : ∀ l, ((releaseDraining st.roles).get (st.storeMap.get l)).role = .mapped l := fun l => by
    rw [hrole, hmapped]; rfl
  refine ⟨hkept, fun b l hb => honly b l ?_, fun l => ?_, fun b => ?_⟩
  · dsimp only at hb
    rw [hrole] at hb
    split at hb
    · cases hb
    · exact hb
  · dsimp only
    rw [hkept]
    trivial
  · dsimp only
    rw [hrole, ← hstaging b]
    split
    · rename_i hd; simp [hd]
    · rfl

theorem banksKept_copyStoreMap (s : State) : BanksKept s (copyStoreMap s) where
  held := rfl
  scan := rfl
  starting := .rfl
  closed := id
  table := tableAgrees_copy
  dirty b hb := by
    show ((releaseDraining s.store.roles).get b).role = .spareDirty
    rw [releaseDraining_get, releaseBank_role, hb]
    rfl
  flight f hf := .inr ⟨f, hf, rfl⟩

theorem undisturbed_copyUnlessStarting (s : State) : Undisturbed s (copyUnlessStarting s) := by
  unfold copyUnlessStarting
  split
  · exact .refl s
  · exact (storeSide_copyStoreMap s).undisturbed (banksKept_copyStoreMap s)

end Sys2Proof.Machine
end

section
/-! SUPPORT. Work that disturbs neither the memories nor the banks: the scan engine, the row loader, the mover, the cell
port, the service load port, and the host window but for its patch writes and STORE ABORT (R94, R99, R100, R116). -/

namespace Sys2Proof.Machine

/-! ## The queues of the store engine and the transmitter -/

theorem banksKept_ackHalt (s : State) : BanksKept s (ackHalt s) := by
  unfold ackHalt
  split
  · rename_i h
    exact ⟨rfl, rfl, by simp [h], id, id, fun _ => id, fun f hf => .inr ⟨f, hf, rfl⟩⟩
  · exact .refl s

theorem banksKept_queueItem (it : TxItem) (s : State) : BanksKept s (queueItem it s) := by
  unfold queueItem
  split
  · exact .of_view rfl
  · exact .of_view rfl
  · dsimp only
    split
    · exact (banksKept_ackHalt _).after (.of_view rfl)
    · exact .of_view rfl

theorem banksKept_queueN (e : ErrCode) (k : Bool) (s : State) : BanksKept s (queueN e k s) :=
  (banksKept_queueItem _ _).after (.of_view rfl)

theorem banksKept_queueK (p : List Byte) (k : Bool) (s : State) : BanksKept s (queueK p k s) := banksKept_queueItem _ _

theorem banksKept_raise (f : Flag) (s : State) : BanksKept s (raise f s) := .of_view rfl

theorem banksKept_qspaceFrom (old : List CmdEntry) (s : State) : BanksKept s (qspaceFrom old s) := by
  unfold qspaceFrom
  split
  · exact banksKept_raise _ s
  · exact .refl s

theorem banksKept_discardQueue (s : State) : BanksKept s (discardQueue s) :=
  (banksKept_qspaceFrom _ _).after (.of_view rfl)

/-- Past the end of start-up the engine may change to any state but STARTING. -/
theorem banksKept_setEngine {e : Engine} (w : WaitReason) {s : State} (hs : s.store.engine ≠ .starting)
    (he : e ≠ .starting) : BanksKept s (s.setEngine e w) :=
  ⟨rfl, rfl, by simp [State.setEngine, hs, he], id, id, fun _ => id, fun f hf => .inr ⟨f, hf, rfl⟩⟩

/-- A command that starts has no business with the banks yet. -/
theorem banksKept_started (e : CmdEntry) (q : List CmdEntry) {s : State} (hs : s.store.engine ≠ .starting) :
    BanksKept s { s with store := { s.store with
      engine := .running, wait := .none, queue := q, inFlight := some (InFlight.ofEntry e) } } :=
  ⟨rfl, rfl, by simp [hs], id, id, fun _ => id, fun f hf => by
    cases hf
    exact .inl ⟨by simp, rfl, rfl⟩⟩

theorem banksKept_startHead {s : State} (hs : s.store.engine ≠ .starting) : BanksKept s (startHead s) := by
  unfold startHead
  split
  · exact .refl s
  · exact banksKept_setEngine .none hs (by decide)
  · split
    · exact (banksKept_qspaceFrom _ _).after (banksKept_started _ _ hs)
    · exact banksKept_setEngine .resultSpace hs (by decide)

theorem banksKept_startIfDue (s : State) : BanksKept s (startIfDue s) := by
  unfold startIfDue
  split
  · rename_i h
    exact banksKept_startHead fun he => by simp [State.startDue, he] at h
  · exact .refl s

theorem banksKept_enqueue (who : Submitter) (k : Byte) (b : CmdBody) (s : State) : BanksKept s (enqueue who k b s) :=
  (banksKept_startIfDue _).after (.of_view rfl)

/-- A push ends the business of the command in flight. -/
theorem banksKept_pushResult (r : ResultRec) (s : State) : BanksKept s (pushResult r s) :=
  ⟨rfl, rfl, .rfl, id, id, fun _ => id, fun _ hf => by cases hf⟩

theorem banksKept_loaderTakes (r : ResultRec) (s : State) : BanksKept s (loaderTakes r s) := by
  unfold loaderTakes
  split
  · exact .refl s
  · split
    · have h : BanksKept s (startIfDue { s with
          store := { s.store with results := s.store.results.dropLast }, svc := { s.svc with outstanding := none } }) :=
        (banksKept_startIfDue _).after (.of_view rfl)
      dsimp only
      split
      · exact h.trans (banksKept_ackHalt _)
      · exact h
      · exact h.trans ((banksKept_queueK _ _ _).after (.of_view rfl))
      · exact h.trans ((banksKept_queueN _ _ _).after (.of_view rfl))
      · exact h.trans (.of_view rfl)
    · exact .refl s

theorem banksKept_endDone (p : Option Bank) (d c : Word16) (i : List Byte) {s : State}
    (hs : s.store.engine ≠ .starting) : BanksKept s (endDone p d c i s) := by
  unfold endDone
  split
  · exact .refl s
  · exact ((banksKept_pushResult _ s).trans (banksKept_startHead hs)).trans (banksKept_loaderTakes _ _)

theorem banksKept_endFailed (e : ErrCode) (p : Option Bank) (d : Word16) {s : State}
    (hs : s.store.engine ≠ .starting) : BanksKept s (endFailed e p d s) := by
  unfold endFailed
  split
  · exact .refl s
  · exact (banksKept_loaderTakes _ _).after ((banksKept_raise _ _).after
      ((banksKept_setEngine .none (by simpa using hs) (by decide)).after
        ((banksKept_discardQueue _).after (banksKept_pushResult _ s))))

theorem banksKept_endAborted (p : Option Bank) {s : State} (hs : s.store.engine ≠ .starting) :
    BanksKept s (endAborted p s) := by
  unfold endAborted
  split
  · exact .refl s
  · exact (banksKept_setEngine .none (by simpa using hs) (by decide)).after
      ((banksKept_discardQueue _).after (banksKept_pushResult _ s))

/-! ## The service load port -/

theorem undisturbed_withSvc (f : Service → Service) (s : State) : Undisturbed s (s.withSvc f) := .of_view rfl rfl

theorem undisturbed_ackHalt (s : State) : Undisturbed s (ackHalt s) :=
  (storeSide_ackHalt s).undisturbed (banksKept_ackHalt s)

theorem undisturbed_queueItem (it : TxItem) (s : State) : Undisturbed s (queueItem it s) :=
  (storeSide_queueItem it s).undisturbed (banksKept_queueItem it s)

theorem undisturbed_enqueue (who : Submitter) (k : Byte) (b : CmdBody) (s : State) :
    Undisturbed s (enqueue who k b s) := (storeSide_enqueue who k b s).undisturbed (banksKept_enqueue who k b s)

theorem undisturbed_startIfDue (s : State) : Undisturbed s (startIfDue s) :=
  (storeSide_startIfDue s).undisturbed (banksKept_startIfDue s)

theorem undisturbed_lowRun (n : Nat) (s : State) : Undisturbed s (lowRun n s) := by
  unfold lowRun
  split
  · split
    · split
      · exact undisturbed_withSvc _ s
      · split
        · exact (undisturbed_withSvc _ s).trans (undisturbed_queueItem _ _)
        · exact undisturbed_withSvc _ s
    · exact undisturbed_withSvc _ s
  · exact .refl s

theorem undisturbed_refuseRecord (e : ErrCode) (s : State) : Undisturbed s (refuseRecord e s) :=
  (undisturbed_queueItem _ _).after (.of_view rfl rfl)

theorem undisturbed_judgeRecord (l : List Byte) (s : State) : Undisturbed s (judgeRecord l s) := by
  unfold judgeRecord
  split
  · exact undisturbed_refuseRecord _ s
  · split
    · exact undisturbed_refuseRecord _ s
    · split
      · exact undisturbed_withSvc _ s
      · exact undisturbed_refuseRecord _ s

theorem undisturbed_storeByte (b : Byte) (s : State) : Undisturbed s (storeByte b s) := by
  unfold storeByte
  dsimp only
  split
  · exact (undisturbed_withSvc _ s).trans (undisturbed_refuseRecord _ _)
  · split
    · exact (undisturbed_withSvc _ s).trans (undisturbed_judgeRecord _ _)
    · exact undisturbed_withSvc _ s

theorem undisturbed_byteReceived (b : Byte) (s : State) : Undisturbed s (byteReceived b s) := by
  unfold byteReceived
  split
  · exact .refl s
  · exact .refl s
  · split
    · exact .of_view rfl rfl
    · exact undisturbed_withSvc _ s
  · split
    · exact undisturbed_withSvc _ s
    · exact .refl s
  · exact undisturbed_storeByte b s
  · exact undisturbed_withSvc _ s

theorem undisturbed_framingError (s : State) : Undisturbed s (framingError s) := by
  unfold framingError
  split
  · exact undisturbed_withSvc _ s
  · exact .refl s

theorem undisturbed_confirmTimeout (s : State) : Undisturbed s (confirmTimeout s) := by
  unfold confirmTimeout
  split
  · exact undisturbed_withSvc _ s
  · exact .refl s

theorem undisturbed_interByteTimeout (s : State) : Undisturbed s (interByteTimeout s) := by
  unfold interByteTimeout
  split
  · exact undisturbed_refuseRecord _ s
  · exact .refl s

theorem undisturbed_discardWaiting (s : State) : Undisturbed s (discardWaiting s) := by
  unfold discardWaiting
  split
  · exact .refl s
  · dsimp only
    split
    · exact (undisturbed_ackHalt _).after (.of_view rfl rfl)
    · exact .of_view rfl rfl

theorem undisturbed_serviceBreak (s : State) : Undisturbed s (serviceBreak s) := by
  unfold serviceBreak
  split
  · exact (undisturbed_discardWaiting s).trans (undisturbed_withSvc _ _)
  · exact .refl s

theorem undisturbed_submitRecord (k : Byte) (b : CmdBody) (s : State) : Undisturbed s (submitRecord k b s) := by
  have hreply : ∀ e, Undisturbed s (queueN e false (toReady s)) := fun e =>
    (undisturbed_queueItem _ _).after (.of_view rfl rfl)
  unfold submitRecord
  split
  · exact (undisturbed_enqueue _ _ _ _).after (.of_view rfl rfl)
  · exact hreply _
  · exact hreply _
  · exact undisturbed_withSvc _ s

theorem undisturbed_answerE (s : State) : Undisturbed s (answerE s) := by
  unfold answerE
  split <;> exact (undisturbed_queueItem _ _).after (.of_view rfl rfl)

theorem undisturbed_actRecord (r : Record) (s : State) : Undisturbed s (actRecord r s) := by
  unfold actRecord
  split
  · exact undisturbed_submitRecord _ _ s
  · split
    · exact undisturbed_withSvc _ s
    · split
      · exact (undisturbed_queueItem _ _).after (.of_view rfl rfl)
      · exact undisturbed_answerE s

theorem undisturbed_actDue (p : Record → Bool) (s : State) : Undisturbed s (actDue p s) := by
  unfold actDue
  split
  · split
    · exact (undisturbed_withSvc _ s).trans (undisturbed_actRecord _ _)
    · exact .refl s
  · exact .refl s

theorem undisturbed_actHeld (s : State) : Undisturbed s (actHeld s) := by
  unfold actHeld
  split
  · exact (undisturbed_withSvc _ s).trans (undisturbed_actRecord _ _)
  · exact .refl s

theorem undisturbed_actStartupWait (s : State) : Undisturbed s (actStartupWait s) := by
  unfold actStartupWait
  split
  · exact (undisturbed_withSvc _ s).trans (undisturbed_actRecord _ _)
  · exact .refl s

theorem undisturbed_itemSent (it : TxItem) (s : State) : Undisturbed s (itemSent it s) := by
  cases it with
  | ready =>
    unfold itemSent
    dsimp only
    split
    · exact .of_view rfl rfl
    · exact .refl s
  | reply _ _ acks closes =>
    have hack : Undisturbed s (if acks then ackHalt s else s) := by
      split
      · exact undisturbed_ackHalt s
      · exact .refl s
    unfold itemSent
    dsimp only
    generalize (if acks then ackHalt s else s) = u at hack ⊢
    split
    · exact hack.trans (.of_view rfl rfl)
    · exact hack

theorem undisturbed_transmissionEnd (s : State) : Undisturbed s (transmissionEnd s) := by
  have hnext : ∀ u, Undisturbed u (sendWaiting u) := by
    intro u
    unfold sendWaiting
    split
    · exact .of_view rfl rfl
    · exact .refl u
  unfold transmissionEnd
  split
  · exact .refl s
  · exact (hnext _).after ((undisturbed_itemSent _ _).after (.of_view rfl rfl))

/-! ## The row loader and the scan engine -/

theorem undisturbed_entryDone (i : RowInst) (j : Nat) (s : State) : Undisturbed s (entryDone i j s) := by
  unfold entryDone
  split
  · exact (loaderSide_beginEntry _ _ _).undisturbed
  · exact .of_view rfl rfl

theorem undisturbed_resolveCell (w : Word16) (s : State) : Undisturbed s (resolveCell w s) := by
  unfold resolveCell
  split
  · dsimp only
    split
    · exact undisturbed_entryDone _ _ _
    · exact (undisturbed_arrayGrant _).after (.of_view rfl rfl)
  · exact .refl s

theorem undisturbed_storeSlices (l : List Byte) (s : State) : Undisturbed s (storeSlices l s) := by
  unfold storeSlices
  split
  · exact undisturbed_entryDone _ _ _
  · exact .refl s

theorem undisturbed_loaderResumes (s : State) : Undisturbed s (loaderResumes s) := by
  unfold loaderResumes
  split
  · exact .of_view rfl rfl
  · exact .refl s

theorem undisturbed_takeLatch (s : State) : Undisturbed s (takeLatch s) := by
  unfold takeLatch
  split
  · exact (undisturbed_arrayGrant _).after ((loaderSide_latchFirst _).undisturbed.after (.of_view rfl rfl))
  · exact .refl s

theorem undisturbed_swapIfPending (s : State) : Undisturbed s (swapIfPending s) := by
  unfold swapIfPending
  split
  · exact .of_view rfl rfl
  · exact .refl s

/-- The marquee advance keeps the descriptor table canonical. -/
theorem undisturbed_marqueeAdvance (s : State) : Undisturbed s (marqueeAdvance s) :=
  ⟨⟨id, advanceMarquees_wf _, id, id, rfl, rfl⟩, .of_view rfl⟩

theorem undisturbed_frameSettings (s : State) : Undisturbed s (frameSettings s) := by
  have hblink : ∀ u, Undisturbed u (blinkStep u) := by
    intro u
    unfold blinkStep
    split <;> exact .of_view rfl rfl
  have hlatch : Undisturbed s (latchConfig s) := .of_view rfl rfl
  have hcount : ∀ u, Undisturbed u (enterVblank (countFrame u)) := fun u => .of_view rfl rfl
  exact ((((hlatch.trans (undisturbed_swapIfPending _)).trans (undisturbed_marqueeAdvance _)).trans
    (undisturbed_copyUnlessStarting _)).trans (hblink _)).trans (hcount _)

theorem undisturbed_openFrame (s : State) : Undisturbed s (openFrame s) :=
  ((undisturbed_frameSettings s).trans (loaderSide_latchFirst _).undisturbed).trans (undisturbed_arrayGrant _)

theorem undisturbed_frameStart (s : State) : Undisturbed s (frameStart s) := by
  by_cases hd : s.frameDue = true
  · have hcount : Undisturbed s { s with freeCount := s.freeCount + 1 } := .of_view rfl rfl
    rcases frameStart_due hd with e | e <;> rw [e]
    · exact hcount.trans (undisturbed_openFrame _)
    · exact (hcount.trans (undisturbed_frameSettings _)).trans (.of_view rfl rfl)
  · simpa [frameStart, hd] using Undisturbed.refl s

theorem undisturbed_startRow (i : RowInst) (n : Nat) (s : State) : Undisturbed s (startRow i n s) := by
  have hlate : Undisturbed s (lateRow s) := by
    unfold lateRow
    split
    · exact .of_view rfl rfl
    · exact .refl s
  have hmark : ∀ u, Undisturbed u (markRow i u) := by
    intro u
    unfold markRow
    split
    · exact .of_view rfl rfl
    · exact .refl u
  have hlatch : ∀ u : State, Undisturbed u (latchFollowing i n (markRow i
      { u with rows := u.rows.exchange, scan := { u.scan with rowStart := some n } })) := fun u =>
    (loaderSide_latchFollowing i n _).undisturbed.after ((hmark _).after (.of_view rfl rfl))
  exact (hlate.trans (hlatch _)).trans (undisturbed_arrayGrant _)

theorem undisturbed_visibleLine (n : Nat) (s : State) : Undisturbed s (visibleLine n s) := by
  have hrow : Undisturbed s (rowEvents n s) := by
    unfold rowEvents
    split
    · exact .refl s
    · split
      · exact undisturbed_startRow _ _ s
      · exact .of_view rfl rfl
  exact hrow.trans (.of_view rfl rfl)

theorem undisturbed_lineStart (s : State) : Undisturbed s (lineStart s) := by
  unfold lineStart
  split
  · exact .refl s
  · split
    · exact .of_view rfl rfl
    · exact undisturbed_visibleLine _ s
  · split
    · exact undisturbed_visibleLine _ s
    · exact .refl s

theorem undisturbed_endActiveDots (s : State) : Undisturbed s (endActiveDots s) := by
  unfold endActiveDots
  split
  · exact .of_view rfl rfl
  · exact .refl s

theorem undisturbed_stopDisplay (s : State) : Undisturbed s (stopDisplay s) := by
  have hstop : Undisturbed s { loaderStops s with
      scan := { (loaderStops s).scan with
        enabled := false, pos := .none, rowStart := none, part := .off, lsel := 0, dots := [] } } := .of_view rfl rfl
  exact (hstop.trans (undisturbed_copyUnlessStarting _)).trans (undisturbed_arrayGrant _)

theorem undisturbed_writeDispctl (v : Byte) (s : State) : Undisturbed s (writeDispctl v s) := by
  unfold writeDispctl
  split
  · split
    · exact .refl s
    · exact (undisturbed_openFrame _).after (.of_view rfl rfl)
  · split
    · exact (undisturbed_swapIfPending s).trans (undisturbed_stopDisplay _)
    · exact .refl s

theorem undisturbed_displayReset (s : State) : Undisturbed s (displayReset s) :=
  (undisturbed_stopDisplay s).trans (.of_view rfl rfl)

/-! ## The cell port and the mover -/

theorem undisturbed_moverEnd (st : MvState) (s : State) : Undisturbed s (moverEnd st s) := .of_view rfl rfl

theorem undisturbed_moverStart (s : State) : Undisturbed s (moverStart s) := by
  unfold moverStart
  split
  · exact .of_view rfl rfl
  · split
    · exact .of_view rfl rfl
    · dsimp only
      split <;> exact .of_view rfl rfl

theorem undisturbed_moverAbort (s : State) : Undisturbed s (moverAbort s) := by
  unfold moverAbort
  split
  · split <;> exact .of_view rfl rfl
  · exact .refl s

theorem undisturbed_moverWriteDone (s : State) : Undisturbed s (moverWriteDone s) := by
  unfold moverWriteDone
  split
  · exact .refl s
  · dsimp only
    split
    · exact .of_view rfl rfl
    · split <;> exact .of_view rfl rfl

theorem undisturbed_moverReadDone (w : Word16) (s : State) : Undisturbed s (moverReadDone w s) := by
  unfold moverReadDone
  split
  · exact .refl s
  · exact .of_view rfl rfl

theorem undisturbed_moverAbandonedDone (s : State) : Undisturbed s (moverAbandonedDone s) := by
  have hresumes : ∀ u, Undisturbed u (moverResumes u) := by
    intro u
    unfold moverResumes
    split
    · exact .refl u
    · exact .of_view rfl rfl
  refine (hresumes _).after ?_
  split
  · exact .of_view rfl rfl
  · exact .refl s

theorem undisturbed_hostCellDone (a : CellAddr) (w : Word16) (s : State) : Undisturbed s (hostCellDone a w s) := by
  unfold hostCellDone
  split <;> exact .of_view rfl rfl

theorem undisturbed_deliverCell (acc : CellAccess) (a : CellAddr) (w : Word16) (s : State) :
    Undisturbed s (deliverCell acc a w s) := by
  unfold deliverCell
  split
  · split
    · exact undisturbed_loaderResumes s
    · exact undisturbed_resolveCell w s
  · exact undisturbed_hostCellDone a w s
  · split
    · exact undisturbed_moverAbandonedDone s
    · split
      · exact undisturbed_moverReadDone w s
      · exact undisturbed_moverWriteDone s

/-- A completed cell write keeps the cell store canonical. -/
theorem undisturbed_cellPortComplete (s : State) : Undisturbed s (cellPortComplete s) := by
  unfold cellPortComplete
  split
  · exact .refl s
  · have hgrant : ∀ u, Undisturbed u (arrayGrant (cellGrant u)) := fun u =>
      (undisturbed_arrayGrant _).after (.of_view rfl rfl)
    refine (hgrant _).after ?_
    split
    · exact (undisturbed_deliverCell _ _ _ _).after (.of_view rfl rfl)
    · rename_i a w _
      have hwrite : Undisturbed s { freeCellPort s with cells := s.cells.writeCell a w } :=
        ⟨⟨Memory.writeCell_wf a w, id, id, id, rfl, rfl⟩, .of_view rfl⟩
      exact (undisturbed_deliverCell _ _ _ _).after hwrite

/-! ## The host window -/

theorem undisturbed_refuse (c : WinFault) (s : State) : Undisturbed s (refuse c s) := .of_view rfl rfl

theorem undisturbed_stepAddr (s : State) : Undisturbed s (stepAddr s) := .of_view rfl rfl

theorem undisturbed_controlWrite (a : Nat) (v : Byte) (s : State) : Undisturbed s (controlWrite a v s) := by
  have hjudged : ∀ c f, Undisturbed s (acceptIf c f s) := by
    intro c f
    unfold acceptIf
    split <;> exact .of_view rfl rfl
  unfold controlWrite
  split
  case h_1 => exact undisturbed_writeDispctl v s
  case h_3 =>
    unfold panelwHighWrite acceptIf
    dsimp only
    split <;> exact .of_view rfl rfl
  case h_4 | h_5 | h_6 | h_7 | h_8 | h_9 | h_12 => exact hjudged _ _
  case h_13 =>
    unfold headpendWrite
    split <;> exact .of_view rfl rfl
  all_goals exact .of_view rfl rfl

theorem undisturbed_cellLowWrite (v : Byte) (s : State) : Undisturbed s (cellLowWrite v s) := by
  unfold cellLowWrite
  dsimp only
  split
  · split <;> exact .of_view rfl rfl
  · exact .of_view rfl rfl

theorem undisturbed_cellHighWrite (v : Byte) (s : State) : Undisturbed s (cellHighWrite v s) := by
  unfold cellHighWrite
  dsimp only
  split
  · split <;> exact .of_view rfl rfl
  · exact .of_view rfl rfl

theorem undisturbed_cellHighRead (s : State) : Undisturbed s (cellHighRead s) := by
  unfold cellHighRead
  dsimp only
  split
  · split <;> exact .of_view rfl rfl
  · exact .of_view rfl rfl

theorem undisturbed_compWrite (a : Nat) (v : Byte) (s : State) : Undisturbed s (compWrite a v s) := by
  unfold compWrite
  split <;> exact .of_view rfl rfl

theorem undisturbed_dataRead (s : State) : Undisturbed s (dataRead s) := by
  have hcapture : ∀ a u, Undisturbed u (captureRead a u) := by
    intro a u
    unfold captureRead
    split <;> exact .of_view rfl rfl
  unfold dataRead spaceRead
  dsimp only
  split
  · exact .of_view rfl rfl
  · split
    · exact .of_view rfl rfl
    · split
      · exact (undisturbed_stepAddr _).after ((hcapture _ _).after (.of_view rfl rfl))
      · split
        · exact .of_view rfl rfl
        · exact undisturbed_cellHighRead s
      · exact .of_view rfl rfl

theorem undisturbed_takeRead (port : PortNo) (s : State) : Undisturbed s (takeRead port s) := by
  have hflag : ∀ v, Undisturbed s (flagRead v s) := by
    intro v
    unfold flagRead
    split <;> exact .of_view rfl rfl
  unfold takeRead
  split
  case h_5 => exact undisturbed_dataRead s
  case h_6 | h_7 => exact hflag _
  all_goals exact .of_view rfl rfl

theorem undisturbed_hostSubmit (s : State) : Undisturbed s (hostSubmit s) := by
  unfold hostSubmit
  split
  · exact .of_view rfl rfl
  · exact undisturbed_enqueue _ _ _ s

theorem undisturbed_popResult (s : State) : Undisturbed s (popResult s) := by
  unfold popResult
  split
  · exact .of_view rfl rfl
  · exact (undisturbed_startIfDue _).after (.of_view rfl rfl)

theorem undisturbed_swapList (s : State) : Undisturbed s (swapList s) := by
  unfold swapList
  split <;> exact .of_view rfl rfl

theorem undisturbed_clearFlags (b : Bool) (v : Byte) (s : State) : Undisturbed s (clearFlags b v s) := by
  unfold clearFlags
  split <;> exact .of_view rfl rfl

theorem undisturbed_spaceSelect (v : Byte) (s : State) : Undisturbed s (spaceSelect v s) := by
  unfold spaceSelect
  split
  · exact .of_view rfl rfl
  · split <;> exact .of_view rfl rfl

theorem undisturbed_unlessService {f : State → State} {s : State} (h : Undisturbed s (f s)) :
    Undisturbed s (unlessService f s) := by
  unfold unlessService
  split
  · exact .of_view rfl rfl
  · exact h

/-! ## Strobes -/

/-- The operations that reach the memories or the banks in a way of their own: a patch write within the table, the store
engine's operations, and the events of RESET#, power and supply. -/
inductive Reaching (s : State) : State → Prop where
  | patch (v : Byte) (ha : s.win.addr.toNat < 288) : Reaching s (stepAddr (patchWrite s.win.addr.toNat v s))
  | abort : Reaching s (storeAbort s)
  | readComplete : Reaching s (arrayReadComplete s)
  | pulseComplete : Reaching s (programPulseComplete s)
  | subPulseComplete : Reaching s (eraseSubpulseComplete s)
  | pulseLimit : Reaching s (pulseLimitReached s)
  | budgetSpent : Reaching s (subpulseBudgetSpent s)
  | begin : Reaching s (stepBegin s)
  | chooseAgain : Reaching s (stepChooseAgain s)
  | clone : Reaching s (stepClone s)
  | program : Reaching s (stepProgram s)
  | commit : Reaching s (stepCommit s)
  | abandon : Reaching s (stepAbandon s)
  | scrub : Reaching s (stepScrub s)
  | readglyph : Reaching s (stepReadglyph s)
  | check : Reaching s (stepCheck s)
  | badKind : Reaching s (stepBadKind s)
  | scanEnd (hr : s.part.resetHeld = false) : Reaching s (startUpScanEnd s)
  | powerOn : Reaching s (powerOn s)
  | reset : Reaching s (resetPart s)
  | release (load : Bool) : Reaching s (releaseReset load s)
  | supply : Reaching s (lowvAsserted s)

theorem undisturbed_dataWrite (v : Byte) (s : State) : Undisturbed s (dataWrite v s) ∨ Reaching s (dataWrite v s) := by
  unfold dataWrite
  split
  · exact .inl (.of_view rfl rfl)
  · split
    · exact .inl (.of_view rfl rfl)
    · rename_i hrange
      unfold spaceWrite
      dsimp only
      split
      · exact .inl ((undisturbed_controlWrite _ v s).trans (undisturbed_stepAddr _))
      · split
        · exact .inl (undisturbed_cellLowWrite v s)
        · exact .inl (undisturbed_cellHighWrite v s)
      · exact .inl ⟨⟨id, Memory.write_wf _ _, id, id, rfl, rfl⟩, .of_view rfl⟩
      · exact .inl ⟨⟨id, id, Memory.write_wf _ _, id, rfl, rfl⟩, .of_view rfl⟩
      · rename_i hspace
        refine .inr (.patch v ?_)
        simpa [spaceSize, hspace] using hrange
      · exact .inl ((undisturbed_compWrite _ v s).trans (undisturbed_stepAddr _))
      · exact .inl (.of_view rfl rfl)

theorem undisturbed_command (code : Byte) (s : State) : Undisturbed s (command code s) ∨ Reaching s (command code s) := by
  unfold command
  split
  · exact .inl (undisturbed_displayReset s)
  · exact .inl (undisturbed_hostSubmit s)
  · exact .inl (undisturbed_popResult s)
  · exact .inl (undisturbed_ackHalt s)
  · exact .inr .abort
  · exact .inl (undisturbed_moverStart s)
  · exact .inl (undisturbed_moverAbort s)
  · exact .inl (undisturbed_swapList s)
  · exact .inl (undisturbed_refuse _ s)

/-- A host access, whatever it is, disturbs nothing, or is a patch write within the table, or is STORE ABORT. -/
theorem undisturbed_takeAccess (x : Access) (s : State) :
    Undisturbed s (takeAccess x s) ∨ Reaching s (takeAccess x s) := by
  unfold takeAccess
  split
  · exact .inl (undisturbed_takeRead _ s)
  · unfold takeWrite
    split
    · unfold unlessService
      split
      · exact .inl (undisturbed_refuse _ s)
      · exact undisturbed_command _ s
    · exact .inl (undisturbed_spaceSelect _ s)
    · exact .inl (.of_view rfl rfl)
    · exact .inl (.of_view rfl rfl)
    · exact undisturbed_dataWrite _ s
    · exact .inl (undisturbed_unlessService (undisturbed_clearFlags _ _ s))
    · exact .inl (undisturbed_unlessService (undisturbed_clearFlags _ _ s))
    · exact .inl (.of_view rfl rfl)

/-! ## Commands -/

/-- `t` comes from `s` by undisturbed work and at most one of the operations that reach the memories or the banks. -/
def Leads (s t : State) : Prop := Undisturbed s t ∨ ∃ u v, Undisturbed s u ∧ Reaching u v ∧ Undisturbed v t

theorem Leads.of_reaching {s t : State} (h : Reaching s t) : Leads s t := .inr ⟨s, t, .refl s, h, .refl t⟩

theorem Leads.trans_undisturbed {s t u : State} (h : Leads s t) (k : Undisturbed t u) : Leads s u := by
  rcases h with h | ⟨x, y, hx, hxy, hy⟩
  · exact .inl (h.trans k)
  · exact .inr ⟨x, y, hx, hxy, hy.trans k⟩

theorem Undisturbed.leads {s t u : State} (h : Undisturbed s t) (k : Leads t u) : Leads s u := by
  rcases k with k | ⟨x, y, hx, hxy, hy⟩
  · exact .inl (h.trans k)
  · exact .inr ⟨x, y, h.trans hx, hxy, hy⟩

theorem leads_takeAccess (x : Access) (s : State) : Leads s (takeAccess x s) :=
  (undisturbed_takeAccess x s).imp id fun h => ⟨s, _, .refl s, h, .refl _⟩

theorem leads_strobe (x : Access) (s : State) : Leads s (strobe x s) := by
  unfold strobe
  split
  · exact .inl (.of_view rfl rfl)
  · exact leads_takeAccess x s

theorem leads_heldAccess (s : State) : Leads s (heldAccess s) := by
  unfold heldAccess
  split
  · rename_i x rest _ _
    have hheld : Undisturbed s { s with win := { s.win with held := rest } } := .of_view rfl rfl
    exact hheld.leads (leads_takeAccess x _)
  · exact .inl (.refl s)

/-- A step of the part, after a first latch that was still to be made. -/
theorem leads_occur {f : State → State} {s t : State} (hf : ∀ u, u.part.resetHeld = false → Leads u (f u))
    (h : occur f s = .next t) : Leads s t := by
  rw [occur_next, Host.Outcome.next.injEq] at h
  subst h
  split
  · exact .inl (.refl s)
  · rename_i hr
    have hl := undisturbed_takeLatch s
    exact hl.leads (hf _ (by rw [hl.banks.held]; simpa using hr))

theorem leads_occur_undisturbed {f : State → State} {s t : State} (hf : ∀ u, Undisturbed u (f u))
    (h : occur f s = .next t) : Leads s t := leads_occur (fun u _ => .inl (hf u)) h

theorem leads_occur_reaching {f : State → State} {s t : State} (hf : ∀ u, Reaching u (f u))
    (h : occur f s = .next t) : Leads s t := leads_occur (fun u _ => .of_reaching (hf u)) h

/-- A step of the host window, before or after a first latch that is still to be made. -/
theorem leads_occurAccess {x : Option Access} {f : State → State} {s t : State} (hf : ∀ u, Leads u (f u))
    (h : occurAccess x f s = .next t) : Leads s t := by
  unfold occurAccess at h
  split at h
  · rw [Host.Outcome.next.injEq] at h
    subst h
    split
    · exact .inl (.refl s)
    · exact (hf s).trans_undisturbed (undisturbed_takeLatch _)
  · exact leads_occur (fun u _ => hf u) h

/-- What a command can do to the memories and the banks: undisturbed work, and at most one operation that reaches them. -/
theorem leads_exec (c : Instr) {s t : State} (h : exec c s = .next t) : Leads s t := by
  cases c with
  | powerOn => cases h; exact .of_reaching .powerOn
  | reset => cases h; exact .of_reaching .reset
  | resetRelease load => cases h; exact .of_reaching (.release load)
  | lowvAsserted => cases h; exact .of_reaching .supply
  | lowvReleased => cases h; exact .inl (.of_view rfl rfl)
  | frameStart => exact leads_occur_undisturbed undisturbed_frameStart h
  | lineStart => exact leads_occur_undisturbed undisturbed_lineStart h
  | endOfTheActiveDots => exact leads_occur_undisturbed undisturbed_endActiveDots h
  | displayEnable _ | displayDisable _ | displayReset | swapList | submit | popResult | ackHalt | storeAbort
  | moverStart | moverAbort | badCommand _ | registerWrite _ _ | panelwLowByteWrite _ | panelwHighByteWrite _
  | framecntLowByteRead | framecntHighByteRead | mvdoneLowByteRead | mvdoneHighByteRead | cellLowByteWrite _
  | cellHighByteWrite _ | cellLowByteRead | cellHighByteRead | descriptorByteWrite _ | attributeByteWrite _
  | patchSlotWrite _ | iflagClear _ _ | winfaultClear _ | dataRead | iflagRead _ =>
    exact leads_occurAccess (leads_strobe _) h
  | heldWindowAccess => exact leads_occurAccess leads_heldAccess h
  | cellPortComplete => exact leads_occur_undisturbed undisturbed_cellPortComplete h
  | arrayReadComplete => exact leads_occur_reaching (fun _ => .readComplete) h
  | programPulseComplete => exact leads_occur_reaching (fun _ => .pulseComplete) h
  | pulseLimitReached => exact leads_occur_reaching (fun _ => .pulseLimit) h
  | eraseSubpulseComplete => exact leads_occur_reaching (fun _ => .subPulseComplete) h
  | subpulseBudgetSpent => exact leads_occur_reaching (fun _ => .budgetSpent) h
  | storeCommandStart => exact leads_occur_undisturbed undisturbed_startIfDue h
  | cmdBegin => exact leads_occur_reaching (fun _ => .begin) h
  | beginChooseAgain => exact leads_occur_reaching (fun _ => .chooseAgain) h
  | cmdClone => exact leads_occur_reaching (fun _ => .clone) h
  | cmdProgram => exact leads_occur_reaching (fun _ => .program) h
  | cmdCommit => exact leads_occur_reaching (fun _ => .commit) h
  | cmdAbandon => exact leads_occur_reaching (fun _ => .abandon) h
  | cmdScrub => exact leads_occur_reaching (fun _ => .scrub) h
  | cmdReadglyph => exact leads_occur_reaching (fun _ => .readglyph) h
  | cmdCheck => exact leads_occur_reaching (fun _ => .check) h
  | badKind => exact leads_occur_reaching (fun _ => .badKind) h
  | startUpScanEnd => exact leads_occur (fun _ hr => .of_reaching (.scanEnd hr)) h
  | lowRun n => exact leads_occur_undisturbed (undisturbed_lowRun n) h
  | byteReceived b => exact leads_occur_undisturbed (undisturbed_byteReceived b) h
  | framingError => exact leads_occur_undisturbed undisturbed_framingError h
  | serviceBreak => exact leads_occur_undisturbed undisturbed_serviceBreak h
  | interByteTimeout => exact leads_occur_undisturbed undisturbed_interByteTimeout h
  | confirmTimeout => exact leads_occur_undisturbed undisturbed_confirmTimeout h
  | bRecord | cRecord | gRecord | mRecord | aRecord | qRecord | eRecord =>
    exact leads_occur_undisturbed (undisturbed_actDue _) h
  | heldRecord => exact leads_occur_undisturbed undisturbed_actHeld h
  | transmissionEnd => exact leads_occur_undisturbed undisturbed_transmissionEnd h

/-- An invariant that undisturbed work keeps, and that the operations which reach the memories or the banks keep, is kept by
every step. -/
theorem step_keeps {P : State → Prop} (hP : ∀ s t, P s → Undisturbed s t → P t) (hR : ∀ s t, P s → Reaching s t → P t)
    {s t : State} (hs : P s) (h : step s = .next t) : P t := by
  unfold step at h
  split at h
  · cases h; exact hs
  · rename_i c rest _
    have hq : P { s with pending := rest } := hP s _ hs (.of_view rfl rfl)
    rcases leads_exec c h with h | ⟨u, v, hu, huv, hv⟩
    · exact hP _ t hq h
    · exact hP v t (hR u v (hP _ u hq hu) huv) hv

end Sys2Proof.Machine
end

section
/-! SUPPORT. The memories and the patch codes: patch writes one by one, and the operations of the store engine, RESET# and
power, keep the canonical form and the codes distinct (R92 to R94, R105, R115). -/

namespace Sys2Proof.Machine

/-- The memories are canonical and the valid patch codes distinct: the two invariants together. -/
def State.tablesSound (s : State) : Prop := s.memoriesCanonical ∧ s.patchCodesDistinct

/-- Work that keeps the memories keeps the invariants. -/
theorem MemoriesKept.sound {s t : State} (h : MemoriesKept s t) (hs : s.tablesSound) : t.tablesSound := by
  obtain ⟨⟨hcells, hdescs, hattrs, hpatch, harray⟩, hcodes⟩ := hs
  refine ⟨⟨h.cells hcells, h.descs hdescs, h.attrs hattrs, by rwa [h.patch], h.array harray⟩, ?_⟩
  unfold State.patchCodesDistinct
  rwa [h.patch, h.patchValid]

/-! ## Patch writes -/

/-- The code of a slot rests on its first two bytes: a write elsewhere leaves it. -/
theorem patchCode_write_other {m : Memory} {a n : Nat} (v : Byte) (h : m.wf = true) (h0 : a ≠ 18 * n)
    (h1 : a ≠ 18 * n + 1) : patchCode (m.write a v) n = patchCode m n := by
  simp only [patchCode, Memory.read_write _ _ _ h, if_neg (Ne.symm h0), if_neg (Ne.symm h1)]

/-- The VALID bits after one of them has been put. -/
theorem putValid_getLsbD (w : Word16) {n m : Nat} (b : Bool) (hm : m < 16) :
    (putValid w n b).getLsbD m = if m = n then b else w.getLsbD m := by
  unfold putValid
  by_cases h : m = n
  · subst h
    cases b <;> simp [hm]
  · have hsub : m < n ∨ m - n ≠ 0 := by omega
    rcases hsub with hlt | hne
    · cases b <;> simp [hm, h, hlt]
    · cases b <;> simp [hm, h, hne]

/-- A second byte keeps the code bits of what was written, since VALID stands in bit 7 (R92). -/
theorem putBit_seven_mod (v : Byte) (b : Bool) : (putBit v 7 b).toNat % 4 = v.toNat % 4 := by
  revert v b; decide

/-- No other valid slot holds the code, when the check finds none. -/
theorem codeTaken_eq_false {s : State} {n code : Nat} (h : s.codeTaken n code = false) {m : Nat} (hm : m < 16)
    (hne : m ≠ n) (hv : s.patchValid.getLsbD m = true) : patchCode s.patch m ≠ code := by
  intro hc
  simp only [State.codeTaken, List.any_eq_false, List.mem_range] at h
  exact h m hm (by simp [hne, hv, hc])

/-- The codes stay distinct when slot `n` takes this VALID and this code, no other slot changes, and no other valid slot
holds the code. -/
theorem patchCodesDistinct_of_slot {s t : State} {n code : Nat} {b : Bool} (hs : s.patchCodesDistinct)
    (hvalid : ∀ m, m < 16 → t.patchValid.getLsbD m = if m = n then b else s.patchValid.getLsbD m)
    (hcode : ∀ m, m < 16 → patchCode t.patch m = if m = n then code else patchCode s.patch m)
    (hfree : b = true → ∀ m, m < 16 → m ≠ n → s.patchValid.getLsbD m = true → patchCode s.patch m ≠ code) :
    t.patchCodesDistinct := by
  intro i j hi hj hne hvi hvj
  rw [hvalid _ hi] at hvi
  rw [hvalid _ hj] at hvj
  rw [hcode _ hi, hcode _ hj]
  by_cases h1 : i = n
  · have h2 : j ≠ n := fun e => hne (h1.trans e.symm)
    rw [if_pos h1] at hvi ⊢
    rw [if_neg h2] at hvj ⊢
    exact (hfree hvi j hj h2 hvj).symm
  · rw [if_neg h1] at hvi ⊢
    by_cases h2 : j = n
    · rw [if_pos h2] at hvj ⊢
      exact hfree hvj i hi h1 hvi
    · rw [if_neg h2] at hvj ⊢
      exact hs i j hi hj hne hvi hvj

/-- A patch write keeps the table canonical and the valid codes distinct (R94). -/
theorem patchWrite_sound (a : Nat) (v : Byte) {s : State} (hs : s.tablesSound) : (patchWrite a v s).tablesSound := by
  obtain ⟨⟨hcells, hdescs, hattrs, hpatch, harray⟩, hcodes⟩ := hs
  have hwf : ∀ w, (s.patch.write a w).wf = true := fun w => Memory.write_wf _ _ hpatch
  unfold patchWrite
  dsimp only
  split
  · rename_i hplace
    refine ⟨⟨hcells, hdescs, hattrs, hwf v, harray⟩, fun i j hi hj hne hvi hvj => ?_⟩
    dsimp only
    rw [patchCode_write_other v hpatch (by omega) (by omega), patchCode_write_other v hpatch (by omega) (by omega)]
    exact hcodes i j hi hj hne hvi hvj
  · rename_i hplace
    split
    · exact ⟨⟨hcells, hdescs, hattrs, hpatch, harray⟩, hcodes⟩
    · rename_i hcheck
      simp only [Bool.and_eq_true, not_and, Bool.not_eq_true] at hcheck
      have hfree := fun hv m (hm : m < 16) hne hvm => codeTaken_eq_false (hcheck hv) (m := m) hm hne hvm
      split
      · rename_i hzero
        refine ⟨⟨hcells, hdescs, hattrs, hwf v, harray⟩, patchCodesDistinct_of_slot hcodes (n := a / 18)
          (fun m _ => ?_) (fun m _ => ?_) hfree⟩
        · split
          · rename_i hm
            simp [State.validAfter, hzero, hm]
          · rfl
        · split
          · rename_i hm
            subst hm
            have ha : a = 18 * (a / 18) := by omega
            simp only [patchCode, Memory.read_write _ _ _ hpatch, State.codeAfter, if_pos hzero]
            rw [← ha]
            simp
          · exact patchCode_write_other v hpatch (by omega) (by omega)
      · rename_i hone
        refine ⟨⟨hcells, hdescs, hattrs, hwf _, harray⟩, patchCodesDistinct_of_slot hcodes (n := a / 18)
          (fun m hm => ?_) (fun m _ => ?_) hfree⟩
        · simp [State.validAfter, hone, putValid_getLsbD _ _ hm]
        · split
          · rename_i hm
            subst hm
            have ha : a = 18 * (a / 18) + 1 := by omega
            simp only [patchCode, Memory.read_write _ _ _ hpatch, State.codeAfter, if_neg hone]
            rw [if_neg (by omega), if_pos ha.symm, putBit_seven_mod]
          · exact patchCode_write_other _ hpatch (by omega) (by omega)

/-! ## The store engine -/

theorem MemoriesKept.after {s t u : State} (k : MemoriesKept t u) (h : MemoriesKept s t) : MemoriesKept s u := h.trans k

theorem memoriesKept_pulseArray (p : ProgOp) (s : State) : MemoriesKept s (pulseArray p s) :=
  ⟨id, id, id, Memory.writeAll_wf _, rfl, rfl⟩

theorem memoriesKept_freeArrayPort (s : State) : MemoriesKept s (freeArrayPort s) := .of_eq rfl rfl rfl rfl rfl rfl

theorem memoriesKept_subPulseArray (u : EraseUnit) (s : State) : MemoriesKept s (subPulseArray u s) :=
  ⟨id, id, id, Memory.writeAll_wf _, rfl, rfl⟩

/-- A cut leaves the bytes as its pulse left them, or as they were. -/
theorem memoriesKept_cutPulse (s : State) : MemoriesKept s (cutPulse s) := by
  have hpulse : ∀ p, MemoriesKept s (freeArrayPort (cutPulseArray p s)) := by
    intro p
    unfold cutPulseArray
    dsimp only
    split
    · exact .of_eq rfl rfl rfl rfl rfl rfl
    · exact (memoriesKept_pulseArray p s).trans (.of_eq rfl rfl rfl rfl rfl rfl)
  have hsub : ∀ u, MemoriesKept s (freeArrayPort (cutSubPulseArray u s)) := by
    intro u
    unfold cutSubPulseArray
    dsimp only
    split
    · exact .of_eq rfl rfl rfl rfl rfl rfl
    · exact (memoriesKept_subPulseArray u s).trans (.of_eq rfl rfl rfl rfl rfl rfl)
  unfold cutPulse
  split
  · split
    · exact hpulse _
    · exact .of_eq rfl rfl rfl rfl rfl rfl
  · exact hsub _
  · exact .refl s

theorem memoriesKept_abortFlight (s : State) : MemoriesKept s (abortFlight s) := by
  have hleaves : MemoriesKept s { cutPulse s with
      arrPort := (cutPulse s).arrPort.storeLeaves, store := { (cutPulse s).store with deferred := none } } :=
    (memoriesKept_cutPulse s).trans (.of_eq rfl rfl rfl rfl rfl rfl)
  unfold abortFlight
  dsimp only
  split
  · exact hleaves.trans ((storeSide_discardQueue _).trans (storeSide_setEngine _ _ _)).memoriesKept
  · exact hleaves.trans ((storeSide_cutEffects _ _).trans (storeSide_endAborted _ _)).memoriesKept

theorem memoriesKept_storeAbort (s : State) : MemoriesKept s (storeAbort s) := by
  have habort : MemoriesKept s (arrayGrant (abortFlight s)) :=
    (memoriesKept_abortFlight s).trans (storeSide_arrayGrant _).memoriesKept
  unfold storeAbort
  split
  · exact (storeSide_discardQueue s).memoriesKept
  · exact .refl s
  · exact .refl s
  · exact habort
  · split
    · exact habort
    · exact ((storeSide_discardQueue s).trans (storeSide_setEngine _ _ _)).memoriesKept

theorem memoriesKept_arrayReadComplete (s : State) : MemoriesKept s (arrayReadComplete s) := by
  have hfree : MemoriesKept s (freeArrayPort s) := .of_eq rfl rfl rfl rfl rfl rfl
  have hgrant : ∀ u, MemoriesKept u (arrayGrant u) := fun u => (storeSide_arrayGrant u).memoriesKept
  unfold arrayReadComplete
  split
  · refine MemoriesKept.trans ?_ (hgrant _)
    split
    · exact hfree.trans (undisturbed_loaderResumes _).memories
    · exact hfree.trans (undisturbed_storeSlices _ _).memories
  · refine MemoriesKept.trans ?_ (hgrant _)
    split
    · exact hfree.trans (storeSide_presentDeferred _).memoriesKept
    · exact hfree.trans (storeSide_storeReadDone _ _).memoriesKept
  · exact .refl s

theorem memoriesKept_programPulseComplete (s : State) : MemoriesKept s (programPulseComplete s) := by
  unfold programPulseComplete
  split
  · exact (storeSide_storeRequest _ _).memoriesKept.after ((storeSide_withFlight _ _).memoriesKept.after
      ((memoriesKept_freeArrayPort _).after (memoriesKept_pulseArray _ s)))
  · exact .refl s

theorem memoriesKept_eraseSubpulseComplete (s : State) : MemoriesKept s (eraseSubpulseComplete s) := by
  unfold eraseSubpulseComplete
  split
  · exact (storeSide_storeRequest _ _).memoriesKept.after ((storeSide_withFlight _ _).memoriesKept.after
      ((memoriesKept_freeArrayPort _).after (memoriesKept_subPulseArray _ s)))
  · exact .refl s

/-! ## Power, reset and supply -/

theorem memoriesKept_lowvAsserted (s : State) : MemoriesKept s (lowvAsserted s) := by
  have hflag : MemoriesKept s (raise .lowv { s with part := { s.part with lowv := true } }) :=
    .of_eq rfl rfl rfl rfl rfl rfl
  unfold lowvAsserted
  dsimp only
  split
  · exact .refl s
  · split
    · exact .of_eq rfl rfl rfl rfl rfl rfl
    · split
      · exact (hflag.trans (memoriesKept_cutPulse _)).trans
          ((storeSide_cutBySupply _).trans (storeSide_arrayGrant _)).memoriesKept
      · split
        · exact (storeSide_cutBySupply _).memoriesKept.after (hflag.trans (.of_eq rfl rfl rfl rfl rfl rfl))
        · exact hflag

theorem memoriesKept_releaseReset (load : Bool) (s : State) : MemoriesKept s (releaseReset load s) := by
  have hscan : ∀ u, MemoriesKept u (beginScan u) := fun u =>
    ((StoreSide.of u _ _ _ _).trans (storeSide_storeRequest _ _)).memoriesKept
  unfold releaseReset
  dsimp only
  split
  · split <;> exact (hscan _).after (.of_eq rfl rfl rfl rfl rfl rfl)
  · exact .refl s

/-- With no valid slot no two valid slots share a code. -/
theorem patchCodesDistinct_of_none {s : State} (h : s.patchValid = 0) : s.patchCodesDistinct := by
  intro m n _ _ _ hm
  simp [h] at hm

/-- RESET# clears every VALID bit, and leaves the cell it cuts whole (R41, R92). -/
theorem resetPart_tablesSound {s : State} (hs : s.tablesSound) : (resetPart s).tablesSound := by
  obtain ⟨⟨hcells, hdescs, hattrs, hpatch, harray⟩, -⟩ := (memoriesKept_cutPulse s).sound hs
  refine ⟨⟨?_, hdescs, hattrs, hpatch, harray⟩, patchCodesDistinct_of_none rfl⟩
  show (cutPulse s).cellsAfterReset.wf = true
  unfold State.cellsAfterReset
  split
  · split
    · exact Memory.writeCell_wf _ _ hcells
    · exact hcells
  · exact hcells

theorem powerOn_tablesSound {s : State} (hs : s.tablesSound) : (powerOn s).tablesSound := by
  obtain ⟨⟨-, -, -, -, harray⟩, -⟩ := resetPart_tablesSound hs
  exact ⟨⟨rfl, rfl, rfl, rfl, harray⟩, patchCodesDistinct_of_none rfl⟩

/-! ## Every command -/

theorem Reaching.tablesSound {s t : State} (h : Reaching s t) (hs : s.tablesSound) : t.tablesSound := by
  cases h with
  | patch v _ => exact (undisturbed_stepAddr _).memories.sound (patchWrite_sound _ v hs)
  | abort => exact (memoriesKept_storeAbort s).sound hs
  | readComplete => exact (memoriesKept_arrayReadComplete s).sound hs
  | pulseComplete => exact (memoriesKept_programPulseComplete s).sound hs
  | subPulseComplete => exact (memoriesKept_eraseSubpulseComplete s).sound hs
  | pulseLimit => exact (storeSide_pulseLimitReached s).memoriesKept.sound hs
  | budgetSpent => exact (storeSide_subpulseBudgetSpent s).memoriesKept.sound hs
  | begin => exact (storeSide_stepBegin s).memoriesKept.sound hs
  | chooseAgain => exact (storeSide_stepChooseAgain s).memoriesKept.sound hs
  | clone => exact (storeSide_stepClone s).memoriesKept.sound hs
  | program => exact (storeSide_stepProgram s).memoriesKept.sound hs
  | commit => exact (storeSide_stepCommit s).memoriesKept.sound hs
  | abandon => exact (storeSide_stepAbandon s).memoriesKept.sound hs
  | scrub => exact (storeSide_stepScrub s).memoriesKept.sound hs
  | readglyph => exact (storeSide_stepReadglyph s).memoriesKept.sound hs
  | check => exact (storeSide_stepCheck s).memoriesKept.sound hs
  | badKind => exact (storeSide_stepBadKind s).memoriesKept.sound hs
  | scanEnd _ => exact (storeSide_startUpScanEnd s).memoriesKept.sound hs
  | powerOn => exact powerOn_tablesSound hs
  | reset => exact resetPart_tablesSound hs
  | release load => exact (memoriesKept_releaseReset load s).sound hs
  | supply => exact (memoriesKept_lowvAsserted s).sound hs

/-- Settles O57: undisturbed work keeps the tables, and so does each operation that reaches them. -/
theorem everyStepKeepsTheMemoriesAndPatchCodes : Obligations.EveryStepKeepsTheMemoriesAndPatchCodes := by
  intro s t hmem hcodes h
  exact step_keeps (P := State.tablesSound) (fun _ _ hs hk => hk.memories.sound hs) (fun _ _ hs hr => hr.tablesSound hs)
    ⟨hmem, hcodes⟩ h

end Sys2Proof.Machine
end

section
/-! SUPPORT. The bank role table under the changes that the store engine makes to it: a spare that changes its role, a
staging that opens or closes, a commit, and what the start-up scan builds (R100, R116, R125, R130, R148, R150). -/

namespace Sys2Proof.Machine

/-! ## States past the start-up -/

/-- The part runs, start-up is over, and the bank role table agrees with the maps and the staging record: what the roles
need whatever the command in flight may be doing. -/
structure State.settled (s : State) : Prop where
  held : s.part.resetHeld = false
  scan : s.store.scan = none
  running : s.store.engine ≠ .starting
  table : s.banksAgree

/-- With a command in flight start-up is over, and the command agrees with the table. -/
theorem State.rolesConsistent.settled {s : State} {f : InFlight} (hs : s.rolesConsistent)
    (hf : s.store.inFlight = some f) : s.settled ∧ s.store.flightAgrees f := by
  obtain ⟨hstart, hidle, htable, hflight, -⟩ := hs
  have hrun : s.store.engine ≠ .starting := fun he => by
    rw [(hidle he).1] at hf
    cases hf
  refine ⟨⟨?_, ?_, hrun, htable hrun⟩, hflight f hf⟩
  · simpa using fun h => hrun (hstart (.inl h))
  · simpa using fun h => hrun (hstart (.inr h))

/-- A settled state is consistent when its command in flight agrees with the table. -/
theorem State.settled.consistent {s : State} (h : s.settled)
    (hf : ∀ f, s.store.inFlight = some f → s.store.flightAgrees f) : s.rolesConsistent :=
  ⟨by simp [h.held, h.scan], fun he => absurd he h.running, fun _ => h.table, hf, by simp [h.scan]⟩

theorem BanksKept.settled {s t : State} (h : BanksKept s t) (hs : s.settled) : t.settled :=
  ⟨h.held.trans hs.held, h.scan.trans hs.scan, mt h.starting.1 hs.running, h.table hs.table⟩

/-- A new table in a settled state. -/
theorem State.settled.of_table {s t : State} (hs : s.settled) (hp : t.part = s.part) (hc : t.store.scan = s.store.scan)
    (he : t.store.engine = s.store.engine) (ht : t.banksAgree) : t.settled :=
  ⟨by rw [hp, hs.held], by rw [hc, hs.scan], by rw [he]; exact hs.running, ht⟩

/-! ## Roles that change -/

/-- A bank that neither map may name takes a role that neither map needs. -/
theorem tableAgrees_of_role {a b : Store} {display : Vector Bank 14} {x : Bank} {r : Role} (h : a.tableAgrees display)
    (hmap : b.storeMap = a.storeMap)
    (hroles : ∀ c : Bank, (b.roles.get c).role = if c = x then r else (a.roles.get c).role)
    (hx : ¬(a.roles.get x).role.shown) (hr : ∀ l, r ≠ .mapped l)
    (hstaging : ∀ c : Bank, (b.roles.get c).role = .staging ↔ b.staging.map Staging.bank = some c) :
    b.tableAgrees display := by
  obtain ⟨hmapped, honly, hshown, -⟩ := h
  have hstore : ∀ l, a.storeMap.get l ≠ x := fun l e => hx (by rw [← e, hmapped]; trivial)
  have hdisplay : ∀ l, display.get l ≠ x := fun l e => hx (by rw [← e]; exact hshown l)
  refine ⟨fun l => ?_, fun c l hc => ?_, fun l => ?_, hstaging⟩
  · rw [hmap, hroles, if_neg (hstore l)]
    exact hmapped l
  · rw [hmap]
    rw [hroles] at hc
    split at hc
    · exact absurd hc (hr l)
    · exact honly c l hc
  · rw [hroles, if_neg (hdisplay l)]
    exact hshown l

theorem setRole_role (s : State) (b c : Bank) (r : Role) :
    ((s.setRole b r).store.roles.get c).role = if c = b then r else (s.store.roles.get c).role := by
  rw [setRole_roles]
  split <;> rfl

/-- A dirty spare that becomes a clean one, or is retired. -/
theorem setRole_settled {s : State} {b : Bank} {r : Role} (hs : s.settled) (hb : (s.store.roles.get b).role = .spareDirty)
    (hr : ∀ l, r ≠ .mapped l) (hn : r ≠ .staging) : (s.setRole b r).settled := by
  have hstaging := hs.table.2.2.2
  refine hs.of_table rfl rfl rfl
    (tableAgrees_of_role hs.table rfl (setRole_role s b · r) (by simp [hb, Role.shown]) hr fun c => ?_)
  rw [setRole_role]
  split
  · rename_i hc
    have hnot := mt (hstaging c).2 (by rw [hc, hb]; decide)
    exact iff_of_false hn hnot
  · exact hstaging c

/-- A spare that neither map names becomes the bank of a staging that opens. -/
theorem staging_settled {s : State} {g : Staging} (hs : s.settled) (hnone : s.store.staging = none)
    (hb : ¬(s.store.roles.get g.bank).role.shown) :
    State.settled { s.setRole g.bank .staging with
      store := { (s.setRole g.bank .staging).store with staging := some g } } := by
  have hstaging := hs.table.2.2.2
  refine hs.of_table rfl rfl rfl
    (tableAgrees_of_role hs.table rfl (setRole_role s g.bank · .staging) hb (by simp) fun c => ?_)
  have hnot : (s.store.roles.get c).role ≠ .staging := by
    rw [Ne, hstaging c, hnone]
    simp
  show ((s.setRole g.bank .staging).store.roles.get c).role = .staging ↔ some g.bank = some c
  rw [setRole_role, Option.some_inj]
  split
  · rename_i hc; exact iff_of_true rfl hc.symm
  · rename_i hc; exact iff_of_false hnot (Ne.symm hc)

/-- A staging that closes leaves its bank a spare. -/
theorem closeStaging_settled {r : Role} {s : State} (hs : s.settled) (hr : ∀ l, r ≠ .mapped l) (hn : r ≠ .staging) :
    (closeStaging r s).settled := by
  unfold closeStaging
  split
  · exact hs
  · rename_i g hg
    have hstaging := hs.table.2.2.2
    have hbank : (s.store.roles.get g.bank).role = .staging := (hstaging _).2 (by rw [hg]; rfl)
    refine hs.of_table rfl rfl rfl
      (tableAgrees_of_role hs.table rfl (setRole_role s g.bank · r) (by simp [hbank, Role.shown]) hr fun c => ?_)
    refine iff_of_false ?_ nofun
    show ((s.setRole g.bank r).store.roles.get c).role ≠ .staging
    rw [setRole_role]
    split
    · exact hn
    · rename_i hc
      rw [Ne, hstaging c, hg]
      exact fun h => hc (Option.some_inj.1 h).symm

/-- The change of the store map at a commit: the staged bank takes the place of the old one, which becomes a spare. -/
theorem tableAgrees_commit {a b : Store} {display shown : Vector Bank 14} {g : Staging} {r : Role}
    (h : a.tableAgrees display) (hg : a.staging = some g)
    (hmap : ∀ l, b.storeMap.get l = if l = g.target then g.bank else a.storeMap.get l) (hclosed : b.staging = none)
    (hroles : ∀ c : Bank, (b.roles.get c).role =
      if c = g.bank then .mapped g.target else if c = a.storeMap.get g.target then r else (a.roles.get c).role)
    (hr : ∀ l, r ≠ .mapped l) (hn : r ≠ .staging)
    (hshow : shown = display ∧ r.shown ∨ shown = b.storeMap) : b.tableAgrees shown := by
  obtain ⟨hmapped, honly, hshown, hstaging⟩ := h
  have hbank : (a.roles.get g.bank).role = .staging := (hstaging _).2 (by rw [hg]; rfl)
  have hstore : ∀ l, a.storeMap.get l ≠ g.bank := fun l e => by
    have := hmapped l
    rw [e, hbank] at this
    cases this
  have hdisplay : ∀ l, display.get l ≠ g.bank := fun l e => by
    have := hshown l
    rw [e, hbank] at this
    exact this
  have hmapped' : ∀ l, (b.roles.get (b.storeMap.get l)).role = .mapped l := by
    intro l
    rw [hmap]
    split
    · rename_i hl
      rw [hroles, if_pos rfl, hl]
    · rename_i hl
      have hold : a.storeMap.get l ≠ a.storeMap.get g.target := fun e => hl (by
        have := hmapped l
        rw [e, hmapped] at this
        injection this with this
        exact this.symm)
      rw [hroles, if_neg (hstore l), if_neg hold, hmapped]
  refine ⟨hmapped', fun c l hc => ?_, fun l => ?_, fun c => ?_⟩
  · rw [hroles] at hc
    rw [hmap]
    split at hc
    · rename_i hcb
      injection hc with hl
      rw [if_pos hl.symm, hcb]
    · split at hc
      · exact absurd hc (hr l)
      · rename_i hold
        have hl := honly c l hc
        rw [if_neg (fun e => hold (by rw [← e, hl])), hl]
  · rcases hshow with ⟨rfl, hrs⟩ | rfl
    · rw [hroles, if_neg (hdisplay l)]
      split
      · exact hrs
      · exact hshown l
    · rw [hmapped']
      trivial
  · rw [hclosed, hroles]
    refine iff_of_false ?_ nofun
    split
    · simp
    · split
      · exact hn
      · rename_i hcb _
        rw [hstaging, hg]
        exact fun e => hcb (Option.some_inj.1 e).symm

/-- The roles after a commit, before the copy that a disabled display makes. -/
theorem commitRoles_get (s : State) (g : Staging) (r : Role) (c : Bank) :
    (((s.setRole (s.store.storeMap.get g.target) r).setRole g.bank (.mapped g.target)).store.roles.get c).role =
      if c = g.bank then .mapped g.target else if c = s.store.storeMap.get g.target then r
      else (s.store.roles.get c).role := by
  rw [setRole_role]
  split
  · rfl
  · exact setRole_role _ _ _ _

theorem commitChanges_settled {s : State} {g : Staging} (hs : s.settled) (hg : s.store.staging = some g) :
    (commitChanges g s).settled := by
  unfold commitChanges
  dsimp only
  split
  · exact hs.of_table rfl rfl rfl (tableAgrees_commit hs.table hg (fun l => vector_get_set _ g.target l g.bank) rfl
      (commitRoles_get s g _) (by simp) (by simp) (.inl ⟨rfl, trivial⟩))
  · exact hs.of_table rfl rfl rfl (tableAgrees_copy (tableAgrees_commit (shown := s.store.storeMap.set g.target.val g.bank
      g.target.isLt) hs.table hg (fun l => vector_get_set _ g.target l g.bank) rfl (commitRoles_get s g _) (by simp)
      (by simp) (.inr rfl)))

/-! ## What the start-up scan builds -/

/-- The logical bank that the scan finds for a bank is the one whose place in the map holds it. -/
theorem homeOf_get {m : Vector Bank 14} (h : m.toList.Nodup) (l : Logical) : homeOf m (m.get l).val = some l := by
  have hget : ∀ k : Logical, m.toList.getD k.val 0 = m.get k := fun k => by
    simp [List.getD_eq_getElem?_getD, Vector.get_eq_getElem]
  have hfind : (List.range 14).find? (fun k => decide ((m.toList.getD k 0).val = (m.get l).val)) = some l.val := by
    rw [List.find?_range_eq_some]
    refine ⟨by rw [hget]; simp, List.mem_range.2 l.isLt, fun j hj => ?_⟩
    have hj14 : j < 14 := hj.trans l.isLt
    rw [hget ⟨j, hj14⟩]
    simp only [Bool.not_eq_eq_eq_not, Bool.not_true, decide_eq_false_iff_not, ← Fin.ext_iff]
    intro e
    rw [Vector.get_eq_getElem, Vector.get_eq_getElem] at e
    have hinj := (List.Nodup.getElem_inj_iff h (i := j) (j := l.val) (hi := by simp [hj14]) (hj := by simp)).1
      (by simpa using e)
    omega
  simp only [homeOf, hfind, Option.map_some, Option.some_inj]
  exact Fin.ext (Nat.mod_eq_of_lt l.isLt)

/-- A bank that the scan finds a logical bank for is the one that the map names there. -/
theorem get_of_homeOf {m : Vector Bank 14} {b : Bank} {l : Logical} (h : homeOf m b.val = some l) : m.get l = b := by
  obtain ⟨k, hk, rfl⟩ := Option.map_eq_some_iff.1 h
  have hlt := List.mem_range.1 (List.mem_of_find?_eq_some hk)
  have hval := List.find?_some hk
  rw [decide_eq_true_eq] at hval
  apply Fin.ext
  rw [← hval, Vector.get_eq_getElem]
  simp [List.getD_eq_getElem?_getD, Nat.mod_eq_of_lt hlt, hlt]

theorem scannedRoles_get (m : Vector Bank 14) (mask : Word16) (headers : List (Option Word16)) (b : Bank) :
    (scannedRoles m mask headers).get b =
      { role := scannedRole m mask b.val, count := (headers.getD b.val none).getD (largestCount headers)
        estimated := (headers.getD b.val none).isNone } := by
  rw [Vector.get_eq_getElem]
  simp [scannedRoles]

theorem scannedRole_mapped {m : Vector Bank 14} (h : m.toList.Nodup) (mask : Word16) (l : Logical) :
    scannedRole m mask (m.get l).val = .mapped l := by
  simp [scannedRole, homeOf_get h]

/-- A map record without a repeated bank gives a table that agrees with it, no staging open. -/
theorem tableAgrees_scanned {st : Store} {m : Vector Bank 14} {mask : Word16} {headers : List (Option Word16)}
    (h : m.toList.Nodup) (hm : st.storeMap = m) (hr : st.roles = scannedRoles m mask headers)
    (hs : st.staging = none) : st.tableAgrees m := by
  have hmapped : ∀ l, (st.roles.get (m.get l)).role = .mapped l := fun l => by
    rw [hr, scannedRoles_get]
    exact scannedRole_mapped h mask l
  refine ⟨fun l => by rw [hm]; exact hmapped l, fun b l hb => ?_, fun l => by rw [hmapped]; trivial, fun b => ?_⟩
  · rw [hr, scannedRoles_get] at hb
    rw [hm]
    apply get_of_homeOf
    revert hb
    unfold scannedRole
    dsimp only
    split
    · rename_i k hk
      rintro ⟨⟩
      exact hk
    · split <;> nofun
  · rw [hs, hr, scannedRoles_get]
    refine iff_of_false ?_ nofun
    show scannedRole m mask b.val ≠ .staging
    unfold scannedRole
    split
    · nofun
    · split <;> nofun

/-- The record that the scan chooses is one of those that it has read. -/
theorem bestRecord_mem {slots : List SlotClass} {k n : Nat} {r : MapRecord} (h : bestRecord k slots = some (n, r)) :
    .valid r ∈ slots := by
  induction slots generalizing k with
  | nil => cases h
  | cons c rest ih =>
    unfold bestRecord at h
    split at h
    · rename_i q m x hrest
      split at h
      · cases h; exact List.mem_cons_of_mem _ (ih hrest)
      · cases h; exact List.mem_cons_self ..
    · cases h; exact List.mem_cons_self ..
    · exact List.mem_cons_of_mem _ (ih h)

/-- The map that the scan adopts repeats no bank. -/
theorem adoptedRecord_nodup {slots : List SlotClass} (h : ∀ r, .valid r ∈ slots → r.map.toList.Nodup) :
    (adoptedRecord slots).map.toList.Nodup := by
  unfold adoptedRecord
  split
  · rename_i hbest
    exact h _ (bestRecord_mem hbest)
  · decide

/-- A slot that reads VALID holds a map that repeats no bank (R142). -/
theorem classify_nodup {l : List Byte} {r : MapRecord} (h : classify l = .valid r) : r.map.toList.Nodup := by
  unfold classify at h
  split at h
  · cases h
  · split at h
    · rename_i hvalid
      cases h
      simp only [slotValid, Bool.and_eq_true, decide_eq_true_eq] at hvalid
      exact hvalid.1.2
    · cases h

end Sys2Proof.Machine
end

section
/-! SUPPORT. The bank roles: every operation of the store engine, the start-up scan, RESET# and the supply keep them
consistent with the maps, the staging record and the command in flight (R100, R116, R125 to R130, R138, R139, R148). -/

namespace Sys2Proof.Machine

/-! ## The ends of commands -/

theorem pushResult_consistent (r : ResultRec) {s : State} (hs : s.settled) : (pushResult r s).rolesConsistent :=
  ((banksKept_pushResult r s).settled hs).consistent fun _ hf => by cases hf

/-- A command that ends DONE leaves the roles consistent, whatever it was doing. -/
theorem endDone_consistent (p : Option Bank) (d c : Word16) (i : List Byte) {s : State} (hs : s.settled) :
    (endDone p d c i s).rolesConsistent := by
  unfold endDone
  split
  · rename_i hf
    exact hs.consistent (by simp [hf])
  · exact (banksKept_loaderTakes _ _).consistent
      ((banksKept_startHead (by exact hs.running)).consistent (pushResult_consistent _ hs))

/-- A command that fails leaves the roles consistent, whatever it was doing. -/
theorem endFailed_consistent (e : ErrCode) (p : Option Bank) (d : Word16) {s : State} (hs : s.settled) :
    (endFailed e p d s).rolesConsistent := by
  unfold endFailed
  split
  · rename_i hf
    exact hs.consistent (by simp [hf])
  · exact (banksKept_loaderTakes _ _).consistent ((banksKept_raise _ _).consistent
      ((banksKept_setEngine .none (by simpa using hs.running) (by decide)).consistent
        ((banksKept_discardQueue _).consistent (pushResult_consistent _ hs))))

theorem endAborted_consistent (p : Option Bank) {s : State} (hs : s.settled) : (endAborted p s).rolesConsistent := by
  unfold endAborted
  split
  · rename_i hf
    exact hs.consistent (by simp [hf])
  · exact (banksKept_setEngine .none (by simpa using hs.running) (by decide)).consistent
      ((banksKept_discardQueue _).consistent (pushResult_consistent _ hs))

/-! ## Cuts -/

theorem banksKept_cutMapWrite (f : InFlight) (s : State) : BanksKept s (cutMapWrite f s) := by
  unfold cutMapWrite
  split
  · split
    · exact .of_view rfl
    · exact .refl s
  · exact .refl s

/-- What a cut leaves of the banks agrees with the table: a CLONE's or PROGRAM's staging closes. -/
theorem cutEffects_settled (f : InFlight) {s : State} (hs : s.settled) : (cutEffects f s).settled := by
  unfold cutEffects
  split
  case h_1 | h_2 => exact closeStaging_settled hs (by simp) (by simp)
  case h_3 | h_4 => exact (banksKept_cutMapWrite f s).settled hs
  all_goals exact hs

theorem cutBySupply_consistent {s : State} (hs : s.rolesConsistent) : (cutBySupply s).rolesConsistent := by
  unfold cutBySupply
  split
  · exact hs
  · rename_i f hf
    obtain ⟨hset, -⟩ := hs.settled hf
    split
    · exact endFailed_consistent _ _ _ (cutEffects_settled f hset)
    · exact endFailed_consistent _ _ _ (cutEffects_settled f hset)

/-- A cut of a pulse reaches the array, its port and the count of free values alone. -/
theorem banksKept_cutPulse (s : State) : BanksKept s (cutPulse s) := by
  have hpulse : ∀ p, BanksKept s (freeArrayPort (cutPulseArray p s)) := by
    intro p
    unfold cutPulseArray
    dsimp only
    split <;> exact .of_view rfl
  have hsub : ∀ u, BanksKept s (freeArrayPort (cutSubPulseArray u s)) := by
    intro u
    unfold cutSubPulseArray
    dsimp only
    split <;> exact .of_view rfl
  unfold cutPulse
  split
  · split
    · exact hpulse _
    · exact .of_view rfl
  · exact hsub _
  · exact .refl s

/-! ## The command in flight goes on -/

/-- The command in flight changes into one that agrees with the table too. -/
theorem withFlight_consistent {g : InFlight → InFlight} {s : State} (hs : s.rolesConsistent)
    (hg : ∀ f, s.store.inFlight = some f → s.store.flightAgrees f → s.store.flightAgrees (g f)) :
    (s.withFlight g).rolesConsistent := by
  rcases hf : s.store.inFlight with _ | f
  · exact (BanksKept.of_view (s := s) (t := s.withFlight g) (by simp [State.bankView, State.withFlight, hf])).consistent hs
  · obtain ⟨hset, hagrees⟩ := hs.settled hf
    have hkept : State.settled (s.withFlight g) := hset.of_table rfl rfl rfl hset.table
    refine hkept.consistent fun x hx => ?_
    obtain ⟨f', hf', rfl⟩ := Option.map_eq_some_iff.1 hx
    exact hg f' hf' (by rw [hf] at hf'; cases hf'; exact hagrees)

/-- A change that leaves the command's business alone. -/
theorem withFlight_sameBusiness {g : InFlight → InFlight} {s : State} (hs : s.rolesConsistent)
    (hg : ∀ f, (g f).business = f.business) : (s.withFlight g).rolesConsistent :=
  (banksKept_withFlight g hg s).consistent hs

/-- The command in flight erases no bank. -/
def State.noBankErase (s : State) : Prop := ∀ f b, s.store.inFlight = some f → f.stage ≠ .erasing b

/-- A command that erases no bank and goes on to other business, in which it erases and waits for nothing. -/
theorem withFlight_quiet {g : InFlight → InFlight} {s : State} (hs : s.rolesConsistent) (hn : s.noBankErase)
    (he : ∀ f, (g f).erase = f.erase ∨ (g f).erase = none)
    (hstage : ∀ f b, (g f).stage ≠ .erasing b) (hdrain : ∀ f, (g f).stage ≠ .draining) :
    (s.withFlight g).rolesConsistent := by
  refine withFlight_consistent hs fun f hf ⟨_, _, htarget⟩ => flightAgrees_of_quiet (hstage f) (hdrain f) ?_
  intro e b hge ht
  rcases he f with h | h
  · exact hn f b hf (htarget e b (h ▸ hge) ht)
  · rw [h] at hge
    cases hge

theorem presentPulse_consistent (r : StoreReq) {s : State} (hs : s.rolesConsistent) :
    (presentPulse r s).rolesConsistent := by
  unfold presentPulse
  split
  · exact cutBySupply_consistent hs
  · exact (banksKept_storeRequest r s).consistent hs

theorem presentDeferred_consistent {s : State} (hs : s.rolesConsistent) : (presentDeferred s).rolesConsistent := by
  unfold presentDeferred
  split
  · exact hs
  · have hnone : State.rolesConsistent { s with store := { s.store with deferred := none } } := hs
    dsimp only
    split
    · exact (banksKept_storeRequest _ _).consistent hnone
    · exact presentPulse_consistent _ hnone
    · exact presentPulse_consistent _ hnone

theorem startProg_consistent (u : ArrUnit) (l : List Byte) (n : Nat) {s : State} (hs : s.rolesConsistent) :
    (startProg u l n s).rolesConsistent := by
  unfold startProg
  dsimp only
  split
  · exact withFlight_sameBusiness hs fun _ => rfl
  · exact presentPulse_consistent _ (withFlight_sameBusiness hs fun _ => rfl)

/-- The command in flight is erasing the bank of this unit, when it is one. -/
def State.erases (s : State) (u : EraseUnit) : Prop := ∀ f b, s.store.inFlight = some f → u = .bank b → f.stage = .erasing b

/-- An erase under way is of a bank that its command is erasing. -/
theorem State.rolesConsistent.erases {s : State} {f : InFlight} {e : EraseOp} (hs : s.rolesConsistent)
    (hf : s.store.inFlight = some f) (he : f.erase = some e) : s.erases e.target := by
  intro f' b hf' ht
  rw [hf, Option.some_inj] at hf'
  subst hf'
  obtain ⟨-, -, -, htarget⟩ := hs.settled hf
  exact htarget e b he ht

/-- The erase of the command in flight takes a new form, on a unit that the command is erasing. -/
theorem withErase_consistent {e : EraseOp} {s : State} (hs : s.rolesConsistent) (hu : s.erases e.target) :
    (s.withFlight fun f => { f with erase := some e }).rolesConsistent := by
  refine withFlight_consistent hs fun f hf ⟨herasing, hdraining, _⟩ => ⟨herasing, hdraining, fun e' b he ht => ?_⟩
  cases he
  exact hu f b hf ht

theorem startPrewrite_consistent {u : EraseUnit} (k : Nat) {s : State} (hs : s.rolesConsistent) (hu : s.erases u) :
    (startPrewrite u k s).rolesConsistent := startProg_consistent _ _ _ (withErase_consistent hs hu)

theorem startSubPulse_consistent {e : EraseOp} {s : State} (hs : s.rolesConsistent) (hu : s.erases e.target) :
    (startSubPulse e s).rolesConsistent := presentPulse_consistent _ (withErase_consistent hs hu)

/-! ## Map writes -/

theorem startSlot_consistent (m : MapOp) (ar : Area) (n : Fin 8) {s : State} (hs : s.rolesConsistent) :
    (startSlot m ar n s).rolesConsistent := by
  refine startProg_consistent _ _ _ (withFlight_consistent hs fun f _ ⟨herasing, hdraining, _⟩ => ?_)
  exact ⟨herasing, hdraining, fun _ _ he => by cases he⟩

theorem startMarker_consistent (m : MapOp) (n : Nat) {s : State} (hs : s.rolesConsistent) :
    (startMarker m n s).rolesConsistent := startProg_consistent _ _ _ (withFlight_sameBusiness hs fun _ => rfl)

theorem mapFails_consistent (d : Word16) {s : State} (hs : s.rolesConsistent) : (mapFails d s).rolesConsistent := by
  unfold mapFails
  split
  · exact hs
  · rename_i f hf
    obtain ⟨hset, -⟩ := hs.settled hf
    split
    · exact endFailed_consistent _ _ _ hset
    · exact endFailed_consistent _ _ _ hset

theorem chooseSlot_consistent (m : MapOp) {s : State} (hs : s.rolesConsistent) : (chooseSlot m s).rolesConsistent := by
  unfold chooseSlot
  split
  · exact startSlot_consistent _ _ _ hs
  · exact startPrewrite_consistent 0 (withFlight_sameBusiness hs fun _ => rfl) fun f b _ h => by cases h

theorem startMapWrite_consistent (v : Vector Bank 14) (w : Word16) {s : State} (hs : s.rolesConsistent) :
    (startMapWrite v w s).rolesConsistent := by
  unfold startMapWrite
  split
  · exact mapFails_consistent _ hs
  · exact chooseSlot_consistent _ hs

theorem banksKept_passSlot (m : MapOp) (s : State) : BanksKept s (passSlot m s) := .of_view rfl

theorem slotFails_consistent (m : MapOp) {s : State} (hs : s.rolesConsistent) : (slotFails m s).rolesConsistent := by
  have hpass := (banksKept_passSlot m s).consistent hs
  unfold slotFails
  dsimp only
  split
  · exact mapFails_consistent _ hpass
  · exact chooseSlot_consistent _ (withFlight_sameBusiness hpass fun _ => rfl)

/-- The end of a map write: a retirement's fails its command, and COMMIT's changes the map in one step (R127, R130). -/
theorem mapSucceeds_consistent (m : MapOp) {s : State} (hs : s.rolesConsistent) : (mapSucceeds m s).rolesConsistent := by
  have hwritten : BanksKept s { s with store := { s.store with journal := s.store.journal.written m } } := .of_view rfl
  unfold mapSucceeds
  dsimp only
  split
  · rename_i f _ hf
    obtain ⟨hset, -⟩ := hs.settled hf
    split
    · exact endFailed_consistent _ _ _ (hwritten.settled hset)
    · rename_i hg _
      exact endDone_consistent _ _ _ _ (commitChanges_settled (hwritten.settled hset) hg)
    · exact hwritten.consistent hs
  · exact hwritten.consistent hs

/-! ## Erases -/

/-- The spare that a command erases is dirty (R116, R126). -/
theorem State.rolesConsistent.erasing {s : State} {f : InFlight} {b : Bank} (hs : s.rolesConsistent)
    (hf : s.store.inFlight = some f) (hb : f.stage = .erasing b) : (s.store.roles.get b).role = .spareDirty := by
  obtain ⟨-, herasing, -⟩ := hs.settled hf
  exact (herasing b hb).1

/-- A bank that fails its erase is retired, and no map names it (R127, R148). -/
theorem retireBank_consistent {b : Bank} (c : Byte) {s : State} {f : InFlight} (hs : s.rolesConsistent)
    (hf : s.store.inFlight = some f) (hb : f.stage = .erasing b) : (retireBank b c s).rolesConsistent := by
  refine startMapWrite_consistent _ _ ?_
  have hset : (raise .retire (s.setRole b .retired)).settled :=
    (banksKept_raise _ _).settled (setRole_settled (hs.settled hf).1 (hs.erasing hf hb) (by simp) (by simp))
  have hkept : State.settled ((raise .retire (s.setRole b .retired)).withFlight fun f =>
      { f with stage := .retiring b c, prog := none, erase := none }) := hset.of_table rfl rfl rfl hset.table
  refine hkept.consistent fun x hx => ?_
  obtain ⟨-, -, rfl⟩ := Option.map_eq_some_iff.1 hx
  exact flightAgrees_of_quiet (by simp) (by simp) (by simp)

theorem eraseFails_consistent {e : EraseOp} (c : Byte) {s : State} {f : InFlight} (hs : s.rolesConsistent)
    (hf : s.store.inFlight = some f) (he : f.erase = some e) : (eraseFails e c s).rolesConsistent := by
  unfold eraseFails
  split
  · rename_i ht
    exact retireBank_consistent c hs hf (hs.erases hf he f _ hf ht)
  · exact mapFails_consistent _ hs

theorem openStaging_consistent {b : Bank} (l : Logical) (n : Nat) {s : State} (hs : s.settled)
    (hnone : s.store.staging = none) (hb : ¬(s.store.roles.get b).role.shown) :
    (openStaging b l n s).rolesConsistent :=
  endDone_consistent _ _ _ _
    (staging_settled (g := { bank := b, target := l, filling := false, written := 0 }) hs hnone hb)

theorem countErase_role (b c : Bank) (s : State) :
    ((countErase b s).store.roles.get c).role = (s.store.roles.get c).role := by
  unfold countErase
  dsimp only
  rw [vector_get_set]
  split
  · rename_i h; rw [h]
  · rfl

/-- A count that rises changes no role. -/
theorem banksKept_countErase (b : Bank) (s : State) : BanksKept s (countErase b s) where
  held := rfl
  scan := rfl
  starting := .rfl
  closed := id
  table := by
    rintro ⟨hmapped, honly, hshown, hstaging⟩
    refine ⟨fun l => ?_, fun c l hc => honly c l ?_, fun l => ?_, fun c => ?_⟩
    · rw [countErase_role]; exact hmapped l
    · rwa [countErase_role] at hc
    · rw [countErase_role]; exact hshown l
    · rw [countErase_role]; exact hstaging c
  dirty c hc := by rwa [countErase_role]
  flight f hf := .inr ⟨f, hf, rfl⟩

/-- An erased spare becomes the bank of BEGIN's staging, since none is open then, or a clean spare (R126, R133). -/
theorem bankErased_consistent {b : Bank} (e : EraseOp) {s : State} {f : InFlight} (hs : s.rolesConsistent)
    (hf : s.store.inFlight = some f) (hb : f.stage = .erasing b) : (bankErased b e s).rolesConsistent := by
  have hc := (banksKept_countErase b s).consistent hs
  have hset := (banksKept_countErase b s).settled (hs.settled hf).1
  have hdirty := (banksKept_countErase b s).dirty b (hs.erasing hf hb)
  unfold bankErased
  dsimp only
  split
  · exact hc
  · rename_i f' hf'
    rw [hf, Option.some_inj] at hf'
    subst hf'
    split
    · rename_i v hv
      split
      · obtain ⟨-, herasing, -⟩ := hs.settled hf
        exact openStaging_consistent _ _ hset ((herasing b hb).2 v hv) (by simp [hdirty, Role.shown])
      · exact hc
    · exact endDone_consistent _ _ _ _ (setRole_settled hset hdirty (by simp) (by simp))

theorem areaErased_consistent (ar : Area) {s : State} (hs : s.rolesConsistent) : (areaErased ar s).rolesConsistent := by
  unfold areaErased
  split
  · exact hs
  · exact startSlot_consistent _ _ _ (BanksKept.consistent (s := s) (.of_view rfl) hs)

theorem eraseVerified_consistent {e : EraseOp} (raw : List Byte) {s : State} {f : InFlight} (hs : s.rolesConsistent)
    (hf : s.store.inFlight = some f) (he : f.erase = some e) : (eraseVerified e raw s).rolesConsistent := by
  have hu := hs.erases hf he
  unfold eraseVerified
  split
  · split
    · exact startProg_consistent _ _ _ (withErase_consistent (e := { e with stage := .header }) hs hu)
    · exact areaErased_consistent _ hs
  · split
    · exact startSubPulse_consistent hs hu
    · exact withErase_consistent (e := { e with stage := .spent }) hs hu

/-! ## Program operations -/

/-- Work on the staging record that keeps its bank. -/
theorem banksKept_mapStaging (g : Staging → Staging) (hg : ∀ x, (g x).bank = x.bank) (s : State) :
    BanksKept s { s with store := { s.store with staging := s.store.staging.map g } } where
  held := rfl
  scan := rfl
  starting := .rfl
  closed h := by simp [h]
  table := by
    rintro ⟨hmapped, honly, hshown, hstaging⟩
    refine ⟨hmapped, honly, hshown, fun b => (hstaging b).trans ?_⟩
    simp [Option.map_map, Function.comp_def, hg]
  dirty _ := id
  flight f hf := .inr ⟨f, hf, rfl⟩

theorem banksKept_joinWritten (i : Nat) (s : State) : BanksKept s (joinWritten i s) :=
  banksKept_mapStaging (fun g => { g with written := setBit g.written i }) (fun _ => rfl) s

theorem banksKept_startFilling (s : State) : BanksKept s (startFilling s) :=
  banksKept_mapStaging (fun g => { g with filling := true }) (fun _ => rfl) s

theorem cloneFrom_consistent (i n : Nat) {s : State} (hs : s.rolesConsistent) (hn : s.noBankErase) :
    (cloneFrom i n s).rolesConsistent := by
  unfold cloneFrom
  split
  · rename_i f g hf _
    split
    · exact (banksKept_storeRequest _ _).consistent (withFlight_quiet hs hn (fun _ => .inl rfl) (by simp) (by simp))
    · exact endDone_consistent _ _ _ _ (hs.settled hf).1
  · exact hs

theorem cloneDone_consistent (i n p : Nat) {s : State} (hs : s.rolesConsistent) (hn : s.noBankErase) :
    (cloneDone i n p s).rolesConsistent :=
  cloneFrom_consistent _ _ ((banksKept_joinWritten i s).consistent hs) hn

theorem programDone_consistent (p : Nat) {s : State} (hs : s.rolesConsistent) : (programDone p s).rolesConsistent := by
  unfold programDone
  split
  · exact hs
  · rename_i f hf
    exact endDone_consistent _ _ _ _ ((banksKept_joinWritten _ s).settled (hs.settled hf).1)

theorem writeGlyph_consistent (b : Bank) (g : Nat) (raw : List Byte) {k : State → State} {s : State}
    (hs : s.rolesConsistent) (hk : (k s).rolesConsistent) : (writeGlyph b g raw k s).rolesConsistent := by
  unfold writeGlyph
  split
  · exact hk
  · exact startProg_consistent _ _ _ hs

theorem cloneProgram_consistent (i n : Nat) (raw : List Byte) {s : State} (hs : s.rolesConsistent) (hn : s.noBankErase) :
    (cloneProgram i n raw s).rolesConsistent := by
  unfold cloneProgram
  split
  · exact hs
  · exact writeGlyph_consistent _ _ _ hs (cloneDone_consistent _ _ _ hs hn)

theorem eraseProgDone_consistent {e : EraseOp} {s : State} {f : InFlight} (hs : s.rolesConsistent)
    (hf : s.store.inFlight = some f) (he : f.erase = some e) : (eraseProgDone e s).rolesConsistent := by
  have hu := hs.erases hf he
  unfold eraseProgDone
  split
  · split
    · exact startPrewrite_consistent _ hs hu
    · exact startSubPulse_consistent (e := { e with pace := s.ctl.pace, given := 0 }) hs hu
  · split
    · rename_i ht
      exact bankErased_consistent e hs hf (hu f _ hf ht)
    · exact hs
  all_goals exact hs

theorem progDone_consistent {f : InFlight} (p : ProgOp) {s : State} (hs : s.rolesConsistent)
    (hf : s.store.inFlight = some f) : (progDone f p s).rolesConsistent := by
  have hs1 := withFlight_sameBusiness (g := fun f => { f with prog := none }) hs fun _ => rfl
  have hf1 : (s.withFlight fun f => { f with prog := none }).store.inFlight = some { f with prog := none } :=
    congrArg (Option.map _) hf
  unfold progDone
  dsimp only
  split
  · rename_i he
    exact eraseProgDone_consistent hs1 hf1 he
  · split
    · exact startMarker_consistent _ _ hs1
    · exact mapSucceeds_consistent _ hs1
  · split
    · rename_i hstage
      refine cloneDone_consistent _ _ _ hs1 fun f' b hf' hb => ?_
      rw [hf1, Option.some_inj] at hf'
      subst hf'
      rw [hstage] at hb
      cases hb
    · exact programDone_consistent _ hs1

theorem progVerified_consistent {f : InFlight} (p : ProgOp) (raw : List Byte) {s : State} (hs : s.rolesConsistent)
    (hf : s.store.inFlight = some f) : (progVerified f p raw s).rolesConsistent := by
  unfold progVerified
  dsimp only
  split
  · exact progDone_consistent p hs hf
  · split
    · exact presentPulse_consistent _ (withFlight_sameBusiness hs fun _ => rfl)
    · exact withFlight_sameBusiness hs fun _ => rfl

theorem progFails_consistent {f : InFlight} {s : State} (hs : s.rolesConsistent) (hf : s.store.inFlight = some f) :
    (progFails f s).rolesConsistent := by
  have hclosed := closeStaging_settled (r := .spareDirty) (hs.settled hf).1 (by simp) (by simp)
  unfold progFails eraseProgFails
  split
  · rename_i he
    split
    · exact eraseFails_consistent _ hs hf he
    · exact eraseFails_consistent _ hs hf he
    all_goals exact hs
  · exact slotFails_consistent _ hs
  · split <;> exact endFailed_consistent _ _ _ hclosed

/-! ## The commands -/

/-- A command that has made no check yet erases no bank. -/
theorem noBankErase_of_fresh {s : State} {body : CmdBody} (h : s.freshBody = some body) : s.noBankErase := by
  intro f b hf hb
  simp [State.freshBody, hf, hb] at h

theorem freshBody_flight {s : State} {body : CmdBody} (h : s.freshBody = some body) :
    ∃ f, s.store.inFlight = some f ∧ f.stage = .fresh ∧ f.entry.body = body := by
  unfold State.freshBody at h
  split at h
  · rename_i f hf
    split at h
    · rename_i hfresh
      exact ⟨f, hf, hfresh, Option.some_inj.1 h⟩
    · cases h
  · cases h

/-- The bank that a choice of a spare names has the role that was asked for. -/
theorem lowestWith_role {v : Vector BankEntry 16} {r : Role} {b : Bank} (h : lowestWith v r = some b) :
    (v.get b).role = r := by
  have hfold : ∀ (l : List Bank) (best : Option Bank), (∀ c, best = some c → (v.get c).role = r) →
      ∀ c, l.foldl (fun best b =>
        if (v.get b).role = r then
          match best with
          | none => some b
          | some c => if (v.get b).count < (v.get c).count then some b else best
        else best) best = some c → (v.get c).role = r := by
    intro l
    induction l with
    | nil => exact fun _ hbest => hbest
    | cons x rest ih =>
      intro best hbest
      refine ih _ fun c hc => ?_
      dsimp only at hc
      split at hc
      · rename_i hx
        split at hc
        · cases hc; exact hx
        · split at hc
          · cases hc; exact hx
          · exact hbest c hc
      · exact hbest c hc
  exact hfold allBanks none nofun b h

/-- The erase of a dirty spare begins; for a BEGIN no staging is open. -/
theorem eraseSpare_consistent {b : Bank} {s : State} (hs : s.rolesConsistent) (hn : s.noBankErase)
    (hb : (s.store.roles.get b).role = .spareDirty)
    (hclosed : ∀ f v, s.store.inFlight = some f → f.entry.body = .stageBank v → s.store.staging = none) :
    (eraseSpare b s).rolesConsistent := by
  refine startPrewrite_consistent 0 (withFlight_consistent hs fun f hf ⟨_, _, htarget⟩ => ⟨?_, fun h => (by cases h), ?_⟩) ?_
  · rintro _ ⟨⟩
    exact ⟨hb, fun v => hclosed f v hf⟩
  · exact fun e x he ht => absurd (htarget e x he ht) (hn f x hf)
  · intro f x hf hx
    obtain ⟨f', -, rfl⟩ := Option.map_eq_some_iff.1 hf
    cases hx
    rfl

/-- BEGIN's choice, with no staging open (R117, R126). -/
theorem beginChoice_consistent (l : Logical) {s : State} {f : InFlight} (hs : s.rolesConsistent)
    (hf : s.store.inFlight = some f) (hn : s.noBankErase) (hclosed : s.store.staging = none) :
    (beginChoice l s).rolesConsistent := by
  obtain ⟨hset, -⟩ := hs.settled hf
  have hrun := banksKept_setEngine (e := .running) .none hset.running (by decide)
  have hchoice : ∀ c, chooseSpare s.store.roles = c →
      (∀ b, c = .clean b → (s.store.roles.get b).role = .spareClean) ∧
      (∀ b, c = .dirty b → (s.store.roles.get b).role = .spareDirty) := by
    rintro c rfl
    unfold chooseSpare
    split
    · rename_i hb
      exact ⟨fun _ h => by cases h; exact lowestWith_role hb, nofun⟩
    · rename_i hb
      exact ⟨nofun, fun _ h => by cases h; exact lowestWith_role hb⟩
    · split <;> exact ⟨nofun, nofun⟩
  unfold beginChoice
  split
  · rename_i b hb
    refine openStaging_consistent l 0 (hrun.settled hset) hclosed ?_
    show ¬(s.store.roles.get b).role.shown
    simp [(hchoice _ hb).1 b rfl, Role.shown]
  · rename_i b hb
    exact eraseSpare_consistent (hrun.consistent hs) hn ((hchoice _ hb).2 b rfl) fun _ _ _ _ => hclosed
  · have hwait := banksKept_setEngine (e := .waiting) .draining hset.running (by decide)
    refine withFlight_consistent (hwait.consistent hs) fun f' hf' ⟨_, _, htarget⟩ => ⟨fun _ h => (by cases h), fun _ => hclosed, ?_⟩
    exact fun e x he ht => absurd (htarget e x he ht) (hn f' x hf')
  · exact endFailed_consistent _ _ _ hset

theorem stepBegin_consistent {s : State} (hs : s.rolesConsistent) : (stepBegin s).rolesConsistent := by
  unfold stepBegin
  split
  · rename_i hfresh
    obtain ⟨f, hf, -⟩ := freshBody_flight hfresh
    obtain ⟨hset, -⟩ := hs.settled hf
    split
    · exact endFailed_consistent _ _ _ hset
    · split
      · exact endFailed_consistent _ _ _ hset
      · rename_i hclosed
        exact beginChoice_consistent _ hs hf (noBankErase_of_fresh hfresh) (by simpa using hclosed)
  · exact hs

/-- A BEGIN that waits for a spare has no staging open, so it may choose again. -/
theorem stepChooseAgain_consistent {s : State} (hs : s.rolesConsistent) : (stepChooseAgain s).rolesConsistent := by
  unfold stepChooseAgain
  split
  · rename_i f hf
    split
    · rename_i hdrain _
      split
      · exact hs
      · obtain ⟨-, -, hclosed, -⟩ := hs.settled hf
        refine beginChoice_consistent _ hs hf (fun f' b hf' hb => ?_) (hclosed hdrain)
        rw [hf, Option.some_inj] at hf'
        rw [← hf', hdrain] at hb
        cases hb
    · exact hs
  · exact hs

theorem stepClone_consistent {s : State} (hs : s.rolesConsistent) : (stepClone s).rolesConsistent := by
  unfold stepClone
  split
  · rename_i hfresh
    obtain ⟨f, hf, -⟩ := freshBody_flight hfresh
    obtain ⟨hset, -⟩ := hs.settled hf
    split
    · exact endFailed_consistent _ _ _ hset
    · split
      · exact endFailed_consistent _ _ _ hset
      · exact cloneFrom_consistent 0 0 ((banksKept_startFilling s).consistent hs) (noBankErase_of_fresh hfresh)
  · exact hs

theorem stepProgram_consistent {s : State} (hs : s.rolesConsistent) : (stepProgram s).rolesConsistent := by
  unfold stepProgram
  split
  · rename_i hfresh
    obtain ⟨f, hf, -⟩ := freshBody_flight hfresh
    obtain ⟨hset, -⟩ := hs.settled hf
    split
    · exact endFailed_consistent _ _ _ hset
    · split
      · exact endFailed_consistent _ _ _ hset
      · split
        · exact endFailed_consistent _ _ _ hset
        · have hprog : ((startFilling s).withFlight fun f => { f with stage := .programming }).rolesConsistent :=
            withFlight_quiet ((banksKept_startFilling s).consistent hs) (noBankErase_of_fresh hfresh)
              (fun _ => .inl rfl) (by simp) (by simp)
          exact writeGlyph_consistent _ _ _ hprog (programDone_consistent 0 hprog)
  · exact hs

theorem stepCommit_consistent {s : State} (hs : s.rolesConsistent) : (stepCommit s).rolesConsistent := by
  unfold stepCommit
  split
  · rename_i hfresh
    obtain ⟨f, hf, -⟩ := freshBody_flight hfresh
    split
    · exact endFailed_consistent _ _ _ (hs.settled hf).1
    · exact startMapWrite_consistent _ _
        (withFlight_quiet hs (noBankErase_of_fresh hfresh) (fun _ => .inl rfl) (by simp) (by simp))
  · exact hs

theorem stepAbandon_consistent {s : State} (hs : s.rolesConsistent) : (stepAbandon s).rolesConsistent := by
  unfold stepAbandon
  split
  · rename_i hfresh
    obtain ⟨f, hf, -⟩ := freshBody_flight hfresh
    obtain ⟨hset, -⟩ := hs.settled hf
    split
    · exact endFailed_consistent _ _ _ hset
    · refine endDone_consistent _ _ _ _ (closeStaging_settled hset ?_ ?_)
      · split <;> simp
      · split <;> simp
  · exact hs

theorem stepScrub_consistent {s : State} (hs : s.rolesConsistent) : (stepScrub s).rolesConsistent := by
  unfold stepScrub
  split
  · rename_i hfresh
    obtain ⟨f, hf, -, hbody⟩ := freshBody_flight hfresh
    split
    · exact endDone_consistent _ _ _ _ (hs.settled hf).1
    · rename_i b hb
      refine eraseSpare_consistent hs (noBankErase_of_fresh hfresh) (lowestWith_role hb) fun f' v hf' hv => ?_
      rw [hf, Option.some_inj] at hf'
      rw [← hf', hbody] at hv
      cases hv
  · exact hs

theorem stepReadglyph_consistent {s : State} (hs : s.rolesConsistent) : (stepReadglyph s).rolesConsistent := by
  unfold stepReadglyph
  split
  · rename_i hfresh
    obtain ⟨f, hf, -⟩ := freshBody_flight hfresh
    split
    · exact (banksKept_storeRequest _ _).consistent
        (withFlight_quiet hs (noBankErase_of_fresh hfresh) (fun _ => .inl rfl) (by simp) (by simp))
    · exact endFailed_consistent _ _ _ (hs.settled hf).1
  · exact hs

theorem stepCheck_consistent {s : State} (hs : s.rolesConsistent) : (stepCheck s).rolesConsistent := by
  unfold stepCheck
  split
  · rename_i hfresh
    obtain ⟨f, hf, -⟩ := freshBody_flight hfresh
    split
    · exact endFailed_consistent _ _ _ (hs.settled hf).1
    · exact (banksKept_storeRequest _ _).consistent
        (withFlight_quiet hs (noBankErase_of_fresh hfresh) (fun _ => .inl rfl) (by simp) (by simp))
  · exact hs

theorem stepBadKind_consistent {s : State} (hs : s.rolesConsistent) : (stepBadKind s).rolesConsistent := by
  unfold stepBadKind
  split
  · rename_i hfresh
    obtain ⟨f, hf, -⟩ := freshBody_flight hfresh
    exact endFailed_consistent _ _ _ (hs.settled hf).1
  · exact hs

/-! ## Completions at the array port -/

theorem flightRead_consistent {f : InFlight} (raw : List Byte) {s : State} (hs : s.rolesConsistent)
    (hf : s.store.inFlight = some f) : (flightRead f raw s).rolesConsistent := by
  have hquiet : (∀ b, f.stage ≠ .erasing b) → s.noBankErase := fun h f' b hf' => by
    rw [hf, Option.some_inj] at hf'
    exact hf' ▸ h b
  unfold flightRead
  split
  · split
    · exact progVerified_consistent _ _ hs hf
    · exact hs
  · rename_i he
    split
    · exact eraseVerified_consistent _ hs hf he
    · exact hs
  · rename_i hstage
    exact cloneProgram_consistent _ _ _ hs (hquiet (by simp [hstage]))
  · exact endDone_consistent _ _ _ _ (hs.settled hf).1
  · rename_i hstage
    unfold checkRead
    dsimp only
    split
    · exact (banksKept_storeRequest _ _).consistent
        (withFlight_quiet hs (hquiet (by simp [hstage])) (fun _ => .inl rfl) (by simp) (by simp))
    · exact endDone_consistent _ _ _ _ (hs.settled hf).1
  · exact hs

/-- What the scan takes up: a slot that reads VALID holds a map without a repeated bank. -/
theorem take_nodup {p : ScanProgress} (l : List Byte) (h : ∀ r, .valid r ∈ p.slots → r.map.toList.Nodup) (r : MapRecord)
    (hr : .valid r ∈ (p.take l).slots) : r.map.toList.Nodup := by
  unfold ScanProgress.take at hr
  split at hr
  · rcases List.mem_append.1 hr with hr | hr
    · exact h r hr
    · exact classify_nodup (List.mem_singleton.1 hr).symm
  · exact h r hr

theorem scanRead_consistent {p : ScanProgress} (raw : List Byte) {s : State} (hs : s.rolesConsistent)
    (hp : s.store.scan = some p) : (scanRead p raw s).rolesConsistent := by
  obtain ⟨hstart, hidle, htable, hflight, hscan⟩ := hs
  have hnext : State.rolesConsistent { s with store := { s.store with scan := some (p.take raw) } } := by
    refine ⟨fun _ => hstart (.inr (by simp [hp])), hidle, htable, hflight, ?_⟩
    rintro _ r ⟨⟩
    exact take_nodup raw (fun x => hscan p x hp) r
  unfold scanRead
  dsimp only
  split
  · exact (banksKept_storeRequest _ _).consistent hnext
  · exact hnext

theorem storeReadDone_consistent (raw : List Byte) {s : State} (hs : s.rolesConsistent) :
    (storeReadDone raw s).rolesConsistent := by
  unfold storeReadDone
  split
  · rename_i hp
    exact scanRead_consistent raw hs hp
  · rename_i hf
    exact flightRead_consistent raw hs hf
  · exact hs

theorem banksKept_freeArrayPort (s : State) : BanksKept s (freeArrayPort s) := .of_view rfl

theorem arrayReadComplete_consistent {s : State} (hs : s.rolesConsistent) : (arrayReadComplete s).rolesConsistent := by
  have hfree := (banksKept_freeArrayPort s).consistent hs
  unfold arrayReadComplete
  split
  · refine (banksKept_arrayGrant _).consistent ?_
    split
    · exact (undisturbed_loaderResumes _).banks.consistent hfree
    · exact (undisturbed_storeSlices _ _).banks.consistent hfree
  · refine (banksKept_arrayGrant _).consistent ?_
    split
    · exact presentDeferred_consistent hfree
    · exact storeReadDone_consistent _ hfree
  · exact hs

theorem programPulseComplete_consistent {s : State} (hs : s.rolesConsistent) :
    (programPulseComplete s).rolesConsistent := by
  unfold programPulseComplete
  split
  · exact (banksKept_storeRequest _ _).consistent
      (withFlight_sameBusiness (BanksKept.consistent (s := s) (.of_view rfl) hs) fun _ => rfl)
  · exact hs

/-- The erase operation of a state is the one of its command in flight. -/
theorem eraseOp_flight {s : State} {e : EraseOp} (h : s.eraseOp = some e) :
    ∃ f, s.store.inFlight = some f ∧ f.erase = some e := Option.bind_eq_some_iff.1 h

theorem eraseSubpulseComplete_consistent {s : State} (hs : s.rolesConsistent) :
    (eraseSubpulseComplete s).rolesConsistent := by
  unfold eraseSubpulseComplete
  split
  · rename_i u _ e _ he
    obtain ⟨f, hf, hfe⟩ := eraseOp_flight he
    have hpulsed : (freeArrayPort (subPulseArray u s)).rolesConsistent := BanksKept.consistent (s := s) (.of_view rfl) hs
    have hu := hs.erases hf hfe
    exact (banksKept_storeRequest _ _).consistent
      (withErase_consistent (e := { e with stage := .verifying }) hpulsed hu)
  · exact hs

theorem pulseLimitReached_consistent {s : State} (hs : s.rolesConsistent) : (pulseLimitReached s).rolesConsistent := by
  unfold pulseLimitReached
  split
  · rename_i hf
    split
    · split
      · exact progFails_consistent hs hf
      · exact hs
    · exact hs
  · exact hs

theorem subpulseBudgetSpent_consistent {s : State} (hs : s.rolesConsistent) :
    (subpulseBudgetSpent s).rolesConsistent := by
  unfold subpulseBudgetSpent
  split
  · rename_i he
    obtain ⟨f, hf, hfe⟩ := eraseOp_flight he
    split
    · exact eraseFails_consistent _ hs hf hfe
    · exact hs
  · exact hs

/-! ## STORE ABORT and LOWV# -/

theorem abortFlight_consistent {s : State} (hs : s.rolesConsistent) (hrun : s.store.engine ≠ .starting) :
    (abortFlight s).rolesConsistent := by
  have hkept : BanksKept s { cutPulse s with
      arrPort := (cutPulse s).arrPort.storeLeaves, store := { (cutPulse s).store with deferred := none } } :=
    (banksKept_cutPulse s).trans (.of_view rfl)
  have hleft := hkept.consistent hs
  unfold abortFlight
  dsimp only
  split
  · refine (banksKept_setEngine .none ?_ (by decide)).consistent ((banksKept_discardQueue _).consistent hleft)
    rw [discardQueue_store]
    exact mt hkept.starting.1 hrun
  · rename_i f hf
    exact endAborted_consistent _ (cutEffects_settled f (hleft.settled hf).1)

theorem storeAbort_consistent {s : State} (hs : s.rolesConsistent) : (storeAbort s).rolesConsistent := by
  unfold storeAbort
  split
  · exact (banksKept_discardQueue s).consistent hs
  · exact hs
  · exact hs
  · rename_i he
    exact (banksKept_arrayGrant _).consistent (abortFlight_consistent hs (by simp [he]))
  · rename_i he
    split
    · exact (banksKept_arrayGrant _).consistent (abortFlight_consistent hs (by simp [he]))
    · exact (banksKept_setEngine .none (by simp [he]) (by decide)).consistent ((banksKept_discardQueue s).consistent hs)

theorem lowvAsserted_consistent {s : State} (hs : s.rolesConsistent) : (lowvAsserted s).rolesConsistent := by
  have hflag : (raise .lowv { s with part := { s.part with lowv := true } }).rolesConsistent :=
    BanksKept.consistent (s := s) (.of_view rfl) hs
  unfold lowvAsserted
  dsimp only
  split
  · exact hs
  · split
    · exact BanksKept.consistent (s := s) (.of_view rfl) hs
    · split
      · exact (banksKept_arrayGrant _).consistent
          (cutBySupply_consistent ((banksKept_cutPulse _).consistent hflag))
      · split
        · exact cutBySupply_consistent (BanksKept.consistent (.of_view rfl) hflag)
        · exact hflag

/-! ## The start-up scan and RESET# -/

/-- The end of the scan: the table that it has built agrees with the map that it has adopted (R150, R152). -/
theorem finishScan_consistent {p : ScanProgress} {s : State} (hs : s.rolesConsistent) (hr : s.part.resetHeld = false)
    (hp : s.store.scan = some p) : (finishScan p s).rolesConsistent := by
  obtain ⟨hstart, hidle, -, -, hscan⟩ := hs
  have hnone := (hidle (hstart (.inr (by simp [hp])))).1
  have hnodup := adoptedRecord_nodup (fun r => hscan p r hp)
  have hbuilt : State.rolesConsistent (copyStoreMap { s with store := { s.store with
      storeMap := (adoptedRecord p.slots).map
      roles := scannedRoles (adoptedRecord p.slots).map (adoptedRecord p.slots).mask p.headers
      journal := scannedJournal p.slots, staging := none, scan := none, engine := .idle, wait := .none } }) :=
    State.settled.consistent ⟨hr, rfl, nofun, tableAgrees_copy (tableAgrees_scanned hnodup rfl rfl rfl)⟩
      (fun f hf => by rw [show s.store.inFlight = some f from hf] at hnone; cases hnone)
  have hstarted := (banksKept_raise .startDone _).consistent ((banksKept_startHead (show Engine.idle ≠ .starting by decide)).consistent hbuilt)
  unfold finishScan
  dsimp only
  split
  · exact hstarted
  · exact (banksKept_raise _ _).consistent hstarted

theorem startUpScanEnd_consistent {s : State} (hs : s.rolesConsistent) (hr : s.part.resetHeld = false) :
    (startUpScanEnd s).rolesConsistent := by
  unfold startUpScanEnd
  split
  · rename_i p hp
    have hscan : s.store.scan = some p := by
      unfold State.scanOver at hp
      split at hp
      · split at hp
        · cases hp; assumption
        · cases hp
      · cases hp
    exact (undisturbed_actStartupWait _).banks.consistent (finishScan_consistent hs hr hscan)
  · exact hs

/-- In reset nothing is in flight, no staging is open and no scan runs. -/
theorem resetPart_consistent (s : State) : (resetPart s).rolesConsistent :=
  ⟨fun _ => rfl, fun _ => ⟨rfl, rfl⟩, fun h => absurd rfl h, fun _ hf => (by cases hf), fun _ _ hp => (by cases hp)⟩

theorem powerOn_consistent (s : State) : (powerOn s).rolesConsistent := resetPart_consistent s

/-- The release begins the scan, with the engine STARTING. -/
theorem releaseReset_consistent (load : Bool) {s : State} (hs : s.rolesConsistent) :
    (releaseReset load s).rolesConsistent := by
  unfold releaseReset
  dsimp only
  split
  · rename_i hh
    obtain ⟨hstart, hidle, htable, hflight, -⟩ := hs
    have hbegun : ∀ u : State, u.store.engine = s.store.engine → u.store.inFlight = s.store.inFlight →
        u.store.staging = s.store.staging → (beginScan u).rolesConsistent := by
      intro u he hf hg
      have hstarting := he.trans (hstart (.inl hh))
      have hnone := hidle (hstart (.inl hh))
      refine (banksKept_storeRequest _ _).consistent ⟨fun _ => hstarting, fun _ => ⟨hf.trans hnone.1, hg.trans hnone.2⟩,
        fun h => absurd hstarting h, fun f h => ?_, ?_⟩
      · rw [show u.store.inFlight = some f from h, hnone.1] at hf
        cases hf
      · rintro _ r ⟨⟩
        exact nofun
    split <;> exact hbegun _ rfl rfl rfl
  · exact hs

/-! ## Every command -/

theorem Reaching.rolesConsistent {s t : State} (h : Reaching s t) (hs : s.rolesConsistent) : t.rolesConsistent := by
  cases h with
  | patch v _ =>
    refine (undisturbed_stepAddr _).banks.consistent (BanksKept.consistent (s := s) ?_ hs)
    unfold patchWrite
    dsimp only
    split
    · exact .of_view rfl
    · split
      · exact .of_view rfl
      · split <;> exact .of_view rfl
  | abort => exact storeAbort_consistent hs
  | readComplete => exact arrayReadComplete_consistent hs
  | pulseComplete => exact programPulseComplete_consistent hs
  | subPulseComplete => exact eraseSubpulseComplete_consistent hs
  | pulseLimit => exact pulseLimitReached_consistent hs
  | budgetSpent => exact subpulseBudgetSpent_consistent hs
  | begin => exact stepBegin_consistent hs
  | chooseAgain => exact stepChooseAgain_consistent hs
  | clone => exact stepClone_consistent hs
  | program => exact stepProgram_consistent hs
  | commit => exact stepCommit_consistent hs
  | abandon => exact stepAbandon_consistent hs
  | scrub => exact stepScrub_consistent hs
  | readglyph => exact stepReadglyph_consistent hs
  | check => exact stepCheck_consistent hs
  | badKind => exact stepBadKind_consistent hs
  | scanEnd hr => exact startUpScanEnd_consistent hs hr
  | powerOn => exact powerOn_consistent s
  | reset => exact resetPart_consistent s
  | release load => exact releaseReset_consistent load hs
  | supply => exact lowvAsserted_consistent hs

/-- Settles O59: undisturbed work and each operation that reaches the banks keep the roles consistent; a bank under an erase is
a dirty spare, and the maps name no dirty spare. -/
theorem everyStepKeepsTheBankRolesConsistent : Obligations.EveryStepKeepsTheBankRolesConsistent := by
  refine ⟨fun s t hs h => step_keeps (P := State.rolesConsistent) (fun _ _ hu hk => hk.banks.consistent hu)
    (fun _ _ hu hr => hr.rolesConsistent hu) hs h, fun s f e b l hs hf he ht => ?_⟩
  have hdirty := hs.erasing hf (hs.erases hf he f b hf ht)
  obtain ⟨hmapped, -, hshown, -⟩ := (hs.settled hf).1.table
  constructor
  · intro hb
    have hrole := hmapped l
    rw [hb, hdirty] at hrole
    cases hrole
  · intro hb
    have hrole := hshown l
    rw [hb, hdirty] at hrole
    exact hrole

end Sys2Proof.Machine
end

section
/-! SUPPORT. The patch table at the window: the check of a slot's first two bytes, told of the bytes that the host reads
back; and the invariants in the state after reset (R92 to R94). -/

namespace Sys2Proof.Machine

/-! ## The patch table as the host reads it -/

theorem validAfterWrite_eq (s : State) (a : Nat) (v : Byte) :
    validAfterWrite s a v = s.validAfter (a / 18) (a % 18) v := rfl

/-- VALID in bit 7 leaves the code bits of a slot's second byte as they are stored (R92). -/
theorem patchByte_code (s : State) (a : Nat) : (s.patchByte a).toNat % 4 = (s.patch.read a).toNat % 4 := by
  unfold State.patchByte
  split
  · exact putBit_seven_mod _ _
  · rfl

/-- The code of a slot after a write of one of its first two bytes, from the bytes as the host reads them. -/
theorem codeAfterWrite_eq (s : State) {a : Nat} (v : Byte) (ha : a % 18 < 2) :
    codeAfterWrite s a v = s.codeAfter (a / 18) (a % 18) v := by
  unfold codeAfterWrite State.codeAfter
  by_cases h : a % 18 = 0
  · have hslot : a + 1 = 18 * (a / 18) + 1 := by omega
    rw [if_pos h, if_pos h, patchByte_code, hslot]
  · have hslot : a - 1 = 18 * (a / 18) := by omega
    rw [if_neg h, if_neg h, hslot, State.patchByte, if_neg (by omega)]

theorem codeTaken_iff (s : State) (n code : Nat) : s.codeTaken n code = true ↔
    ∃ m, m < 16 ∧ m ≠ n ∧ s.patchValid.getLsbD m = true ∧ patchCode s.patch m = code := by
  simp only [State.codeTaken, List.any_eq_true, List.mem_range, Bool.and_eq_true, decide_eq_true_eq, and_assoc]

/-! ## Writes -/

theorem strobe_patch {s : State} {a : Nat} (h : s.dataAt 4 a) (ha : a < 288) (v : Byte) :
    occurStrobe (.write 4 v) s = .next (stepAddr (patchWrite a v s)) := by
  rw [strobe_dataWrite h ha]
  obtain ⟨-, hs, hw⟩ := h
  simp [spaceWrite, hs, hw]

/-- A second valid slot of the code: the write is refused (R94). -/
theorem patchWrite_taken {s : State} {a : Nat} {v : Byte} (ha : a % 18 < 2)
    (hv : s.validAfter (a / 18) (a % 18) v = true) (hc : s.codeTaken (a / 18) (s.codeAfter (a / 18) (a % 18) v) = true) :
    patchWrite a v s = refuse .patchDup s := by
  unfold patchWrite
  dsimp only
  rw [if_neg (by omega), hv, hc]
  rfl

/-- The patch table and its VALID bits after a write that is not refused, byte by byte as the host reads them. -/
structure PatchTaken (s t : State) (a : Nat) (v : Byte) : Prop where
  here : t.patchByte a = v
  elsewhere : ∀ b, b < 288 → b ≠ a → t.patchByte b = s.patchByte b
  rest : t = { s with patch := t.patch, patchValid := t.patchValid }

/-- Away from the VALID bits a write is one of a plain memory. -/
theorem patchTaken_plain {s : State} {a : Nat} (v : Byte) (hwf : s.patch.wf = true) (ha : a % 18 ≠ 1) :
    PatchTaken s { s with patch := s.patch.write a v } a v := by
  refine ⟨?_, fun b _ hb => ?_, rfl⟩
  · simp only [State.patchByte, if_neg ha, Memory.read_write_self _ _ hwf]
  · simp only [State.patchByte, Memory.read_write_other v hwf hb]

/-- A slot's second byte is split into VALID and the rest, and read back whole. -/
theorem patchTaken_second {s : State} {a : Nat} (v : Byte) (hwf : s.patch.wf = true) (ha : a % 18 = 1) (hlt : a < 288) :
    PatchTaken s { s with
      patch := s.patch.write a (putBit v 7 false), patchValid := putValid s.patchValid (a / 18) (v.getLsbD 7) } a v := by
  have hwhole : ∀ w : Byte, putBit (putBit w 7 false) 7 (w.getLsbD 7) = w := by decide
  refine ⟨?_, fun b hb hne => ?_, rfl⟩
  · simp only [State.patchByte, if_pos ha, Memory.read_write_self _ _ hwf,
      putValid_getLsbD _ _ (show a / 18 < 16 by omega), if_true, hwhole]
  · simp only [State.patchByte, Memory.read_write_other _ hwf hne, putValid_getLsbD _ _ (show b / 18 < 16 by omega)]
    split
    · rw [if_neg (by omega)]
    · rfl

/-- A write that is not refused (R93, R94). -/
theorem patchWrite_free {s : State} {a : Nat} {v : Byte} (hwf : s.patch.wf = true) (hlt : a < 288)
    (h : a % 18 < 2 → (s.validAfter (a / 18) (a % 18) v && s.codeTaken (a / 18) (s.codeAfter (a / 18) (a % 18) v)) = false) :
    PatchTaken s (patchWrite a v s) a v := by
  unfold patchWrite
  dsimp only
  split
  · exact patchTaken_plain v hwf (by omega)
  · rw [h (by omega), if_neg (by decide)]
    split
    · exact patchTaken_plain v hwf (by omega)
    · exact patchTaken_second v hwf (by omega) hlt

/-- Settles O29: the check on the bytes that the host reads, and the frame of the writes that pass it. -/
theorem patchWritesAreChecked : Obligations.PatchWritesAreChecked := by
  constructor
  · intro s v a m h ha hplace hv hm hne hvm hc
    rw [validAfterWrite_eq] at hv
    rw [codeAfterWrite_eq s v hplace] at hc
    have he := strobe_patch h ha v
    rw [patchWrite_taken hplace hv ((codeTaken_iff s _ _).2 ⟨m, hm, hne, hvm, hc⟩)] at he
    exact he
  · intro s v a h ha hwf hfree
    have hpass := patchWrite_free (v := v) hwf ha fun hplace => by
      rw [Bool.and_eq_false_imp, ← Bool.not_eq_true, codeTaken_iff]
      rintro hv ⟨m, hm, hne, hvm, hc⟩
      exact hfree hplace hv m hm hne hvm (by rw [hc, codeAfterWrite_eq s v hplace])
    refine ⟨stepAddr (patchWrite a v s), strobe_patch h ha v, hpass.here, hpass.elsewhere, ?_⟩
    have hwin : (patchWrite a v s).win = s.win := by rw [hpass.rest]
    conv_lhs => rw [hpass.rest]
    simp [stepAddr]

/-! ## Reset -/

/-- Settles O60: nothing is queued, in flight or valid after reset, the registers hold their reset values, and the display
is dark. -/
theorem resetMeetsTheInvariants : Obligations.ResetMeetsTheInvariants := by
  have hfit : State.reset.queuesFit := ⟨by decide, by decide, fun _ => rfl⟩
  have hregisters : State.reset.registersInRange :=
    ⟨by unfold Control.inRange; decide, fun h => (by cases h), .inr rfl, .inr rfl, by decide, by decide⟩
  have hdark : State.reset.darkWhenDisabled := ⟨fun _ => ⟨rfl, rfl, rfl, rfl, rfl, rfl, rfl, rfl, rfl⟩, fun _ => rfl⟩
  have hroles : State.reset.rolesConsistent := by
    refine ⟨fun _ => rfl, fun _ => ⟨rfl, rfl⟩, fun h => absurd rfl h, fun _ hf => (by cases hf), ?_⟩
    intro p r hp hr
    cases hp
    cases hr
  exact ⟨hfit, ⟨rfl, rfl, rfl, rfl, rfl⟩, patchCodesDistinct_of_none rfl, hregisters, hdark, hroles⟩

end Sys2Proof.Machine
end

section
/-! SUPPORT. DATA reads: the byte that each location drives, and the step of the window address (R92, R119, R123, R153, R165,
R167 to R169). -/

namespace Sys2Proof.Machine

/-! ## What a read drives -/

/-- A read of the control block drives its byte; four locations also reach a capture (R29, R63). -/
theorem drives_control {s : State} {a : Nat} (h : s.dataAt 0 a) (ha : a < 64) (hc : a ∉ [17, 18, 31, 32]) :
    s.drives (s.controlByte a) := by
  have hplain : ∀ u, captureRead a u = u := by
    intro u
    unfold captureRead
    split
    case h_5 => rfl
    all_goals exact absurd (by decide) hc
  have he := strobe_controlRead h ha
  rw [hplain] at he
  exact he

/-- A read of any other space drives its byte, but for the cell store. -/
theorem drives_space {s : State} {sp : BitVec 3} {a : Nat} (h : s.dataAt sp a) (ha : a < spaceSize sp) (h0 : sp ≠ 0)
    (h1 : sp ≠ 1) : s.drives (s.spaceByte sp a) := by
  have he := strobe_dataRead h ha
  obtain ⟨-, hs, hw⟩ := h
  have hread : spaceRead s = stepAddr (drive (s.spaceByte sp a) s) := by
    unfold spaceRead
    dsimp only
    rw [hs, hw]
    split
    · rename_i hz; exact absurd (BitVec.eq_of_toNat_eq hz) h0
    · rename_i hz; exact absurd (BitVec.eq_of_toNat_eq hz) h1
    · rfl
  rw [hread] at he
  exact he

/-- Space 7 is read in either mode (R153). -/
theorem drives_status {s : State} {a : Nat} (h : s.statusAt a) (ha : a < 95) : s.drives (s.statusByte a) := by
  obtain ⟨hw, hs, hwa⟩ := h
  have hsize : spaceSize 7 = 95 := rfl
  have hread : dataRead s = stepAddr (drive (s.statusByte a) s) := by
    unfold dataRead
    rw [if_neg (by simp [hs]), hs, hwa, if_neg (by omega)]
    unfold spaceRead
    dsimp only
    rw [hs, hwa]
    rfl
  have he := strobe_taken hw (.read 4)
  rw [show takeAccess (.read 4) s = dataRead s from rfl, hread] at he
  exact he

/-- Past the registers the control block reads 00H (R167). -/
theorem controlByte_beyond (s : State) {a : Nat} (h : 34 ≤ a) : s.controlByte a = 0 := by
  obtain ⟨k, rfl⟩ := Nat.exists_eq_add_of_le' h
  rfl

/-! ## Tables and the composition space -/

theorem patchByte_plain (s : State) (n : Nat) {k : Nat} (hk : k < 18) (h1 : k ≠ 1) :
    s.patchByte (18 * n + k) = s.patch.read (18 * n + k) := if_neg (by omega)

/-- The second byte of a slot shows VALID in bit 7 and the stored bits below (R92). -/
theorem patchByte_second (s : State) (n : Nat) :
    (s.patchByte (18 * n + 1)).getLsbD 7 = s.patchValid.getLsbD n ∧
      ∀ k, k < 7 → (s.patchByte (18 * n + 1)).getLsbD k = (s.patch.read (18 * n + 1)).getLsbD k := by
  have hput : ∀ (v : Byte) (b : Bool), (putBit v 7 b).getLsbD 7 = b ∧
      ∀ k : Fin 7, (putBit v 7 b).getLsbD k.val = v.getLsbD k.val := by decide
  rw [State.patchByte, if_pos (by omega), show (18 * n + 1) / 18 = n by omega]
  exact ⟨(hput _ _).1, fun k hk => (hput _ _).2 ⟨k, hk⟩⟩

theorem compByte_field (s : State) (k : Fin 29) : s.compByte k.val = s.store.comp.get k := by
  rw [State.compByte, if_neg (by omega), byteAt, Vector.get_eq_getElem]
  simp [List.getD_eq_getElem?_getD]

/-! ## The head result -/

theorem errorCodes_code {e : ErrCode} {c : Byte} (h : (e, c) ∈ errorCodes) : e.code = c :=
  (show ∀ x ∈ errorCodes, x.1.code = x.2 by decide) _ h

theorem resultByte_none {s : State} (h : s.store.results = []) (a : Nat) : s.resultByte a = 0 := by
  rw [State.resultByte, h]

theorem resultByte_head {s : State} {r : ResultRec} {rest : List ResultRec} (h : s.store.results = r :: rest) (a : Nat) :
    s.resultByte a = byteAt r.bytes a := by
  rw [State.resultByte, h]

/-- The image of a result stands after its sixteen other bytes (layout of space 6). -/
theorem resultBytes_image (r : ResultRec) (k : Nat) : byteAt r.bytes (16 + k) = byteAt r.image k := by
  have hsplit : r.bytes = ([r.seq, r.kind, r.outcome.code, r.error.code, physCode r.phys, BitVec.ofNat 8 r.discarded] ++
      bytesOf r.detail 2 ++ bytesOf r.checkval 2 ++ bytesOf r.generation 3 ++ bytesOf r.eraseCount 2 ++
      [putBit (putBit 0 0 r.submitter.isLoader) 1 r.estimated]) ++ r.image := rfl
  rw [hsplit, byteAt, byteAt, List.getD_append_right _ _ _ _ (by simp [bytesOf])]
  simp [bytesOf]

/-- The last byte before the image holds the submitter and the estimated mark. -/
theorem resultMarks_eq (w : Submitter) (e : Bool) :
    putBit (putBit 0 0 w.isLoader) 1 e = (if w = .loader then (1 : Byte) else 0) ||| (if e then 2 else 0) := by
  cases w <;> cases e <;> rfl

/-! ## The status of the store engine and the loader -/

/-- The bytes of space 7 after those of the bank role table. -/
def State.statusTail (s : State) : List Byte :=
  bytesOf s.store.journal.generation 3 ++
    [s.store.journal.active.code, nextCode s.store.journal.next, latestCode s.store.journal.latest,
      stagingCode s.store.staging, stageCode s.store.staging, targetCode s.store.staging] ++
    bytesOf (writtenOf s.store.staging) 8 ++ [s.store.engine.code, s.store.wait.code] ++
    bytesOf s.store.journal.retiredMask 2 ++ s.svc.statusBytes

theorem byteAt_append_left {l : List Byte} (m : List Byte) {k : Nat} (h : k < l.length) :
    byteAt (l ++ m) k = byteAt l k := List.getD_append _ _ _ _ h

theorem byteAt_append_right (l m : List Byte) (k : Nat) : byteAt (l ++ m) (l.length + k) = byteAt m k := by
  rw [byteAt, byteAt, List.getD_append_right _ _ _ _ (Nat.le_add_right ..), Nat.add_sub_cancel_left]

/-- A table of entries of `n` bytes each: byte `j` of entry `i`. -/
theorem byteAt_flatMap {α : Type} {n : Nat} (f : α → List Byte) (hf : ∀ x, (f x).length = n) (l : List α) {i j : Nat}
    (hi : i < l.length) (hj : j < n) : byteAt (l.flatMap f) (n * i + j) = byteAt (f l[i]) j := by
  induction l generalizing i with
  | nil => cases hi
  | cons x rest ih =>
    rw [List.flatMap_cons]
    cases i with
    | zero => rw [Nat.mul_zero, Nat.zero_add, byteAt_append_left _ (by rw [hf]; exact hj)]; rfl
    | succ i =>
      have hplace : n * (i + 1) + j = (f x).length + (n * i + j) := by rw [hf, Nat.mul_succ]; omega
      rw [hplace, byteAt_append_right]
      exact ih (Nat.lt_of_succ_lt_succ hi)

theorem statusBytes_split (s : State) : s.store.statusBytes ++ s.svc.statusBytes =
    s.store.roles.toList.flatMap s.store.bankBytesOf ++ s.statusTail := by
  simp only [Store.statusBytes, State.statusTail, List.append_assoc]

theorem bankBytesOf_length (st : Store) (e : BankEntry) : (st.bankBytesOf e).length = 4 := rfl

theorem bankTable_length (st : Store) : (st.roles.toList.flatMap st.bankBytesOf).length = 64 := by
  simp [List.length_flatMap, bankBytesOf_length]

/-- Byte `j` of the entry of bank `b` in space 7. -/
theorem statusByte_bank (s : State) (b : Bank) {j : Nat} (hj : j < 4) :
    s.statusByte (4 * b.val + j) = byteAt (s.store.bankBytesOf (s.store.roles.get b)) j := by
  have hb := b.isLt
  rw [State.statusByte, statusBytes_split, byteAt_append_left _ (by rw [bankTable_length]; omega),
    byteAt_flatMap _ (bankBytesOf_length _) _ (by simp) hj, Vector.get_eq_getElem]
  rfl

theorem statusByte_tail (s : State) (k : Nat) : s.statusByte (64 + k) = byteAt s.statusTail k := by
  rw [State.statusByte, statusBytes_split, ← bankTable_length s.store, byteAt_append_right]

theorem drives_tail {s : State} (k : Nat) (hk : k < 31) (h : s.statusAt (64 + k)) : s.drives (byteAt s.statusTail k) :=
  statusByte_tail s k ▸ drives_status h (by omega)

/-- The eight bytes of WRITTEN follow the nine before them (R125). -/
theorem statusTail_written (s : State) {k : Nat} (hk : k < 8) :
    byteAt s.statusTail (9 + k) = byteOf (writtenOf s.store.staging) k := by
  interval_cases k <;> rfl

theorem drives_bank {s : State} {b : Bank} {j : Nat} (h : s.statusAt (4 * b.val + j)) (hj : j < 4) :
    s.drives (byteAt (s.store.bankBytesOf (s.store.roles.get b)) j) := by
  have hb := b.isLt
  exact statusByte_bank s b hj ▸ drives_status h (by omega)

/-- The role of a bank with its estimated mark in bit 7 (R116). -/
theorem roleMark_eq (r : Role) (e : Bool) : putBit r.code 7 e = r.code ||| (if e then 0x80 else 0) := by
  have hput : ∀ c : Byte, c.toNat < 8 → ∀ x, putBit c 7 x = c ||| (if x then 0x80 else 0) := by decide
  have hcode : r.code.toNat < 8 := by cases r <;> simp [Role.code]
  exact hput _ hcode e

/-- The logical bank that a bank entry shows: its own, TARGET of the staging, or none (R116, R125). -/
theorem logicalByte_eq (st : Store) (r : Role) : st.logicalByte r = match r, st.staging with
    | .mapped l, _ => BitVec.ofNat 8 l.val
    | .staging, some g => BitVec.ofNat 8 g.target.val
    | _, _ => 0xFF := by
  unfold Store.logicalByte
  cases r with
  | staging => rcases st.staging with _ | g <;> rfl
  | _ => rfl

/-- The latest record: its area in bit 3, its slot below. -/
theorem latestCode_eq (j : Option (Area × Fin 8)) : latestCode j = match j with
    | some (.a, n) => BitVec.ofNat 8 n.val
    | some (.b, n) => BitVec.ofNat 8 (8 + n.val)
    | none => 0xFF := by
  rcases j with _ | ⟨_ | _, n⟩
  · rfl
  · simp [latestCode, Area.code]
  · simp [latestCode, Area.code]

theorem stageCode_eq (g : Option Staging) : stageCode g = match g with
    | none => 0xFF
    | some g => BitVec.ofNat 8 g.bank.val := by
  cases g <;> rfl

theorem outstandingMark_eq (o : Option (Byte × SvcMark)) : outstandingMark o = match o with
    | none => 0
    | some (_, .reply) => 1
    | some (_, .silent) => 2 := by
  rcases o with _ | ⟨q, _ | _⟩ <;> rfl

theorem byteOf_getLsbD {n : Nat} (w : BitVec n) (k : Nat) {j : Nat} (hj : j < 8) :
    (byteOf w k).getLsbD j = w.getLsbD (8 * k + j) := by
  simp [byteOf, hj]

theorem writtenOf_getLsbD (g : Option Staging) (i : Nat) :
    (writtenOf g).getLsbD i = match g with | none => false | some x => x.written.getLsbD i := by
  cases g with
  | none => simp [writtenOf]
  | some x => rfl

/-! ## The step of the address -/

/-- A write of the control block leaves the window address: the display's own work does not reach the window. -/
theorem controlWrite_addr (a : Nat) (v : Byte) (s : State) : (controlWrite a v s).win.addr = s.win.addr := by
  have hframe : ∀ u, (openFrame u).win = u.win := by
    intro u
    have hblink : ∀ x, (blinkStep x).win = x.win := by
      intro x
      unfold blinkStep
      split <;> rfl
    rw [openFrame, arrayGrant_win, (loaderSide_latchFirst _).win]
    simp only [frameSettings, enterVblank_win, countFrame_win, hblink, copyUnlessStarting_win, marqueeAdvance_win]
    rw [swapIfPending_eq]
    rfl
  have hjudged : ∀ c f, (acceptIf c f s).win.addr = s.win.addr := by
    intro c f
    unfold acceptIf
    split <;> rfl
  unfold controlWrite
  split
  case h_1 =>
    unfold writeDispctl
    split
    · split
      · rfl
      · rw [enableDisplay, hframe]
    · split
      · rw [disableDisplay, stopDisplay_win, swapIfPending_eq]
      · rfl
  case h_3 =>
    unfold panelwHighWrite acceptIf
    dsimp only
    split <;> rfl
  case h_4 | h_5 | h_6 | h_7 | h_8 | h_9 | h_12 => exact hjudged _ _
  case h_13 =>
    unfold headpendWrite
    split <;> rfl
  all_goals rfl

theorem patchWrite_addr (a : Nat) (v : Byte) (s : State) : (patchWrite a v s).win.addr = s.win.addr := by
  unfold patchWrite
  dsimp only
  split
  · rfl
  · split
    · rfl
    · split <;> rfl

/-- Every DATA write that presents no cell request steps the address by 1 (R168). -/
theorem dataWrite_addr {v : Byte} {s : State} (h : (dataWrite v s).win.cellOp = none) :
    (dataWrite v s).win.addr = s.win.addr + 1 := by
  have hstep : ∀ u : State, u.win.addr = s.win.addr → (stepAddr u).win.addr = s.win.addr + 1 := fun u hu => by
    rw [stepAddr_win, hu]
  revert h
  unfold dataWrite
  split
  · exact fun _ => rfl
  · split
    · exact fun _ => rfl
    · unfold spaceWrite
      dsimp only
      split
      · exact fun _ => hstep _ (controlWrite_addr _ v s)
      · split
        · unfold cellLowWrite
          dsimp only
          split
          · split <;> exact fun _ => rfl
          · exact fun _ => rfl
        · unfold cellHighWrite
          dsimp only
          split
          · split
            · exact fun h => by cases h
            · exact fun _ => rfl
          · exact fun _ => rfl
      · exact fun _ => rfl
      · exact fun _ => rfl
      · exact fun _ => hstep _ (patchWrite_addr _ v s)
      · refine fun _ => hstep _ ?_
        unfold compWrite
        split <;> rfl
      · exact fun _ => rfl

/-- Every DATA read that presents no cell request steps the address by 1 (R168). -/
theorem dataRead_addr {s : State} (h : (dataRead s).win.cellOp = none) : (dataRead s).win.addr = s.win.addr + 1 := by
  revert h
  unfold dataRead spaceRead
  dsimp only
  split
  · exact fun _ => rfl
  · split
    · exact fun _ => rfl
    · split
      · unfold captureRead
        split <;> exact fun _ => rfl
      · split
        · exact fun h => by cases h
        · unfold cellHighRead
          dsimp only
          split
          · split
            · exact fun _ => rfl
            · exact fun h => by cases h
          · exact fun h => by cases h
      · exact fun _ => rfl

/-! ## The statement -/

/-- Settles O32: each location by the byte of its layout, the two refusals, and the step of the address. -/
theorem dataReadsStepTheAddress : Obligations.DataReadsStepTheAddress := by
  refine ⟨fun s h => ?_, fun s k hk => ?_, fun s => ?_, fun s a h h34 h64 => ?_, fun s a => ?_, fun s n hn => ?_,
    fun s k h => ?_, fun s h => drives_space h (by decide) (by decide) (by decide), fun s a h ha hr => ?_,
    fun s r rest hr => ?_, fun s b => ?_, fun s => ?_, fun s ho hrange => ?_, fun s hw hm hs => ?_,
    fun s t v hw hc hop => ?_⟩
  · have hbit : s.controlByte 0 = if s.scan.enabled then 1 else 0 := by
      show putBit 0 0 s.scan.enabled = _
      cases s.scan.enabled <;> rfl
    exact hbit ▸ drives_control h (by decide) (by decide)
  · interval_cases k
    all_goals
      exact ⟨fun h => drives_control h (by decide) (by decide), fun h => drives_control h (by decide) (by decide),
        fun h => drives_control h (by decide) (by decide), fun h => drives_control h (by decide) (by decide),
        fun h => drives_control h (by decide) (by decide), fun h => drives_control h (by decide) (by decide)⟩
  · refine ⟨?_, ?_, ?_, ?_, ?_, ?_, ?_, ?_, ?_, ?_, ?_, ?_, ?_, ?_, ?_, ?_, ?_⟩
    all_goals exact fun h => drives_control h (by decide) (by decide)
  · rw [← controlByte_beyond s h34]
    exact drives_control h h64 (by simp; omega)
  · exact ⟨fun h ha => drives_space h ha (by decide) (by decide), fun h ha => drives_space h ha (by decide) (by decide)⟩
  · have hsize : spaceSize 4 = 288 := rfl
    refine ⟨fun k hk h1 h => ?_, fun h => ?_⟩
    · exact patchByte_plain s n hk h1 ▸ drives_space h (by omega) (by decide) (by decide)
    · exact ⟨_, drives_space h (by omega) (by decide) (by decide), patchByte_second s n⟩
  · have hsize : spaceSize 5 = 30 := rfl
    exact compByte_field s k ▸ drives_space h (by omega) (by decide) (by decide)
  · exact resultByte_none hr a ▸ drives_space h ha (by decide) (by decide)
  · have hread : ∀ {a : Nat}, s.dataAt 6 a → a < 32 → s.drives (byteAt r.bytes a) := fun {a} h ha =>
      resultByte_head hr a ▸ drives_space h ha (by decide) (by decide)
    refine ⟨fun h => hread h (by decide), fun h => hread h (by decide), fun h => hread h (by decide), fun c hc h => ?_,
      fun h => hread h (by decide), fun h => hread h (by decide), fun k hk => ?_, fun k hk h => ?_, fun h => ?_,
      fun k hk h => ?_⟩
    · exact errorCodes_code hc ▸ hread h (by decide)
    · interval_cases k
      all_goals exact ⟨fun h => hread h (by decide), fun h => hread h (by decide), fun h => hread h (by decide)⟩
    · interval_cases k
      all_goals exact hread h (by decide)
    · exact resultMarks_eq r.submitter r.estimated ▸ hread h (by decide)
    · exact resultBytes_image r k ▸ hread h (by omega)
  · refine ⟨fun h => ?_, fun h => ?_, fun k hk h => ?_⟩
    · exact roleMark_eq (s.store.roles.get b).role (s.store.roles.get b).estimated ▸ drives_bank (j := 0) h (by decide)
    · exact (congrArg s.drives (logicalByte_eq s.store _)).mp (drives_bank (j := 1) h (by decide))
    · interval_cases k
      · exact drives_bank (j := 2) h (by decide)
      · exact drives_bank (j := 3) h (by decide)
  · refine ⟨fun k hk h => ?_, drives_tail 3 (by decide), drives_tail 4 (by decide), fun h => ?_,
      drives_tail 6 (by decide), fun h => ?_, drives_tail 8 (by decide), fun k hk h => ?_,
      drives_tail 17 (by decide), drives_tail 18 (by decide), fun k hk h => ?_, drives_tail 21 (by decide),
      fun k hk _ h => ?_, fun c hc h => ?_, fun k hk => ?_, drives_tail 29 (by decide), fun h => ?_⟩
    · interval_cases k
      · exact drives_tail 0 (by decide) h
      · exact drives_tail 1 (by decide) h
      · exact drives_tail 2 (by decide) h
    · exact (congrArg s.drives (latestCode_eq s.store.journal.latest)).mp (drives_tail 5 (by decide) h)
    · exact (congrArg s.drives (stageCode_eq s.store.staging)).mp (drives_tail 7 (by decide) h)
    · refine ⟨byteOf (writtenOf s.store.staging) k, ?_, fun j hj => ?_⟩
      · have hplace : 73 + k = 64 + (9 + k) := by omega
        rw [hplace] at h
        exact statusTail_written s hk ▸ drives_tail (9 + k) (by omega) h
      · exact (byteOf_getLsbD _ _ hj).trans (writtenOf_getLsbD _ _)
    · interval_cases k
      · exact drives_tail 19 (by decide) h
      · exact drives_tail 20 (by decide) h
    · interval_cases k
      · exact drives_tail 22 (by decide) h
      · exact drives_tail 23 (by decide) h
    · exact errorCodes_code hc ▸ drives_tail 24 (by decide) h
    · interval_cases k
      · exact ⟨drives_tail 25 (by decide), drives_tail 27 (by decide)⟩
      · exact ⟨drives_tail 26 (by decide), drives_tail 28 (by decide)⟩
    · exact (congrArg s.drives (outstandingMark_eq s.svc.outstanding)).mp (drives_tail 30 (by decide) h)
  · rw [show exec .dataRead s = occurStrobe (.read 4) s from rfl, strobe_taken ho.1]
    show Host.Outcome.next (dataRead s) = _
    rw [dataRead, if_neg (by simp [ho.2]), if_pos hrange]
  · rw [show exec .dataRead s = occurStrobe (.read 4) s from rfl, strobe_taken hw]
    show Host.Outcome.next (dataRead s) = _
    rw [dataRead, if_pos ⟨hm, hs⟩]
  · rcases hc with hc | hc
    · have he := (strobe_taken hw (.write 4 v)).symm.trans hc
      cases he
      exact dataWrite_addr hop
    · have he := (strobe_taken hw (.read 4)).symm.trans hc
      cases he
      exact dataRead_addr hop

end Sys2Proof.Machine
end

section
/-! SUPPORT. The end of a COMMIT's map write, the step that makes the staged bank visible, and the two ways of stopping the
display beside which it is taken (R24, R37, R99 to R101, R130, R145). -/

namespace Sys2Proof.Machine

/-! ## What a commit changes -/

section
variable (s : State) (g : Staging)

/-- The entry of a bank after a commit, before the copy that a disabled display makes: the staged bank is mapped, and the
old one is a spare (R130). -/
def State.commitEntry (b : Bank) : BankEntry :=
  { s.store.roles.get b with
    role := if b = g.bank then .mapped g.target
      else if b = s.store.storeMap.get g.target then (if s.scan.enabled then .spareDraining else .spareDirty)
      else (s.store.roles.get b).role }

theorem setRole_get (b c : Bank) (r : Role) :
    (s.setRole b r).store.roles.get c =
      { s.store.roles.get c with role := if c = b then r else (s.store.roles.get c).role } := by
  rw [setRole_roles]
  split <;> rfl

theorem commitChanges_roles_get (b : Bank) : (commitChanges g s).store.roles.get b =
    if s.scan.enabled then s.commitEntry g b else releaseBank (s.commitEntry g b) := by
  have hset : ∀ r : Role, ((s.setRole (s.store.storeMap.get g.target) r).setRole g.bank (.mapped g.target)).store.roles.get b
      = { s.store.roles.get b with role := if b = g.bank then .mapped g.target
            else if b = s.store.storeMap.get g.target then r else (s.store.roles.get b).role } := fun r => by
    rw [setRole_get, setRole_get]
  unfold commitChanges State.commitEntry
  dsimp only
  split
  · exact hset _
  · exact (releaseDraining_get _ b).trans (congrArg releaseBank (hset _))

theorem commitChanges_storeMap :
    (commitChanges g s).store.storeMap = s.store.storeMap.set g.target.val g.bank g.target.isLt := by
  unfold commitChanges
  dsimp only
  split <;> rfl

theorem commitChanges_scan : (commitChanges g s).scan = { s.scan with
    displayMap := if s.scan.enabled then s.scan.displayMap else (commitChanges g s).store.storeMap } := by
  rw [commitChanges_storeMap]
  unfold commitChanges
  dsimp only
  split <;> rfl

theorem commitChanges_store : (commitChanges g s).store = { s.store with
    storeMap := (commitChanges g s).store.storeMap, roles := (commitChanges g s).store.roles, staging := none } := by
  unfold commitChanges
  dsimp only
  split <;> rfl

@[simp] theorem commitChanges_svc : (commitChanges g s).svc = s.svc := by
  unfold commitChanges
  dsimp only
  split <;> rfl

end

/-! ## The end of the map write -/

/-- The verify of the completion marker of a COMMIT's record is about to complete, and finds what was programmed: the
premises of the step that makes the commit (R130, R145). -/
structure State.CommitEnds (s : State) (f : InFlight) (p : ProgOp) (m : MapOp) (g : Staging) (u : ArrUnit) : Prop where
  access : s.arrPort.access = some (.store (.read u) false)
  scan : s.store.scan = none
  inFlight : s.store.inFlight = some f
  prog : f.prog = some p
  erase : f.erase = none
  mapw : f.mapw = some m
  verifying : p.phase = .verifying
  marker : m.stage = .marker
  committing : f.stage = .committing
  target : s.rawBytes u = p.target
  staging : s.store.staging = some g
  outstanding : s.svc.outstanding = none

/-- The state as the commit finds it: the port is free, the program operation is over, and the journal has taken the
record. -/
def State.recorded (s : State) (m : MapOp) : State :=
  { s with
    arrPort := { s.arrPort with access := none }
    store := { s.store with
      inFlight := s.store.inFlight.map fun f => { f with prog := none }, journal := s.store.journal.written m } }

/-- The result of a COMMIT: it tells the count of the staged bank, the record's generation and its slot (R123, R130). -/
def State.commitResult (s : State) (f : InFlight) (m : MapOp) (g : Staging) : ResultRec :=
  { seq := f.entry.seq, kind := f.entry.kind, outcome := .done, error := .none, phys := some g.bank, discarded := 0
    detail := word16 m.area.code (BitVec.ofNat 8 m.slot.val), checkval := 0, generation := m.generation
    eraseCount := (s.store.roles.get g.bank).count, submitter := f.entry.submitter
    estimated := (s.store.roles.get g.bank).estimated, image := noImage }

/-- The state after the end of a COMMIT: the banks have changed, the command has completed, and the arbiter has looked at what
waits. -/
def State.commitEnd (s : State) (m : MapOp) (g : Staging) : State :=
  arrayGrant (endDone (some g.bank) (word16 m.area.code (BitVec.ofNat 8 m.slot.val)) 0 noImage
    (commitChanges g (s.recorded m)))

/-- The arbiter's grant after the command's end changes at most the command in flight. -/
theorem commitEnd_store (s : State) (m : MapOp) (g : Staging) :
    ∃ k : InFlight → InFlight, (s.commitEnd m g).store =
      let t := endDone (some g.bank) (word16 m.area.code (BitVec.ofNat 8 m.slot.val)) 0 noImage
        (commitChanges g (s.recorded m))
      { t.store with inFlight := t.store.inFlight.map k } :=
  let ⟨k, hk, _⟩ := arrayGrant_store _
  ⟨k, hk⟩

theorem mapSucceeds_committing {s : State} {f : InFlight} {g : Staging} (m : MapOp) (hf : s.store.inFlight = some f)
    (hstage : f.stage = .committing) (hg : s.store.staging = some g) :
    mapSucceeds m s = endDone (some g.bank) (word16 m.area.code (BitVec.ofNat 8 m.slot.val)) 0 noImage
      (commitChanges g { s with store := { s.store with journal := s.store.journal.written m } }) := by
  simp only [mapSucceeds, hf, hg, hstage]
  rfl

theorem arrayReadComplete_commitEnds {s : State} {f : InFlight} {p : ProgOp} {m : MapOp} {g : Staging} {u : ArrUnit}
    (h : s.CommitEnds f p m g u) : arrayReadComplete s = s.commitEnd m g := by
  rw [arrayReadComplete_flight h.access h.scan h.inFlight, flightRead_verify h.prog h.verifying,
    progVerified_done h.target, progDone, h.erase, h.mapw]
  dsimp only
  rw [h.marker, if_neg (by decide)]
  have hf : (s.portFree.withFlight fun f => { f with prog := none }).store.inFlight = some { f with prog := none } :=
    congrArg (Option.map _) h.inFlight
  exact congrArg arrayGrant (mapSucceeds_committing m hf h.committing h.staging)

@[simp] theorem startHead_scan (s : State) : (startHead s).scan = s.scan := by
  unfold startHead
  split
  · rfl
  · rfl
  · split
    · unfold qspaceFrom
      split <;> rfl
    · rfl

section
variable {s : State} {f : InFlight} {p : ProgOp} {m : MapOp} {g : Staging} {u : ArrUnit} (h : s.CommitEnds f p m g u)
include h

theorem recorded_inFlight :
    (commitChanges g (s.recorded m)).store.inFlight = some { f with prog := none } := by
  rw [commitChanges_store]
  simp only [State.recorded, h.inFlight]
  rfl

theorem recorded_outstanding : (commitChanges g (s.recorded m)).svc.outstanding = none := by
  rw [commitChanges_svc]
  exact h.outstanding

/-- The end of the command and the grant leave the banks, the staging and the journal as the commit made them. -/
theorem commitEnd_sameRest : (commitChanges g (s.recorded m)).store.SameRest (s.commitEnd m g).store := by
  obtain ⟨k, hk⟩ := commitEnd_store s m g
  rw [hk]
  exact (endDone_sameRest _ _ _ _ (recorded_inFlight h) (recorded_outstanding h)).1.trans
    ⟨rfl, rfl, rfl, rfl, rfl, rfl, rfl, rfl, rfl⟩

theorem commitEnd_scan : (s.commitEnd m g).scan = (commitChanges g (s.recorded m)).scan := by
  rw [State.commitEnd, arrayGrant_scan, endDone_eq _ _ _ _ (recorded_inFlight h) (recorded_outstanding h), startHead_scan]
  rfl

theorem commitEnd_completes : s.completes (s.commitEnd m g) f (some g.bank)
    (word16 m.area.code (BitVec.ofNat 8 m.slot.val)) 0 (List.replicate 16 0) :=
  ((endDone_completes _ _ _ _ (recorded_inFlight h) (recorded_outstanding h)).from (by rw [commitChanges_store]; rfl)
    (by rw [commitChanges_store]; rfl)).grant

theorem commitEnd_roles (b : Bank) : (s.commitEnd m g).store.roles.get b =
    if s.scan.enabled then s.commitEntry g b else releaseBank (s.commitEntry g b) := by
  rw [(commitEnd_sameRest h).roles]
  exact commitChanges_roles_get (s.recorded m) g b

theorem commitEnd_storeMap :
    (s.commitEnd m g).store.storeMap = s.store.storeMap.set g.target.val g.bank g.target.isLt := by
  rw [(commitEnd_sameRest h).storeMap]
  exact commitChanges_storeMap (s.recorded m) g

theorem commitEnd_displayMap : (s.commitEnd m g).scan.displayMap =
    if s.scan.enabled then s.scan.displayMap else (s.commitEnd m g).store.storeMap := by
  rw [commitEnd_scan h, commitChanges_scan, (commitEnd_sameRest h).storeMap]
  rfl

theorem commitEnd_enabled : (s.commitEnd m g).scan.enabled = s.scan.enabled := by
  rw [commitEnd_scan h, commitChanges_scan]
  rfl

theorem commitEnd_latchDue : (s.commitEnd m g).scan.latchDue = s.scan.latchDue := by
  rw [commitEnd_scan h, commitChanges_scan]
  rfl

theorem commitEnd_staging : (s.commitEnd m g).store.staging = none := by
  rw [(commitEnd_sameRest h).staging, commitChanges_store]

theorem commitEnd_journal : (s.commitEnd m g).store.journal = { s.store.journal with
    generation := m.generation, retiredMask := m.mask, latest := some (m.area, m.slot), next := afterSlot m.slot } := by
  rw [(commitEnd_sameRest h).journal, commitChanges_store, ← slotAfter_eq]
  rfl

theorem commitEnd_results : (s.commitEnd m g).store.results = s.store.results ++ [s.commitResult f m g] := by
  obtain ⟨k, hk⟩ := commitEnd_store s m g
  have hjournal : (commitChanges g (s.recorded m)).store.journal = s.store.journal.written m := by
    rw [commitChanges_store]; rfl
  have hresults : (commitChanges g (s.recorded m)).store.results = s.store.results := by
    rw [commitChanges_store]; rfl
  have hentry : ∀ e : BankEntry, e = (commitChanges g (s.recorded m)).store.roles.get g.bank →
      e.count = (s.store.roles.get g.bank).count ∧ e.estimated = (s.store.roles.get g.bank).estimated := by
    rintro e rfl
    rw [commitChanges_roles_get]
    split
    · exact ⟨rfl, rfl⟩
    · unfold releaseBank
      split <;> exact ⟨rfl, rfl⟩
  obtain ⟨hcount, hmark⟩ := hentry _ rfl
  rw [hk]
  dsimp only
  rw [endDone_eq _ _ _ _ (recorded_inFlight h) (recorded_outstanding h), startHead_results, pushResult_store]
  simp only [makeResult, State.bankEntry, hjournal, hresults, hcount, hmark]
  rfl

end

theorem storeSide_commitEnd (s : State) (m : MapOp) (g : Staging) : StoreSide s (s.commitEnd m g) :=
  (((StoreSide.of s s.irq { s.arrPort with access := none } _ s.svc).trans (storeSide_commitChanges _ _)).trans
    (storeSide_endDone _ _ _ _ _)).trans (storeSide_arrayGrant _)

/-! ## The two ways of stopping the display -/

/-- What a disable and a DISPLAY RESET leave of the display map, the store and the array port, from a state in which the
engine is past its start (R24, R37, R99, R100). -/
structure State.Stopped (s t : State) : Prop where
  displayMap : t.scan.displayMap = s.store.storeMap
  enabled : t.scan.enabled = false
  storeMap : t.store.storeMap = s.store.storeMap
  roles : t.store.roles = releaseDraining s.store.roles
  staging : t.store.staging = s.store.staging
  results : t.store.results = s.store.results

/-- A stop beside a read of the store engine takes nothing from the commands: the port and what the engine waits for stay. -/
structure State.StoppedBeside (s t : State) (u : ArrUnit) : Prop extends s.Stopped t where
  released : t.released
  access : t.arrPort.access = some (.store (.read u) false)
  inFlight : t.store.inFlight = s.store.inFlight
  journal : t.store.journal = s.store.journal
  scan : t.store.scan = s.store.scan
  svc : t.svc = s.svc
  array : t.array = s.array

theorem stopped_stopDisplay {s : State} (h : s.store.engine ≠ .starting) : s.Stopped (stopDisplay s) := by
  obtain ⟨k, hk⟩ := stopDisplay_store s
  rw [if_neg h] at hk
  constructor
  case displayMap => rw [stopDisplay_scan]; exact if_neg h
  case enabled => rw [stopDisplay_scan]
  all_goals rw [hk]

theorem stoppedBeside_stopDisplay {s : State} {u : ArrUnit} (h : s.store.engine ≠ .starting) (hr : s.released)
    (ha : s.arrPort.access = some (.store (.read u) false)) : s.StoppedBeside (stopDisplay s) u := by
  have hbusy : ((copyUnlessStarting { loaderStops s with scan := { (loaderStops s).scan with
      enabled := false, pos := .none, rowStart := none, part := .off, lsel := 0, dots := [] } })).arrPort.access =
      some (.store (.read u) false) := by
    rw [copyUnlessStarting_eq]
    simp [ArrayPort.loaderLeaves, ha]
  have hstop : stopDisplay s = copyUnlessStarting { loaderStops s with scan := { (loaderStops s).scan with
      enabled := false, pos := .none, rowStart := none, part := .off, lsel := 0, dots := [] } } :=
    arrayGrant_busy (by rw [hbusy]; rfl)
  have hstopped := stopped_stopDisplay h
  have haccess := hstop ▸ hbusy
  refine { hstopped with
    released := ⟨by rw [stopDisplay_part]; exact hr.1, by rw [stopDisplay_scan]; exact hr.2⟩
    access := haccess, inFlight := ?_, journal := ?_, scan := ?_, svc := stopDisplay_svc s, array := stopDisplay_array s }
  all_goals
    rw [hstop, copyUnlessStarting_eq]
    rfl

theorem State.Stopped.from {s s' t : State} (h : s'.Stopped t) (hs : s'.store = s.store) : s.Stopped t := by
  cases h
  constructor <;> simpa only [← hs]

theorem State.StoppedBeside.from {s s' t : State} {u : ArrUnit} (h : s'.StoppedBeside t u) (hs : s'.store = s.store)
    (hv : s'.svc = s.svc) (ha : s'.array = s.array) : s.StoppedBeside t u where
  toStopped := h.toStopped.from hs
  released := h.released
  access := h.access
  inFlight := by rw [h.inFlight, hs]
  journal := by rw [h.journal, hs]
  scan := by rw [h.scan, hs]
  svc := by rw [h.svc, hv]
  array := by rw [h.array, ha]

/-- The commands that stop the display beside a commit: DISPLAY RESET, and a DISPCTL write with ENABLE clear (R24, R37). -/
def State.stopCommand (s : State) (c : Instr) : Prop :=
  c = .displayReset ∨ ∃ v : Byte, c = .displayDisable v ∧ v.getLsbD 0 = false ∧ s.dataAt 0 0

theorem exec_stop {s : State} {c : Instr} (ho : s.hostOpen) (hc : s.stopCommand c) (he : s.scan.enabled = true)
    (hs : s.store.engine ≠ .starting) :
    ∃ t, exec c s = .next t ∧ s.Stopped t ∧
      ∀ u, s.arrPort.access = some (.store (.read u) false) → s.StoppedBeside t u := by
  rcases hc with rfl | ⟨v, rfl, hv, hat⟩
  · refine ⟨displayReset s, strobe_command ho 1, ?_, fun u ha => ?_⟩
    · exact { stopped_stopDisplay hs with }
    · exact { stoppedBeside_stopDisplay hs ho.1.1 ha with }
  · have hswap := swapIfPending_eq s
    have hstore : (swapIfPending s).store = s.store := by rw [hswap]
    have hengine : (swapIfPending s).store.engine ≠ .starting := by rw [hstore]; exact hs
    have hrel : (swapIfPending s).released := ⟨by rw [hswap]; exact ho.1.1.1, by rw [swapIfPending_scan]; exact ho.1.1.2⟩
    refine ⟨stepAddr (disableDisplay s), ?_, ?_, fun u ha => ?_⟩
    · rw [← if_pos (t := disableDisplay s) (e := s) he, ← writeDispctl_clear hv]
      exact strobe_dispctl hat v
    · exact { (stopped_stopDisplay hengine).from hstore with }
    · have hbeside := stoppedBeside_stopDisplay hengine hrel (u := u) (by rw [hswap]; exact ha)
      exact { hbeside.from hstore (by rw [hswap]) (by rw [hswap]) with }

/-! ## The commit -/

/-- What a COMMIT changes, by the state of the display (R99, R100, R130, R145). -/
theorem commit_takes_effect {s : State} {f : InFlight} {p : ProgOp} {m : MapOp} {g : Staging} {u : ArrUnit}
    (h : s.CommitEnds f p m g u) :
    ((s.commitEnd m g).store.roles.get g.bank).role = .mapped g.target ∧
    (s.store.storeMap.get g.target ≠ g.bank → s.scan.enabled = true →
      ((s.commitEnd m g).store.roles.get (s.store.storeMap.get g.target)).role = .spareDraining ∧
      ∀ b, b ≠ g.bank → b ≠ s.store.storeMap.get g.target →
        (s.commitEnd m g).store.roles.get b = s.store.roles.get b) ∧
    (s.store.storeMap.get g.target ≠ g.bank → s.scan.enabled = false →
      ((s.commitEnd m g).store.roles.get (s.store.storeMap.get g.target)).role = .spareDirty ∧
      ∀ b, ((s.commitEnd m g).store.roles.get b).role ≠ .spareDraining) := by
  have hroles := commitEnd_roles h
  refine ⟨?_, fun hne he => ⟨?_, fun b hb hold => ?_⟩, fun hne he => ⟨?_, fun b => ?_⟩⟩
  · rw [hroles]
    split
    · simp [State.commitEntry]
    · simp [releaseBank_role, State.commitEntry]
  · simp [hroles, he, State.commitEntry, hne]
  · simp [hroles, he, State.commitEntry, hb, hold]
  · simp [hroles, he, State.commitEntry, hne, releaseBank_role]
  · rw [hroles, he, if_neg (by decide), releaseBank_role]
    split
    · decide
    · assumption

/-- A commit before the stop and a commit after it leave a bank in the same role. -/
theorem commitEntry_stop_comm {s t : State} (g : Staging) (he : s.scan.enabled = true) (h : s.Stopped t) (b : Bank) :
    (releaseBank (s.commitEntry g b)).role = (releaseBank (t.commitEntry g b)).role := by
  simp only [releaseBank_role, State.commitEntry, he, h.enabled, h.storeMap, h.roles, releaseDraining_get]
  split
  · rfl
  · split <;> split <;> simp_all

/-- A stop before the commit leaves the result of the COMMIT as it is. -/
theorem commitResult_stop {s t : State} (f : InFlight) (m : MapOp) (g : Staging) (h : s.Stopped t) :
    t.commitResult f m g = s.commitResult f m g := by
  have hentry : (releaseBank (s.store.roles.get g.bank)).count = (s.store.roles.get g.bank).count ∧
      (releaseBank (s.store.roles.get g.bank)).estimated = (s.store.roles.get g.bank).estimated := by
    unfold releaseBank
    split <;> exact ⟨rfl, rfl⟩
  simp only [State.commitResult, h.roles, releaseDraining_get, hentry]

/-- The premises of a commit stand after a stop of the display beside it. -/
theorem State.CommitEnds.stopped {s t : State} {f : InFlight} {p : ProgOp} {m : MapOp} {g : Staging} {u : ArrUnit}
    (h : s.CommitEnds f p m g u) (k : s.StoppedBeside t u) : t.CommitEnds f p m g u :=
  { h with
    access := k.access
    scan := k.scan.trans h.scan
    inFlight := k.inFlight.trans h.inFlight
    target := by rw [State.rawBytes, k.array]; exact h.target
    staging := k.staging.trans h.staging
    outstanding := by rw [k.svc]; exact h.outstanding }

/-- The end of a COMMIT leaves the host window and the engine's start as they are. -/
theorem commitEnd_hostOpen {s : State} (m : MapOp) (g : Staging) (h : s.hostOpen)
    (hd : (s.commitEnd m g).scan.latchDue = s.scan.latchDue) : (s.commitEnd m g).hostOpen := by
  have hside := storeSide_commitEnd s m g
  obtain ⟨⟨⟨hheld, hlatch⟩, hwait⟩, hservice⟩ := h
  refine ⟨⟨⟨by rw [hside.part]; exact hheld, hd.trans hlatch⟩, ?_⟩, by rw [hside.part]; exact hservice⟩
  rw [State.waitLow, hside.win]
  exact hwait

theorem commitEnd_not_starting {s : State} (m : MapOp) (g : Staging) (h : s.store.engine ≠ .starting) :
    (s.commitEnd m g).store.engine ≠ .starting := by
  have hbefore : (commitChanges g (s.recorded m)).store.engine ≠ .starting := by
    rw [commitChanges_store]
    exact h
  obtain ⟨k, hk⟩ := commitEnd_store s m g
  rw [hk]
  exact mt (banksKept_endDone _ _ _ _ hbefore).starting.1 hbefore

/-- Settles O40, by the state that the end of the map write leaves; the order of a commit and a stop is told by what the stop
copies. -/
theorem commitTakesEffectInOneStep : Obligations.CommitTakesEffectInOneStep := by
  refine ⟨fun s f p m g u hr ha hscan hf hp her hm hv hmark hst ht hg hout hne => ?_,
    fun s c f p m g u ho hc he hs ha hscan hf hp her hm hv hmark hst ht hg hout => ?_⟩
  · have h : s.CommitEnds f p m g u := ⟨ha, hscan, hf, hp, her, hm, hv, hmark, hst, ht, hg, hout⟩
    have hside := storeSide_commitEnd s m g
    obtain ⟨hmapped, hon, hoff⟩ := commit_takes_effect h
    refine ⟨s.commitEnd m g, (occur_released hr).trans (congrArg _ (arrayReadComplete_commitEnds h)),
      commitEnd_completes h, fun l => ?_, commitEnd_staging h, commitEnd_journal h, hmapped, fun he => ⟨?_, hon hne he⟩,
      fun he => ⟨?_, hoff hne he⟩, hside.array, hside.ctl, hside.cells, hside.win⟩
    · rw [commitEnd_storeMap h]
      exact vector_get_set _ g.target l g.bank
    · rw [commitEnd_displayMap h, if_pos he]
    · rw [commitEnd_displayMap h, he, if_neg (by decide)]
  · have h : s.CommitEnds f p m g u := ⟨ha, hscan, hf, hp, her, hm, hv, hmark, hst, ht, hg, hout⟩
    have hside := storeSide_commitEnd s m g
    have hopen := commitEnd_hostOpen m g ho (commitEnd_latchDue h)
    have hstop : (s.commitEnd m g).stopCommand c := hc.imp_right fun ⟨v, hv, hbit, _, hat⟩ =>
      ⟨v, hv, hbit, hopen, by rw [hside.win]; exact hat⟩
    obtain ⟨t₁, hexec₁, hstopped₁, -⟩ := exec_stop hopen hstop ((commitEnd_enabled h).trans he)
      (commitEnd_not_starting m g hs)
    obtain ⟨u₂, hexec₂, hstopped₂, hbeside⟩ := exec_stop ho hc he hs
    have h₂ := h.stopped (hbeside u ha)
    refine ⟨s.commitEnd m g, t₁, u₂, u₂.commitEnd m g,
      (occur_released ho.1.1).trans (congrArg _ (arrayReadComplete_commitEnds h)), hexec₁, hexec₂,
      (occur_released (hbeside u ha).released).trans (congrArg _ (arrayReadComplete_commitEnds h₂)), ?_, ?_, ?_,
      fun b => ?_, ?_, ?_, commitEnd_staging h₂⟩
    · rw [hstopped₁.storeMap, commitEnd_storeMap h, commitEnd_storeMap h₂, hstopped₂.storeMap]
    · rw [hstopped₁.displayMap, hstopped₁.storeMap]
    · rw [commitEnd_displayMap h₂, hstopped₂.enabled, if_neg (by decide)]
    · rw [hstopped₁.roles, releaseDraining_get, commitEnd_roles h, if_pos he, commitEnd_roles h₂, hstopped₂.enabled,
        if_neg (by decide)]
      exact commitEntry_stop_comm g he hstopped₂ b
    · rw [hstopped₁.results, commitEnd_results h, commitEnd_results h₂, hstopped₂.results,
        commitResult_stop f m g hstopped₂]
    · rw [hstopped₁.staging, commitEnd_staging h]

end Sys2Proof.Machine
end

section
/-! SUPPORT. The end of the start-up scan: the record that is adopted, the counts and the journal that the scan builds, and
the answer to a record that waits (R149 to R152, R160, R163, R164). -/

namespace Sys2Proof.Machine

/-! ## The adopted record -/

section
variable {rest : List SlotClass} {k m : Nat} {r q : MapRecord}

theorem bestRecord_valid_last (h : bestRecord (k + 1) rest = none) : bestRecord k (.valid r :: rest) = some (k, r) := by
  simp only [bestRecord, h]

theorem bestRecord_valid_later (h : bestRecord (k + 1) rest = some (m, q)) :
    bestRecord k (.valid r :: rest) = if r.generation < q.generation then some (m, q) else some (k, r) := by
  simp only [bestRecord, h]

theorem bestRecord_passed {c : SlotClass} (h : ∀ r, c ≠ .valid r) : bestRecord k (c :: rest) = bestRecord (k + 1) rest := by
  cases c with
  | valid r => exact absurd rfl (h r)
  | erased => rfl
  | spoiled => rfl

end

/-- The record that the scan chooses stands at its place in the slots read. -/
theorem bestRecord_place {slots : List SlotClass} {k n : Nat} {r : MapRecord} (h : bestRecord k slots = some (n, r)) :
    ∃ i, n = k + i ∧ slots[i]? = some (.valid r) := by
  induction slots generalizing k with
  | nil => cases h
  | cons c rest ih =>
    have hlater : bestRecord (k + 1) rest = some (n, r) → ∃ i, n = k + i ∧ (c :: rest)[i]? = some (.valid r) := by
      intro hr
      obtain ⟨i, hn, hi⟩ := ih hr
      exact ⟨i + 1, by omega, hi⟩
    by_cases hc : ∃ q, c = .valid q
    · obtain ⟨q, rfl⟩ := hc
      cases hrest : bestRecord (k + 1) rest with
      | none =>
        rw [bestRecord_valid_last hrest] at h
        cases h; exact ⟨0, rfl, rfl⟩
      | some x =>
        rw [bestRecord_valid_later (q := x.2) (m := x.1) hrest] at h
        split at h
        · exact hlater (hrest.trans h)
        · cases h; exact ⟨0, rfl, rfl⟩
    · exact hlater (bestRecord_passed (fun r hr => hc ⟨r, hr⟩) ▸ h)

theorem bestRecord_none {slots : List SlotClass} (h : ∀ r, .valid r ∉ slots) (k : Nat) : bestRecord k slots = none := by
  cases hb : bestRecord k slots with
  | none => rfl
  | some x => exact absurd (bestRecord_mem hb) (h x.2)

/-- The scan chooses the record of the highest generation, of equals the one read first (R149). -/
theorem bestRecord_adopted {slots : List SlotClass} {n : Nat} {r : MapRecord} (h : adoptedAt slots n r) (k : Nat) :
    bestRecord k slots = some (k + n, r) := by
  induction slots generalizing k n with
  | nil => cases h.1
  | cons c rest ih =>
    obtain ⟨hplace, hbest⟩ := h
    cases n with
    | zero =>
      cases hplace
      cases hrest : bestRecord (k + 1) rest with
      | none => exact bestRecord_valid_last hrest
      | some x =>
        obtain ⟨i, -, hi⟩ := bestRecord_place (n := x.1) (r := x.2) hrest
        have hnot : ¬r.generation < x.2.generation := by
          rw [BitVec.lt_def]
          rcases hbest (i + 1) x.2 hi with hlt | ⟨heq, -⟩
          · omega
          · rw [heq]; omega
        rw [bestRecord_valid_later (m := x.1) (q := x.2) hrest, if_neg hnot]
        rfl
    | succ n =>
      have hrest := ih ⟨hplace, fun m q hm => (hbest (m + 1) q hm).imp_right (And.imp_right Nat.le_of_succ_le_succ)⟩ (k + 1)
      have hplaces : k + 1 + n = k + (n + 1) := by omega
      rw [hplaces] at hrest
      by_cases hc : ∃ q, c = .valid q
      · obtain ⟨q, rfl⟩ := hc
        have hlt : q.generation < r.generation := (hbest 0 q rfl).resolve_right (by omega)
        rw [bestRecord_valid_later hrest, if_pos hlt]
      · rw [bestRecord_passed fun q hq => hc ⟨q, hq⟩, hrest]

/-! ## The journal -/

theorem erased_getD {slots : List SlotClass} {i : Nat} : slots.getD i .spoiled = .erased ↔ slots[i]? = some .erased := by
  rw [List.getD_eq_getElem?_getD]
  cases slots[i]? <;> simp

/-- The next slot of the journal is the first erased one after the adopted slot in its area (R151). -/
theorem nextErased_eq_some {slots : List SlotClass} {n : Nat} {k : Fin 8} : nextErased slots n = some k ↔
    n % 8 < k.val ∧ slots[8 * (n / 8) + k.val]? = some .erased ∧
      ∀ j, n % 8 < j → j < k.val → slots[8 * (n / 8) + j]? ≠ some .erased := by
  have hmap : nextErased slots n = some k ↔ ((List.range 8).find? fun k =>
      decide (n % 8 < k) && decide (slots.getD (8 * (n / 8) + k) .spoiled = .erased)) = some k.val := by
    unfold nextErased
    rw [Option.map_eq_some_iff]
    constructor
    · rintro ⟨a, ha, rfl⟩
      have hlt := List.mem_range.1 (List.mem_of_find?_eq_some ha)
      rw [ha]
      exact congrArg some (Nat.mod_eq_of_lt hlt).symm
    · exact fun ha => ⟨_, ha, Fin.ext (Nat.mod_eq_of_lt k.isLt)⟩
  rw [hmap, List.find?_range_eq_some]
  simp only [Bool.and_eq_true, decide_eq_true_eq, erased_getD, List.mem_range, k.isLt, true_and, Bool.not_eq_true',
    Bool.and_eq_false_iff, decide_eq_false_iff_not, and_assoc]
  refine and_congr_right fun _ => and_congr_right fun _ => forall_congr' fun j => ?_
  tauto

/-! ## The counts -/

/-- One header's part in the largest count (R150). -/
def largerCount (best : Word16) (h : Option Word16) : Word16 :=
  match h with
  | some c => if best < c then c else best
  | none => best

theorem largestCount_eq (headers : List (Option Word16)) : largestCount headers = headers.foldl largerCount 0 := rfl

theorem largerCount_bounds (best : Word16) (h : Option Word16) :
    best.toNat ≤ (largerCount best h).toNat ∧ (∀ c, h = some c → c.toNat ≤ (largerCount best h).toNat) ∧
      (largerCount best h = best ∨ h = some (largerCount best h)) := by
  cases h with
  | none => exact ⟨le_rfl, by simp, .inl rfl⟩
  | some c =>
    by_cases hlt : best < c
    · have hc : largerCount best (some c) = c := if_pos hlt
      rw [BitVec.lt_def] at hlt
      simp [hc, hlt.le]
    · have hc : largerCount best (some c) = best := if_neg hlt
      rw [BitVec.lt_def] at hlt
      simp [hc, Nat.not_lt.1 hlt]

theorem foldl_largerCount (headers : List (Option Word16)) (best : Word16) :
    best.toNat ≤ (headers.foldl largerCount best).toNat ∧
      (∀ c, some c ∈ headers → c.toNat ≤ (headers.foldl largerCount best).toNat) ∧
      (headers.foldl largerCount best = best ∨ some (headers.foldl largerCount best) ∈ headers) := by
  induction headers generalizing best with
  | nil => simp
  | cons h rest ih =>
    obtain ⟨hstep, hhead, hfrom⟩ := largerCount_bounds best h
    obtain ⟨hle, hrest, hmem⟩ := ih (largerCount best h)
    rw [List.foldl_cons]
    refine ⟨hstep.trans hle, fun c hc => ?_, ?_⟩
    · rcases List.mem_cons.1 hc with rfl | hc
      · exact (hhead c rfl).trans hle
      · exact hrest c hc
    · rcases hmem with heq | hmem
      · rw [heq]
        exact hfrom.imp id fun h => List.mem_cons.2 (.inl h.symm)
      · exact .inr (List.mem_cons_of_mem _ hmem)

/-- The largest count is that of a valid header, or 0, and no valid header holds a larger one (R150). -/
theorem largestCount_max (headers : List (Option Word16)) :
    (∀ c, some c ∈ headers → c.toNat ≤ (largestCount headers).toNat) ∧
      (some (largestCount headers) ∈ headers ∨ largestCount headers = 0) := by
  obtain ⟨-, hle, hmem⟩ := foldl_largerCount headers 0
  exact ⟨hle, hmem.symm⟩

/-! ## The roles -/

theorem scannedRole_unmapped {m : Vector Bank 14} {b : Bank} (h : ∀ l, m.get l ≠ b) (mask : Word16) :
    scannedRole m mask b.val = if mask.getLsbD b.val then .retired else .spareDirty := by
  have hhome : homeOf m b.val = none := by
    cases hb : homeOf m b.val with
    | none => rfl
    | some l => exact absurd (get_of_homeOf hb) (h l)
  simp only [scannedRole, hhome]

theorem scannedRole_not_draining (m : Vector Bank 14) (mask : Word16) (b : Nat) : scannedRole m mask b ≠ .spareDraining := by
  unfold scannedRole
  split
  · simp
  · split <;> simp

/-- The copy at the end of the scan finds no draining spare. -/
theorem releaseDraining_scannedRoles (m : Vector Bank 14) (mask : Word16) (headers : List (Option Word16)) (b : Bank) :
    (releaseDraining (scannedRoles m mask headers)).get b =
      { role := scannedRole m mask b.val, count := (headers.getD b.val none).getD (largestCount headers)
        estimated := (headers.getD b.val none).isNone } := by
  rw [releaseDraining_get, scannedRoles_get]
  exact if_neg (scannedRole_not_draining m mask b.val)

theorem identityMap_get (l : Logical) : (identityMap.get l).val = l.val := by
  have h : l.val < 16 := by omega
  simp [identityMap, Vector.get_eq_getElem, Nat.mod_eq_of_lt h]

/-! ## The end of the scan -/

/-- The state with what the scan has built, before the head of the queue may start (R152). -/
def State.scanTaken (s : State) (p : ScanProgress) : State :=
  copyStoreMap
    { s with
      store := { s.store with
        storeMap := (adoptedRecord p.slots).map
        roles := scannedRoles (adoptedRecord p.slots).map (adoptedRecord p.slots).mask p.headers
        journal := scannedJournal p.slots, staging := none, scan := none, engine := .idle, wait := .none } }

section
variable (p : ScanProgress) (s : State)

/-- The flags of the end of the scan are raised last, MAPDEFAULT for the default (R152). -/
theorem finishScan_eq : finishScan p s = { startHead (s.scanTaken p) with
    irq := if bestRecord 0 p.slots = none then ((startHead (s.scanTaken p)).irq.raise .startDone).raise .mapDefault
      else (startHead (s.scanTaken p)).irq.raise .startDone } := by
  unfold finishScan
  dsimp only
  split <;> rename_i h <;> rw [h] <;> rfl

theorem finishScan_store : (finishScan p s).store = (startHead (s.scanTaken p)).store := by rw [finishScan_eq]

@[simp] theorem finishScan_svc : (finishScan p s).svc = s.svc := by
  rw [finishScan_eq]
  exact startHead_svc (s.scanTaken p)

theorem finishScan_displayMap : (finishScan p s).scan.displayMap = (adoptedRecord p.slots).map := by
  rw [finishScan_eq]
  exact congrArg (·.displayMap) (startHead_scan (s.scanTaken p))

theorem finishScan_sameRest : (s.scanTaken p).store.SameRest (finishScan p s).store := by
  rw [finishScan_store]
  exact startHead_sameRest _

theorem finishScan_array : (finishScan p s).array = s.array := by
  rw [finishScan_eq]
  exact (storeSide_startHead (s.scanTaken p)).array

theorem finishScan_roles_get (b : Bank) : (finishScan p s).store.roles.get b =
    { role := scannedRole (adoptedRecord p.slots).map (adoptedRecord p.slots).mask b.val
      count := (p.headers.getD b.val none).getD (largestCount p.headers)
      estimated := (p.headers.getD b.val none).isNone } := by
  rw [(finishScan_sameRest p s).roles]
  exact releaseDraining_scannedRoles _ _ _ b

/-- The start of the head raises QSPACE at most. -/
theorem startHead_isSet_other {f : Flag} (hf : f ≠ .qspace) (s : State) : (startHead s).irq.isSet f = s.irq.isSet f := by
  unfold startHead
  split
  · rfl
  · rfl
  · split
    · unfold qspaceFrom
      split
      · exact (isSet_raise _ _ _).trans (by simp [hf.symm])
      · rfl
    · rfl

theorem finishScan_startDone : (finishScan p s).irq.isSet .startDone = true := by
  rw [finishScan_eq]
  dsimp only
  split
  · exact isSet_raise_of _ (isSet_raise_self _ _)
  · exact isSet_raise_self _ _

theorem finishScan_mapDefault : (finishScan p s).irq.isSet .mapDefault =
    (decide (bestRecord 0 p.slots = none) || s.irq.isSet .mapDefault) := by
  have hbefore : (startHead (s.scanTaken p)).irq.isSet .mapDefault = s.irq.isSet .mapDefault :=
    startHead_isSet_other (by decide) _
  rw [finishScan_eq]
  dsimp only
  split
  · rename_i h
    rw [isSet_raise_self, h]; rfl
  · rename_i h
    rw [isSet_raise, hbefore]
    simp [h]

end

/-- The scan with every slot and every header read (R149, R150). -/
theorem scanOver_read {s : State} {p : ScanProgress} (hp : s.store.scan = some p) (hs : p.slots.length = 16)
    (hh : p.headers.length = 16) : s.scanOver = some p := by
  simp [State.scanOver, hp, ScanProgress.nextUnit, hs, hh]

theorem startUpScanEnd_quiet {s : State} {p : ScanProgress} (hp : s.store.scan = some p) (hs : p.slots.length = 16)
    (hh : p.headers.length = 16) (hw : s.svc.startupWait = none) : startUpScanEnd s = finishScan p s := by
  simp only [startUpScanEnd, scanOver_read hp hs hh, actStartupWait, finishScan_svc, hw]

/-! ## The records that wait -/

/-- The bits of a mask after those of the places in a list that meet a condition have been set. -/
theorem foldl_setBit_getLsbD (c : Nat → Prop) [DecidablePred c] (l : List Nat) (m : Word16) {j : Nat} (hj : j < 16) :
    (l.foldl (fun m b => if c b then setBit m b else m) m).getLsbD j = (m.getLsbD j || decide (j ∈ l ∧ c j)) := by
  induction l generalizing m with
  | nil => simp
  | cons b rest ih =>
    rw [List.foldl_cons, ih]
    by_cases hc : c b
    · rw [if_pos hc, setBit_getLsbD _ _ _ hj]
      by_cases hb : b = j
      · subst hb; simp [hc]
      · simp [hb, Ne.symm hb]
    · rw [if_neg hc]
      by_cases hb : j = b
      · subst hb; simp [hc]
      · simp [hb]

theorem retiredRoles_getLsbD (v : Vector BankEntry 16) (b : Bank) :
    (retiredRoles v).getLsbD b.val = decide ((v.get b).role = .retired) := by
  have hb : Fin.ofNat 16 b.val = b := Fin.ext (Nat.mod_eq_of_lt b.isLt)
  refine (foldl_setBit_getLsbD (fun b => (v.get (Fin.ofNat 16 b)).role = .retired) _ _ b.isLt).trans ?_
  simp only [hb, List.mem_range, b.isLt, true_and]
  simp

theorem countRole_eq (v : Vector BankEntry 16) (r : Role) :
    countRole v r = ((List.finRange 16).filter fun b => decide ((v.get b).role = r)).length := by
  have hlist : v.toList = (List.finRange 16).map v.get := by
    apply List.ext_getElem
    · simp
    · intro i hi hj
      simp [Vector.get_eq_getElem]
  rw [countRole, hlist, List.filter_map, List.length_map]
  rfl

/-- The payload of the K reply to Q is the status of the state (R163). -/
theorem statusPayload_told (t : State) : t.statusPayload (statusPayload t.store) := by
  refine ⟨retiredRoles t.store.roles, retiredRoles_getLsbD _, ?_⟩
  simp only [← countRole_eq]
  unfold statusPayload
  cases hg : t.store.staging <;> rfl

theorem startHead_busy {s : State} {f : InFlight} (h : s.store.inFlight = some f) : startHead s = s := by
  unfold startHead; rw [h]

/-- Changes of the service port and a start of the head of the queue do not touch each other. -/
theorem startHead_withSvc (v : Service → Service) (s : State) : startHead (s.withSvc v) = (startHead s).withSvc v := by
  cases hf : s.store.inFlight with
  | some f => rw [startHead_busy hf, startHead_busy (s := s.withSvc v) hf]
  | none =>
    cases hq : s.store.queue with
    | nil => rw [startHead_empty hf hq, startHead_empty (s := s.withSvc v) hf hq]; rfl
    | cons e q =>
      by_cases hr : s.store.results.length < 4
      · rw [startHead_head hf hq hr, startHead_head (s := s.withSvc v) hf hq hr]; rfl
      · have hne : s.store.queue ≠ [] := by simp [hq]
        rw [startHead_full hf hne (Nat.not_lt.1 hr), startHead_full (s := s.withSvc v) hf hne (Nat.not_lt.1 hr)]; rfl

theorem finishScan_withSvc (v : Service → Service) (p : ScanProgress) (s : State) :
    finishScan p (s.withSvc v) = (finishScan p s).withSvc v := by
  have hstart : startHead ((s.withSvc v).scanTaken p) = (startHead (s.scanTaken p)).withSvc v :=
    startHead_withSvc v (s.scanTaken p)
  rw [finishScan_eq, finishScan_eq, hstart]
  rfl

theorem queueItem_withSvc {s : State} (it : TxItem) (h : s.svc.sending = none) : queueItem it s = s.withSvc (beginSend it) :=
  queueItem_idle it h

/-- With the transmitter idle the answer to a Q record touches the service port alone. -/
theorem answerQ_withSvc {s : State} (h : s.svc.sending = none) : answerQ s =
    s.withSvc fun v => beginSend (.reply 0x4B (statusPayload s.store) false false) { v with state := .ready } :=
  queueItem_withSvc _ h

/-- With the transmitter idle and no staging open the answer to an E record touches the service port alone. -/
theorem answerE_withSvc {s : State} (h : s.svc.sending = none) (hg : s.store.staging = none) : answerE s =
    s.withSvc fun v => beginSend (.reply 0x4B [] false true) { v with state := .closing } := by
  unfold answerE
  rw [hg]
  exact queueItem_withSvc _ h

/-- What a reply says depends on the state before only through its two notes. -/
theorem State.replies.from {s u t : State} {letter : Byte} {payload : List Byte} (h : u.replies t letter payload)
    (hd : u.svc.inputDropped = s.svc.inputDropped) (hl : u.svc.replyLost = s.svc.replyLost) :
    s.replies t letter payload := by
  unfold State.replies at *
  rwa [hd, hl] at h

theorem answersQ_answerQ {s : State} (h : s.svc.sending = none) : s.answersQ (answerQ s) := by
  rw [answerQ_withSvc h]
  exact ⟨rfl, _, statusPayload_told s, replies_of (x := false) (c := false) rfl rfl rfl⟩

theorem answersE_answerE {s : State} (h : s.svc.sending = none) (hg : s.store.staging = none) : s.answersE (answerE s) := by
  rw [answerE_withSvc h hg]
  refine ⟨fun _ => ⟨rfl, replies_of (x := false) (c := true) rfl rfl rfl, _, rfl, rfl⟩, fun hsome => ?_⟩
  have hnone : s.store.staging.isSome = true := hsome
  rw [hg] at hnone
  cases hnone

/-- Past its start the engine has nothing to make a Q or E record wait for (R160). -/
theorem actRecord_q {s : State} (h : s.store.engine ≠ .starting) : actRecord .q s = answerQ s := if_neg h

theorem actRecord_e {s : State} (h : s.store.engine ≠ .starting) : actRecord .e s = answerE s := if_neg h

theorem finishScan_not_starting (p : ScanProgress) (s : State) : (finishScan p s).store.engine ≠ .starting := by
  have hidle : (s.scanTaken p).store.engine ≠ .starting := show Engine.idle ≠ .starting by decide
  rw [finishScan_store]
  exact mt (banksKept_startHead hidle).starting.1 hidle

theorem finishScan_staging (p : ScanProgress) (s : State) : (finishScan p s).store.staging = none :=
  (finishScan_sameRest p s).staging

/-- Settles O48: the adopted record, the default and the waiting records in turn. -/
theorem scanEndTakesEffectInOneStep : Obligations.ScanEndTakesEffectInOneStep := by
  refine ⟨fun s p n r hr hp hs hh hw hf ha hnodup => ?_, fun s p hr hp hs hh hw hf hnone => ?_,
    fun s p hr hp hs hh hf hsend hwait => ?_⟩
  · have hbest : bestRecord 0 p.slots = some (n, r) := by simpa using bestRecord_adopted ha 0
    have hrecord : adoptedRecord p.slots = r := by simp only [adoptedRecord, hbest]
    have hrest := finishScan_sameRest p s
    have hjournal : (finishScan p s).store.journal = scannedJournal p.slots := hrest.journal
    have hbuilt : scannedJournal p.slots =
        { active := areaOf n, next := nextErased p.slots n, latest := some (areaOf n, Fin.ofNat 8 n)
          generation := r.generation, retiredMask := r.mask } := by simp only [scannedJournal, hbest]
    rw [hbuilt] at hjournal
    have hroles := finishScan_roles_get p s
    rw [hrecord] at hroles
    refine ⟨finishScan p s, (occur_released hr).trans (congrArg _ (startUpScanEnd_quiet hp hs hh hw)), ?_, ?_, ?_, ?_, ?_,
      ⟨Fin.ofNat 8 n, rfl, ?_⟩, fun k => ?_, fun l => ?_, fun b hb => ?_, fun b c hc => ?_, fun b hb => ?_,
      finishScan_staging p s, hrest.scan, finishScan_startDone p s, ?_, finishScan_array p s, finishScan_svc p s,
      fun hq => ?_, fun e q hq hl => ?_⟩
    · exact hrest.storeMap.trans (congrArg MapRecord.map hrecord)
    · exact (finishScan_displayMap p s).trans (congrArg MapRecord.map hrecord)
    · rw [hjournal]
    · rw [hjournal]
    · rw [hjournal]; rfl
    · rw [hjournal]; rfl
    · rw [hjournal]; exact nextErased_eq_some
    · rw [hroles]; exact scannedRole_mapped hnodup r.mask l
    · rw [hroles]; exact scannedRole_unmapped hb r.mask
    · rw [hroles, List.getD_eq_getElem?_getD, hc]; exact ⟨rfl, rfl⟩
    · rw [hroles, List.getD_eq_getElem?_getD, hb]; exact ⟨rfl, largestCount_max p.headers⟩
    · rw [finishScan_mapDefault, hbest]; rfl
    · rw [finishScan_store, startHead_empty (by exact hf) (by exact hq)]
      exact ⟨rfl, hf⟩
    · rw [finishScan_store, startHead_head (by exact hf) (by exact hq) (by exact hl)]
      exact ⟨rfl, rfl, rfl⟩
  · have hbest := bestRecord_none hnone 0
    have hrecord : adoptedRecord p.slots = defaultRecord := by simp only [adoptedRecord, hbest]
    have hrest := finishScan_sameRest p s
    have hroles := finishScan_roles_get p s
    rw [hrecord] at hroles
    have hnodup : identityMap.toList.Nodup := by decide
    refine ⟨finishScan p s, (occur_released hr).trans (congrArg _ (startUpScanEnd_quiet hp hs hh hw)),
      fun l => ⟨?_, ?_⟩, ?_, fun b l hb => ?_, ?_, ?_, finishScan_staging p s, hrest.scan, finishScan_startDone p s, ?_,
      finishScan_array p s, finishScan_svc p s⟩
    · rw [hrest.storeMap]
      exact (congrArg (fun r : MapRecord => (r.map.get l).val) hrecord).trans (identityMap_get l)
    · rw [finishScan_displayMap, hrecord]
      exact identityMap_get l
    · have hbuilt : scannedJournal p.slots =
          { active := .a, next := none, latest := none, generation := 0, retiredMask := 0 } := by
        simp only [scannedJournal, hbest]
      exact hrest.journal.trans hbuilt
    · have hb : identityMap.get l = b := Fin.ext ((identityMap_get l).trans hb.symm)
      rw [hroles, ← hb]
      exact scannedRole_mapped hnodup _ l
    · rw [hroles]
      exact (show scannedRole defaultRecord.map defaultRecord.mask 14 = .spareDirty by decide)
    · rw [hroles]
      exact (show scannedRole defaultRecord.map defaultRecord.mask 15 = .spareDirty by decide)
    · rw [finishScan_mapDefault, hbest]; rfl
  · let u := finishScan p (s.withSvc fun v => { v with startupWait := none })
    have hu : u = (finishScan p s).withSvc fun v => { v with startupWait := none } := finishScan_withSvc _ p s
    have hsvc : u.svc = { s.svc with startupWait := none } := finishScan_svc p _
    have hidle : u.svc.sending = none := by rw [hsvc]; exact hsend
    have hdropped : u.svc.inputDropped = s.svc.inputDropped := by rw [hsvc]
    have hlost : u.svc.replyLost = s.svc.replyLost := by rw [hsvc]
    have hstart : u.store.engine ≠ .starting := finishScan_not_starting p _
    have hstaging : u.store.staging = none := finishScan_staging p _
    have hquiet : exec .startUpScanEnd { s with svc := { s.svc with startupWait := none } } = .next u :=
      (occur_released (s := s.withSvc fun v => { v with startupWait := none }) hr).trans
        (congrArg _ (startUpScanEnd_quiet hp hs hh rfl))
    have hacted : ∀ r, s.svc.startupWait = some r → exec .startUpScanEnd s = .next (actRecord r u) := fun r hrec => by
      have hend : startUpScanEnd s = actRecord r u := by
        simp only [startUpScanEnd, scanOver_read hp hs hh, actStartupWait, finishScan_svc, hrec, hu]
      exact (occur_released hr).trans (congrArg _ hend)
    rcases hwait with hq | he
    · refine ⟨answerQ u, u, (hacted _ hq).trans (congrArg _ (actRecord_q hstart)), hquiet, ?_, ?_, ?_, ?_, fun _ => ?_,
        fun he => (by rw [hq] at he; cases he)⟩
      · rw [answerQ_withSvc hidle]; rfl
      · rw [answerQ_withSvc hidle]; rfl
      · rw [answerQ_withSvc hidle]; rfl
      · rw [answerQ_withSvc hidle]; exact congrArg (·.startupWait) hsvc
      · obtain ⟨hready, payload, hstatus, hreply⟩ := answersQ_answerQ hidle
        exact ⟨hready, payload, hstatus, hreply.from hdropped hlost⟩
    · refine ⟨answerE u, u, (hacted _ he).trans (congrArg _ (actRecord_e hstart)), hquiet, ?_, ?_, ?_, ?_,
        fun hq => (by rw [he] at hq; cases hq), fun _ => ?_⟩
      · rw [answerE_withSvc hidle hstaging]; rfl
      · rw [answerE_withSvc hidle hstaging]; rfl
      · rw [answerE_withSvc hidle hstaging]; rfl
      · rw [answerE_withSvc hidle hstaging]; exact congrArg (·.startupWait) hsvc
      · obtain ⟨hclosed, hopen⟩ := answersE_answerE hidle hstaging
        exact ⟨fun hg => ⟨(hclosed hg).1, (hclosed hg).2.1.from hdropped hlost, (hclosed hg).2.2⟩,
          fun hg => ⟨(hopen hg).1, (hopen hg).2.1.from hdropped hlost, (hopen hg).2.2⟩⟩

end Sys2Proof.Machine
end

section
/-! SUPPORT. The ends of store commands in general: what every end keeps, what a grant after it leaves, and the loader's own
commands, whose results the loader removes at the push (R107, R108, R122 to R124, R136, R160, R162). -/

namespace Sys2Proof.Machine

/-! ## What every end of a command keeps -/

/-- The end of a command keeps what `Store.SameRest` names, the request that the engine has put off, the array port, and every
flag that is set. -/
structure EndSide (s t : State) : Prop where
  rest : s.store.SameRest t.store
  deferred : t.store.deferred = s.store.deferred
  arrPort : t.arrPort = s.arrPort
  flags : ∀ f, s.irq.isSet f = true → t.irq.isSet f = true

theorem EndSide.trans {s t u : State} (h : EndSide s t) (k : EndSide t u) : EndSide s u :=
  ⟨h.rest.trans k.rest, k.deferred.trans h.deferred, k.arrPort.trans h.arrPort, fun f hf => k.flags f (h.flags f hf)⟩

/-- An update of the engine's state, its queues and the service port. -/
theorem EndSide.of_queues (s : State) (e : Engine) (w : WaitReason) (q : List CmdEntry) (f : Option InFlight)
    (l : List ResultRec) (v : Service) :
    EndSide s { s with
      store := { s.store with engine := e, wait := w, queue := q, inFlight := f, results := l }, svc := v } :=
  ⟨⟨rfl, rfl, rfl, rfl, rfl, rfl, rfl, rfl, rfl⟩, rfl, rfl, fun _ => id⟩

theorem EndSide.refl (s : State) : EndSide s s := .of_queues s _ _ _ _ _ _

theorem endSide_raise (f : Flag) (s : State) : EndSide s (raise f s) :=
  ⟨.refl _, rfl, rfl, fun _ => isSet_raise_of f⟩

theorem endSide_qspaceFrom (old : List CmdEntry) (s : State) : EndSide s (qspaceFrom old s) := by
  unfold qspaceFrom
  split
  · exact endSide_raise _ s
  · exact .refl s

theorem endSide_startHead (s : State) : EndSide s (startHead s) := by
  unfold startHead
  split
  · exact .refl s
  · exact .of_queues s _ _ _ _ _ _
  · split
    · exact (EndSide.of_queues s _ _ _ _ _ _).trans (endSide_qspaceFrom _ _)
    · exact .of_queues s _ _ _ _ _ _

theorem endSide_startIfDue (s : State) : EndSide s (startIfDue s) := by
  unfold startIfDue
  split
  · exact endSide_startHead s
  · exact .refl s

theorem endSide_ackHalt (s : State) : EndSide s (ackHalt s) := by
  unfold ackHalt
  split
  · exact .of_queues s _ _ _ _ _ _
  · exact .refl s

theorem endSide_queueItem (it : TxItem) (s : State) : EndSide s (queueItem it s) := by
  unfold queueItem
  split
  · exact .of_queues s _ _ _ _ _ _
  · exact .of_queues s _ _ _ _ _ _
  · dsimp only
    split
    · exact (EndSide.of_queues s _ _ _ _ _ _).trans (endSide_ackHalt _)
    · exact .of_queues s _ _ _ _ _ _

theorem endSide_discardQueue (s : State) : EndSide s (discardQueue s) :=
  (EndSide.of_queues s _ _ _ _ _ _).trans (endSide_qspaceFrom _ _)

theorem endSide_pushResult (r : ResultRec) (s : State) : EndSide s (pushResult r s) :=
  (EndSide.of_queues s _ _ _ _ _ _).trans (endSide_raise _ _)

theorem endSide_setEngine (e : Engine) (w : WaitReason) (s : State) : EndSide s (s.setEngine e w) :=
  .of_queues s _ _ _ _ _ _

theorem endSide_loaderTakes (r : ResultRec) (s : State) : EndSide s (loaderTakes r s) := by
  unfold loaderTakes
  split
  · exact .refl s
  · split
    · rename_i q m _ _
      have hstart : EndSide s (startIfDue { s with
          store := { s.store with results := s.store.results.dropLast }, svc := { s.svc with outstanding := none } }) :=
        (EndSide.of_queues s _ _ _ _ _ _).trans (endSide_startIfDue _)
      dsimp only
      split
      · exact hstart.trans (endSide_ackHalt _)
      · exact hstart
      · exact hstart.trans ((EndSide.of_queues _ _ _ _ _ _ _).trans (endSide_queueItem _ _))
      · exact hstart.trans ((EndSide.of_queues _ _ _ _ _ _ _).trans (endSide_queueItem _ _))
      · exact hstart.trans (.of_queues _ _ _ _ _ _ _)
    · exact .refl s

theorem endSide_endDone (p : Option Bank) (d c : Word16) (i : List Byte) (s : State) : EndSide s (endDone p d c i s) := by
  unfold endDone
  split
  · exact .refl s
  · exact ((endSide_pushResult _ s).trans (endSide_startHead _)).trans (endSide_loaderTakes _ _)

theorem endSide_endFailed (e : ErrCode) (p : Option Bank) (d : Word16) (s : State) : EndSide s (endFailed e p d s) := by
  unfold endFailed
  split
  · exact .refl s
  · exact (((endSide_pushResult _ s).trans (endSide_discardQueue _)).trans (endSide_setEngine .halted .none _)).trans
      ((endSide_raise _ _).trans (endSide_loaderTakes _ _))

theorem endSide_endAborted (p : Option Bank) (s : State) : EndSide s (endAborted p s) := by
  unfold endAborted
  split
  · exact .refl s
  · exact ((endSide_pushResult _ s).trans (endSide_discardQueue _)).trans (endSide_setEngine .idle .none _)

/-! ## Work that leaves the queues alone -/

/-- `u` has the queues, the service port and the array port of `s`: only the banks, the staging, the maps, the journal and
what the command in flight is doing may differ. -/
structure QueuesKept (s u : State) : Prop where
  results : u.store.results = s.store.results
  queue : u.store.queue = s.store.queue
  svc : u.svc = s.svc

theorem QueuesKept.refl (s : State) : QueuesKept s s := ⟨rfl, rfl, rfl⟩

theorem QueuesKept.trans {s t u : State} (h : QueuesKept s t) (k : QueuesKept t u) : QueuesKept s u :=
  ⟨k.results.trans h.results, k.queue.trans h.queue, k.svc.trans h.svc⟩

theorem closeStaging_open {s : State} {g : Staging} (r : Role) (h : s.store.staging = some g) :
    closeStaging r s =
      { s.setRole g.bank r with store := { (s.setRole g.bank r).store with staging := none } } := by
  unfold closeStaging; rw [h]

theorem closeStaging_none {s : State} (r : Role) (h : s.store.staging = none) : closeStaging r s = s := by
  unfold closeStaging; rw [h]

/-- Closing the staging changes the roles and the staging record alone. -/
theorem closeStaging_store (r : Role) (s : State) : ∃ v,
    closeStaging r s = { s with store := { s.store with roles := v, staging := none } } := by
  rcases h : s.store.staging with _ | g
  · refine ⟨s.store.roles, ?_⟩
    rw [closeStaging_none r h, ← h]
  · exact ⟨_, closeStaging_open r h⟩

theorem queuesKept_closeStaging (r : Role) (s : State) : QueuesKept s (closeStaging r s) := by
  obtain ⟨v, hv⟩ := closeStaging_store r s
  rw [hv]
  exact ⟨rfl, rfl, rfl⟩

theorem withFlight_inFlight {s : State} {f : InFlight} (g : InFlight → InFlight) (h : s.store.inFlight = some f) :
    (s.withFlight g).store.inFlight = some (g f) := by
  rw [withFlight_store, h]; rfl

theorem State.completes.of_queues {s u t : State} {f : InFlight} {p : Option Bank} {d c : Word16} {i : List Byte}
    (h : u.completes t f p d c i) (k : QueuesKept s u) : s.completes t f p d c i := h.from k.results k.queue

theorem State.halts.of_queues {s u t : State} {f : InFlight} {e : ErrCode} {p : Option Bank} {d : Word16}
    (h : u.halts t f e p d) (k : QueuesKept s u) : s.halts t f e p d := h.from k.results k.queue

/-! ## The grant after an end -/

/-- A grant keeps what `Store.SameRest` names, the queues, and what the engine has put off. -/
theorem arrayGrant_rest (s : State) :
    s.store.SameRest (arrayGrant s).store ∧ (arrayGrant s).store.results = s.store.results ∧
      (arrayGrant s).store.queue = s.store.queue ∧ (arrayGrant s).store.deferred = s.store.deferred := by
  obtain ⟨g, hg, -⟩ := arrayGrant_store s
  rw [hg]
  exact ⟨⟨rfl, rfl, rfl, rfl, rfl, rfl, rfl, rfl, rfl⟩, rfl, rfl, rfl⟩

/-- With nothing in flight a grant changes nothing of the store. -/
theorem arrayGrant_store_none {s : State} (h : s.store.inFlight = none) : (arrayGrant s).store = s.store :=
  arrayGrant_store_quiet fun _ hf => by rw [h] at hf; cases hf

/-- A failure goes through the grant that follows it. -/
theorem State.halts.grant {s t : State} {f : InFlight} {e : ErrCode} {p : Option Bank} {d : Word16}
    (h : s.halts t f e p d) : s.halts (arrayGrant t) f e p d := by
  have hnone : t.store.inFlight = none := by
    obtain ⟨-, -, -, -, hnone, -⟩ := h
    exact hnone
  unfold State.halts State.pushed at *
  rw [arrayGrant_store_none hnone, arrayGrant_irq]
  exact h

/-- A command that ends DONE in a state `u` that has the queues of `s`. -/
theorem endDone_completes_beside {s u : State} {f : InFlight} (p : Option Bank) (d c : Word16) (i : List Byte)
    (hu : QueuesKept s u) (hf : u.store.inFlight = some f) (ho : s.svc.outstanding = none) :
    s.completes (endDone p d c i u) f p d c i :=
  (endDone_completes p d c i hf (by rw [hu.svc]; exact ho)).of_queues hu

/-- A command that fails in a state `u` that has the queues of `s`. -/
theorem endFailed_halts_beside {s u : State} {f : InFlight} (e : ErrCode) (p : Option Bank) (d : Word16)
    (hu : QueuesKept s u) (hf : u.store.inFlight = some f) (ho : s.svc.outstanding = none) :
    s.halts (endFailed e p d u) f e p d :=
  (endFailed_halts e p d hf (by rw [hu.svc]; exact ho)).of_queues hu

/-! ## A result that is not the loader's -/

/-- A result that is not the outstanding command's stays in the queue (R160). -/
theorem loaderTakes_other {s : State} {r : ResultRec} {q : Byte} {m : SvcMark} (ho : s.svc.outstanding = some (q, m))
    (h : q ≠ r.seq ∨ r.submitter = .host) : loaderTakes r s = s := by
  unfold loaderTakes
  rw [ho]
  refine if_neg fun hr => ?_
  rcases h with hq | hs
  · exact hq hr.2
  · rw [hr.1] at hs; cases hs

/-- A command that ends DONE while the loader waits for another one. -/
theorem endDone_completes_other {s : State} {f : InFlight} {q : Byte} {m : SvcMark} (p : Option Bank) (d c : Word16)
    (i : List Byte) (hf : s.store.inFlight = some f) (ho : s.svc.outstanding = some (q, m))
    (h : q ≠ f.entry.seq ∨ f.entry.submitter = .host) :
    s.completes (endDone p d c i s) f p d c i ∧ (endDone p d c i s).svc = s.svc := by
  let v : Service → Service := fun x => { x with outstanding := none }
  have hend : endDone p d c i s = startHead (pushResult (makeResult s f .done .none p 0 d c i) s) := by
    unfold endDone
    rw [hf]
    exact loaderTakes_other (by simpa using ho) h
  have hquiet : endDone p d c i (s.withSvc v) = (endDone p d c i s).withSvc v := by
    rw [hend, endDone_eq (s := s.withSvc v) p d c i hf rfl, ← startHead_withSvc]
    rfl
  have hdone := endDone_completes (s := s.withSvc v) p d c i hf rfl
  rw [hquiet] at hdone
  refine ⟨hdone, ?_⟩
  rw [hend]
  simp

/-! ## The loader's own commands -/

/-- What the loader awaits and what its replies say depend on the state before only through its queues and the service port. -/
theorem State.loaderAwaits.of_queues {s u : State} {f f' : InFlight} {m : SvcMark} (h : s.loaderAwaits f m)
    (k : QueuesKept s u) (hf : u.store.inFlight = some f') (he : f'.entry = f.entry) : u.loaderAwaits f' m := by
  obtain ⟨-, hsub, hout, hroom⟩ := h
  refine ⟨hf, by rw [he]; exact hsub, by rw [he, k.svc]; exact hout, by rw [k.results]; exact hroom⟩

theorem State.queuesReply.from {s u t : State} {letter : Byte} {payload : List Byte} {a c : Bool}
    (h : u.queuesReply t letter payload a c) (hsend : u.svc.sending = s.svc.sending) (hwait : u.svc.waiting = s.svc.waiting)
    (hd : u.svc.inputDropped = s.svc.inputDropped) (hl : u.svc.replyLost = s.svc.replyLost) :
    s.queuesReply t letter payload a c := by
  unfold State.queuesReply State.replies at *
  rw [hsend, hwait, hd, hl] at h
  exact h

theorem State.loaderDone.of_queues {s u t : State} {m : SvcMark} (h : u.loaderDone t m) (k : QueuesKept s u) :
    s.loaderDone t m := by
  unfold State.loaderDone State.queuesReply State.replies at *
  rw [k.results, k.queue, k.svc] at h
  exact h

theorem State.loaderFailed.of_queues {s u t : State} {e : ErrCode} {m : SvcMark} (h : u.loaderFailed t e m)
    (k : QueuesKept s u) : s.loaderFailed t e m := by
  unfold State.loaderFailed State.queuesReply State.replies at *
  rw [k.results, k.svc] at h
  exact h

/-- A reply falls due: it begins, waits or is lost by what the transmitter holds (R156). -/
theorem queuesReply_queueItem (letter : Byte) (payload : List Byte) (a c : Bool) (s : State) :
    s.queuesReply (queueItem (.reply letter payload a c) s) letter payload a c := by
  refine ⟨fun hs => ?_, fun hs hw => ?_, fun hs hw => ?_⟩
  · rw [queueItem_idle _ hs]
    exact ⟨replies_of (x := a) (c := c) rfl rfl rfl, rfl⟩
  · obtain ⟨x, hx⟩ := Option.isSome_iff_exists.1 hs
    simp [queueItem, hx, hw]
  · obtain ⟨x, hx⟩ := Option.isSome_iff_exists.1 hs
    obtain ⟨y, hy⟩ := Option.isSome_iff_exists.1 hw
    have hkeep : ∀ u : State, (if TxItem.acks (.reply letter payload a c) then ackHalt u else u).svc = u.svc := by
      intro u
      unfold ackHalt
      split <;> [split; skip] <;> rfl
    have hsvc : (queueItem (.reply letter payload a c) s).svc = { s.svc with replyLost := true } := by
      simp only [queueItem, hx, hy]
      exact hkeep _
    rw [hsvc]
    exact ⟨rfl, rfl, rfl⟩

/-- An item that falls due leaves the loader's state, its outstanding command and last error. -/
theorem queueItem_svcKept (it : TxItem) (s : State) : (queueItem it s).svc.outstanding = s.svc.outstanding ∧
    (queueItem it s).svc.state = s.svc.state ∧ (queueItem it s).svc.lastError = s.svc.lastError := by
  have hbegin : ∀ v : Service, (beginSend it v).outstanding = v.outstanding ∧ (beginSend it v).state = v.state ∧
      (beginSend it v).lastError = v.lastError := by
    intro v
    cases it <;> exact ⟨rfl, rfl, rfl⟩
  have hack : ∀ u : State, (ackHalt u).svc = u.svc := by
    intro u
    unfold ackHalt
    split <;> rfl
  unfold queueItem
  split
  · exact hbegin s.svc
  · exact ⟨rfl, rfl, rfl⟩
  · dsimp only
    split
    · rw [hack]; exact ⟨rfl, rfl, rfl⟩
    · exact ⟨rfl, rfl, rfl⟩

/-- A reply changes of the store at most a halt that it acknowledges, when it is not sent (R160). -/
theorem queueItem_store {s : State} (letter : Byte) (payload : List Byte) (a c : Bool) :
    (queueItem (.reply letter payload a c) s).store =
      if a = true ∧ s.svc.sending.isSome = true ∧ s.svc.waiting.isSome = true ∧ s.store.engine = .halted then
        { s.store with engine := .idle, wait := .none } else s.store := by
  unfold queueItem
  split
  · rename_i hs
    simp [hs]
  · rename_i x hs hw
    simp [hs, hw]
  · rename_i x y hs hw
    cases a
    · simp [TxItem.acks]
    · by_cases he : s.store.engine = .halted
      · simp [TxItem.acks, ackHalt, hs, hw, he]
      · simp [TxItem.acks, ackHalt, hs, hw, he]

/-- The loader has removed the result just pushed, and the head of the queue has started if that freed its place (R122, R124,
R160). -/
def State.resultTaken (s : State) : State :=
  startIfDue { s with
    store := { s.store with results := s.store.results.dropLast }, svc := { s.svc with outstanding := none } }

theorem endSide_resultTaken (s : State) : EndSide s s.resultTaken :=
  (EndSide.of_queues s _ _ _ _ _ _).trans (endSide_startIfDue _)

section
variable {s : State}

theorem resultTaken_svc : s.resultTaken.svc = { s.svc with outstanding := none } := by
  unfold State.resultTaken startIfDue
  split
  · rw [startHead_svc]
  · rfl

/-- In a state that makes no start, the result alone goes. -/
theorem resultTaken_store (h : s.startDue = false) :
    s.resultTaken.store = { s.store with results := s.store.results.dropLast } := by
  have hdue : State.startDue { s with
      store := { s.store with results := s.store.results.dropLast }, svc := { s.svc with outstanding := none } } = false := h
  rw [State.resultTaken, startIfDue, hdue]
  rfl

theorem resultTaken_idle (he : s.store.engine = .idle) (hf : s.store.inFlight = none) (hq : s.store.queue = []) :
    s.resultTaken.store = { s.store with results := s.store.results.dropLast, engine := .idle, wait := .none } := by
  have hdue : State.startDue { s with
      store := { s.store with results := s.store.results.dropLast }, svc := { s.svc with outstanding := none } } = true := by
    simp [State.startDue, he]
  rw [State.resultTaken, startIfDue, hdue, if_pos rfl, startHead_empty (by exact hf) (by exact hq)]

/-- The head of the queue that waited for a place starts in the place of the removed result. -/
theorem resultTaken_head {e : CmdEntry} {q : List CmdEntry} (he : s.store.engine = .waiting)
    (hw : s.store.wait = .resultSpace) (hf : s.store.inFlight = none) (hq : s.store.queue = e :: q)
    (hr : s.store.results.dropLast.length < 4) :
    s.resultTaken.store = { s.store with
      results := s.store.results.dropLast, engine := .running, wait := .none, queue := q
      inFlight := some { entry := e, stage := .fresh, prog := none, erase := none, mapw := none } } := by
  have hdue : State.startDue { s with
      store := { s.store with results := s.store.results.dropLast }, svc := { s.svc with outstanding := none } } = true := by
    simp [State.startDue, he, hw]
  rw [State.resultTaken, startIfDue, hdue, if_pos rfl, startHead_head (by exact hf) (by exact hq) (by exact hr)]

section
variable {r : ResultRec} {m : SvcMark} (ho : s.svc.outstanding = some (r.seq, m)) (hs : r.submitter = .loader)
include ho hs

theorem loaderTakes_done (h : r.outcome = .done) : loaderTakes r s =
    if m = .silent then s.resultTaken
    else queueK [] false { s.resultTaken with svc := { s.resultTaken.svc with state := .ready } } := by
  unfold loaderTakes
  simp only [ho, hs, h, and_self, if_true]
  cases m <;> rfl

theorem loaderTakes_failed (h : r.outcome = .failed) : loaderTakes r s =
    if m = .silent then ackHalt s.resultTaken
    else queueN r.error true { s.resultTaken with svc := { s.resultTaken.svc with state := .ready } } := by
  unfold loaderTakes
  simp only [ho, hs, h, and_self, if_true]
  cases m <;> rfl

end

/-- After a DONE result has been pushed and removed, the results queue is as before the push and the head of the queue has
started. -/
theorem resultTaken_afterDone (r : ResultRec) (hroom : s.store.results.length < 4) :
    let t := (startHead (pushResult r s)).resultTaken
    t.store.results = s.store.results ∧
      (s.store.queue = [] → t.store.engine = .idle ∧ t.store.wait = .none ∧ t.store.inFlight = none) ∧
      ∀ e q, s.store.queue = e :: q → t.store.engine = .running ∧ t.store.wait = .none ∧ t.store.queue = q ∧
        t.store.inFlight = some { entry := e, stage := .fresh, prog := none, erase := none, mapw := none } := by
  have hpushed : (pushResult r s).store.inFlight = none := rfl
  rcases hq : s.store.queue with _ | ⟨e, q⟩
  · have hqueue : (pushResult r s).store.queue = [] := hq
    have h : (startHead (pushResult r s)).resultTaken.store = { (pushResult r s).store with
        results := (s.store.results ++ [r]).dropLast, engine := .idle, wait := .none } := by
      rw [startHead_empty hpushed hqueue, resultTaken_idle (by rfl) (by exact hpushed) (by exact hqueue)]
      rfl
    dsimp only
    rw [h]
    exact ⟨List.dropLast_concat, fun _ => ⟨rfl, rfl, rfl⟩, nofun⟩
  · have hqueue : (pushResult r s).store.queue = e :: q := hq
    suffices h : (startHead (pushResult r s)).resultTaken.store = { (pushResult r s).store with
        results := (s.store.results ++ [r]).dropLast, engine := .running, wait := .none, queue := q
        inFlight := some { entry := e, stage := .fresh, prog := none, erase := none, mapw := none } } by
      dsimp only
      rw [h]
      refine ⟨List.dropLast_concat, nofun, fun e' q' he => ?_⟩
      cases he
      exact ⟨rfl, rfl, rfl, rfl⟩
    by_cases hfull : s.store.results.length < 3
    · rw [startHead_head hpushed hqueue (by simpa using Nat.succ_lt_succ hfull), resultTaken_store rfl]
      rfl
    · have hlen : s.store.results.length = 3 := by omega
      have hne : (pushResult r s).store.queue ≠ [] := by rw [hqueue]; exact List.cons_ne_nil e q
      rw [startHead_full hpushed hne (by simp [hlen]), resultTaken_head (e := e) (q := q) (by rfl) (by rfl)
        (by exact hpushed) (by exact hqueue) (by simp [hlen])]
      rfl

end

/-- The loader's command ends DONE: the loader removes the result and replies K, or says nothing. -/
theorem endDone_loaderDone {s : State} {f : InFlight} {m : SvcMark} (p : Option Bank) (d c : Word16) (i : List Byte)
    (h : s.loaderAwaits f m) : s.loaderDone (endDone p d c i s) m := by
  obtain ⟨hf, hsub, hout, hroom⟩ := h
  let r := makeResult s f .done .none p 0 d c i
  let u := (startHead (pushResult r s)).resultTaken
  have hend : endDone p d c i s =
      if m = .silent then u else queueK [] false { u with svc := { u.svc with state := .ready } } := by
    unfold endDone
    rw [hf]
    exact loaderTakes_done (r := r) (by rw [startHead_svc]; exact hout) hsub rfl
  have hsvc : u.svc = { s.svc with outstanding := none } := by
    rw [resultTaken_svc, startHead_svc]; rfl
  have hflag : u.irq.isSet .result = true :=
    (endSide_resultTaken _).flags _ ((endSide_startHead _).flags _ (isSet_raise_self _ _))
  obtain ⟨hres, hempty, hhead⟩ := resultTaken_afterDone (s := s) r hroom
  rw [hend]
  cases m with
  | silent => exact ⟨hres, by rw [if_pos rfl, hsvc], hflag, hempty, hhead, nofun, fun _ => hsvc⟩
  | reply =>
    rw [if_neg (by decide)]
    let v : State := { u with svc := { u.svc with state := .ready } }
    have hv : v.svc = { s.svc with outstanding := none, state := .ready } := by
      show ({ u.svc with state := .ready } : Service) = _
      rw [hsvc]
    have hstore : (queueK [] false v).store = u.store := by
      rw [queueK, queueItem_store, if_neg (by simp)]
    obtain ⟨hout', hstate, -⟩ := queueItem_svcKept (.reply 0x4B [] false false) v
    refine ⟨by rw [hstore]; exact hres, ?_, (endSide_queueItem _ v).flags _ hflag, by rw [hstore]; exact hempty,
      by rw [hstore]; exact hhead, fun _ => ⟨?_, ?_⟩, nofun⟩
    · exact hout'.trans (by rw [hv])
    · exact hstate.trans (by rw [hv])
    · exact (queuesReply_queueItem 0x4B [] false false v).from (by rw [hv]) (by rw [hv]) (by rw [hv]) (by rw [hv])

/-- The loader's command fails: the loader removes the result and replies N, or acknowledges the halt. -/
theorem endFailed_loaderFailed {s : State} {f : InFlight} {m : SvcMark} (e : ErrCode) (p : Option Bank) (d : Word16)
    (h : s.loaderAwaits f m) : s.loaderFailed (endFailed e p d s) e m := by
  obtain ⟨hf, hsub, hout, -⟩ := h
  let r := makeResult s f .failed e p s.store.queue.length d 0 noImage
  let x := raise .halt ((discardQueue (pushResult r s)).setEngine .halted .none)
  let u := x.resultTaken
  have hxsvc : x.svc = s.svc := by simp [x]
  have hend : endFailed e p d s =
      if m = .silent then ackHalt u else queueN e true { u with svc := { u.svc with state := .ready } } := by
    unfold endFailed
    rw [hf]
    exact loaderTakes_failed (s := x) (r := r) (by rw [hxsvc]; exact hout) hsub rfl
  have hsvc : u.svc = { s.svc with outstanding := none } := by rw [resultTaken_svc, hxsvc]
  have hstore : u.store = { s.store with
      results := s.store.results, queue := [], inFlight := none, engine := .halted, wait := .none } := by
    rw [resultTaken_store (by simp [x, State.startDue])]
    simp [x]
  have hresult : u.irq.isSet .result = true := (endSide_resultTaken _).flags _ (isSet_raise_of _
    (((endSide_discardQueue _).trans (endSide_setEngine .halted .none _)).flags _ (isSet_raise_self _ _)))
  have hhalt : u.irq.isSet .halt = true := (endSide_resultTaken _).flags _ (isSet_raise_self _ _)
  rw [hend]
  cases m with
  | silent =>
    have hack : ackHalt u = { u with store := { u.store with engine := .idle, wait := .none } } :=
      if_pos (by rw [hstore])
    rw [if_pos rfl, hack, hstore]
    exact ⟨rfl, by rw [hsvc], hresult, hhalt, rfl, rfl, rfl, nofun, fun _ => ⟨rfl, hsvc⟩⟩
  | reply =>
    rw [if_neg (by decide)]
    let v : State := { u with svc := { u.svc with state := .ready, lastError := e } }
    have hv : v.svc = { s.svc with outstanding := none, state := .ready, lastError := e } := by
      show ({ u.svc with state := .ready, lastError := e } : Service) = _
      rw [hsvc]
    have hengine : v.store.engine = .halted := by show u.store.engine = _; rw [hstore]
    have hvstore : v.store = u.store := rfl
    have hqueued : queueN e true { u with svc := { u.svc with state := .ready } } =
        queueItem (.reply 0x4E [e.code] true false) v := rfl
    obtain ⟨hout', hstate, herror⟩ := queueItem_svcKept (.reply 0x4E [e.code] true false) v
    have hside := endSide_queueItem (.reply 0x4E [e.code] true false) v
    have hreply := queuesReply_queueItem 0x4E [e.code] true false v
    have hleft := queueItem_store (s := v) 0x4E [e.code] true false
    rw [hqueued]
    refine ⟨?_, hout'.trans (by rw [hv]), hside.flags _ hresult, hside.flags _ hhalt, ?_, ?_, ?_,
      fun _ => ⟨hstate.trans (by rw [hv]), herror.trans (by rw [hv]),
        hreply.from (by rw [hv]) (by rw [hv]) (by rw [hv]) (by rw [hv]), ?_⟩, nofun⟩
    all_goals
      rw [hleft, hvstore, hstore, hv]
      simp only [Bool.and_eq_true]
    case refine_5 =>
      by_cases hfull : s.svc.sending.isSome = true ∧ s.svc.waiting.isSome = true
      · rw [if_pos ⟨trivial, hfull.1, hfull.2, trivial⟩, if_pos hfull]
      · rw [if_neg fun h => hfull ⟨h.2.1, h.2.2.1⟩, if_neg hfull]
    all_goals split <;> rfl

/-- The end of the loader's command goes through the grant that follows it. -/
theorem State.loaderDone.grant {s t : State} {m : SvcMark} (h : s.loaderDone t m) : s.loaderDone (arrayGrant t) m := by
  have hq : (arrayGrant t).store = t.store := by
    obtain ⟨-, -, -, hempty, hhead, -⟩ := h
    apply arrayGrant_store_quiet
    intro g hg
    rcases hq : s.store.queue with _ | ⟨e, q⟩
    · rw [(hempty hq).2.2] at hg; cases hg
    · rw [(hhead e q hq).2.2.2] at hg
      cases hg
      exact ⟨rfl, rfl⟩
  unfold State.loaderDone State.queuesReply State.replies at *
  rw [hq, arrayGrant_irq, arrayGrant_svc]
  exact h

theorem State.loaderFailed.grant {s t : State} {e : ErrCode} {m : SvcMark} (h : s.loaderFailed t e m) :
    s.loaderFailed (arrayGrant t) e m := by
  have hq : (arrayGrant t).store = t.store := by
    obtain ⟨-, -, -, -, -, hnone, -⟩ := h
    exact arrayGrant_store_none hnone
  unfold State.loaderFailed State.queuesReply State.replies at *
  rw [hq, arrayGrant_irq, arrayGrant_svc]
  exact h

end Sys2Proof.Machine
end

section
/-! SUPPORT. The cut of the command in flight: what it leaves of the banks, the staging and the journal, and the failure of a
command that is cut by supply (R114, R123, R127, R136, R138, R139, R147). -/

namespace Sys2Proof.Machine

/-! ## What a cut leaves -/

/-- The command in flight is a CLONE or PROGRAM with its work begun, which a cut makes lose its staging (R138). -/
def InFlight.fills (f : InFlight) : Prop := (∃ i total, f.stage = .cloning i total) ∨ f.stage = .programming

/-- The command in flight makes a map write: a COMMIT's, or a retirement's (R127, R130). -/
def InFlight.writesMap (f : InFlight) : Prop := f.stage = .committing ∨ ∃ b cause, f.stage = .retiring b cause

/-- The slot that a cut of a map write passes over: the one being tried, once a pulse has been given on it (R147). -/
def InFlight.spoiledSlot (f : InFlight) : Option (Fin 8) :=
  match f.mapw, f.prog with
  | some m, some p => if m.stage ≠ .areaErase ∧ 1 ≤ p.pulses then some m.slot else none
  | _, _ => none

theorem spoiledSlot_eq_some {f : InFlight} {n : Fin 8} : f.spoiledSlot = some n ↔
    ∃ m p, f.mapw = some m ∧ m.stage ≠ .areaErase ∧ f.prog = some p ∧ 1 ≤ p.pulses ∧ m.slot = n := by
  unfold InFlight.spoiledSlot
  rcases f.mapw with _ | m
  · simp
  · rcases f.prog with _ | p
    · simp
    · by_cases h : m.stage ≠ .areaErase ∧ 1 ≤ p.pulses
      · simp [h]
      · simp only [if_neg h, reduceCtorEq, false_iff]
        rintro ⟨m', p', hm, hs, hp, hk, -⟩
        cases hm; cases hp
        exact h ⟨hs, hk⟩

/-- With no program operation running no slot is being programmed. -/
theorem spoiledSlot_of_prog_none {f : InFlight} (h : f.prog = none) : f.spoiledSlot = none := by
  unfold InFlight.spoiledSlot
  rw [h]
  split <;> simp_all

/-- Before its first pulse a program operation has spoiled no slot. -/
theorem spoiledSlot_of_no_pulse {f : InFlight} {p : ProgOp} (h : f.prog = some p) (hp : p.pulses = 0) :
    f.spoiledSlot = none := by
  unfold InFlight.spoiledSlot
  rw [h]
  split
  · rename_i q _ hq
    cases hq
    simp [hp]
  · rfl

/-- While an area is being erased no slot is being programmed. -/
theorem spoiledSlot_of_areaErase {f : InFlight} (h : ∀ m, f.mapw = some m → m.stage = .areaErase) :
    f.spoiledSlot = none := by
  unfold InFlight.spoiledSlot
  split
  · rename_i m _ hm _
    simp [h m hm]
  · rfl

/-- The journal with its next slot past the slot `n` when a cut spoiled one. -/
def Journal.passed (j : Journal) (n : Option (Fin 8)) : Journal := { j with next := n.elim j.next afterSlot }

theorem cutMapWrite_eq (f : InFlight) (s : State) : cutMapWrite f s =
    { s with store := { s.store with journal := s.store.journal.passed f.spoiledSlot } } := by
  rcases hm : f.mapw with _ | m
  · simp [cutMapWrite, InFlight.spoiledSlot, hm, Journal.passed]
  · rcases hp : f.prog with _ | p
    · simp [cutMapWrite, InFlight.spoiledSlot, hm, hp, Journal.passed]
    · by_cases h : m.stage ≠ .areaErase ∧ 1 ≤ p.pulses
      · simp only [cutMapWrite, InFlight.spoiledSlot, hm, hp, if_pos h, passSlot, slotAfter_eq]
        rfl
      · simp only [cutMapWrite, InFlight.spoiledSlot, hm, hp, if_neg h]
        rfl

section
variable {f : InFlight} (s : State)

theorem cutEffects_fills (h : f.fills) : cutEffects f s = closeStaging .spareDirty s := by
  unfold cutEffects
  rcases h with ⟨i, total, h⟩ | h <;> rw [h]

theorem cutEffects_writesMap (h : f.writesMap) : cutEffects f s =
    { s with store := { s.store with journal := s.store.journal.passed f.spoiledSlot } } := by
  rw [← cutMapWrite_eq]
  unfold cutEffects
  rcases h with h | ⟨b, cause, h⟩ <;> rw [h]

theorem cutEffects_other (h : ¬f.fills) (k : ¬f.writesMap) : cutEffects f s = s := by
  unfold cutEffects
  split
  case h_1 i total hst => exact absurd (.inl ⟨i, total, hst⟩) h
  case h_2 hst => exact absurd (.inr hst) h
  case h_3 hst => exact absurd (.inl hst) k
  case h_4 b cause hst => exact absurd (.inr ⟨b, cause, hst⟩) k
  all_goals rfl

/-- What a cut does to the store, in one form for all commands. -/
theorem cutEffects_store (f : InFlight) : ∃ v g j, cutEffects f s =
    { s with store := { s.store with roles := v, staging := g, journal := j } } := by
  by_cases h : f.fills
  · obtain ⟨v, hv⟩ := closeStaging_store .spareDirty s
    exact ⟨v, none, s.store.journal, by rw [cutEffects_fills s h, hv]⟩
  · by_cases k : f.writesMap
    · exact ⟨s.store.roles, s.store.staging, _, cutEffects_writesMap s k⟩
    · exact ⟨s.store.roles, s.store.staging, s.store.journal, cutEffects_other s h k⟩

theorem queuesKept_cutEffects (f : InFlight) : QueuesKept s (cutEffects f s) := by
  obtain ⟨v, g, j, h⟩ := cutEffects_store s f
  rw [h]
  exact ⟨rfl, rfl, rfl⟩

@[simp] theorem cutEffects_arrPort (f : InFlight) : (cutEffects f s).arrPort = s.arrPort := by
  obtain ⟨v, g, j, h⟩ := cutEffects_store s f
  rw [h]

@[simp] theorem cutEffects_deferred (f : InFlight) : (cutEffects f s).store.deferred = s.store.deferred := by
  obtain ⟨v, g, j, h⟩ := cutEffects_store s f
  rw [h]

@[simp] theorem cutEffects_inFlight (f : InFlight) : (cutEffects f s).store.inFlight = s.store.inFlight := by
  obtain ⟨v, g, j, h⟩ := cutEffects_store s f
  rw [h]

/-- A command that neither fills a staging bank nor has spoiled a slot loses nothing by a cut. -/
theorem cutEffects_quiet (h : ¬f.fills) (k : f.spoiledSlot = none) : cutEffects f s = s := by
  by_cases hw : f.writesMap
  · rw [cutEffects_writesMap s hw, k]; rfl
  · exact cutEffects_other s h hw

end

/-- The roles after the staging has closed: that of its bank is the new one, every other is as it was. -/
theorem onlyRole_closeStaging {s : State} {g : Staging} (r : Role) (h : s.store.staging = some g) :
    s.onlyRole (closeStaging r s) g.bank r := by
  intro c
  rw [closeStaging_open r h]
  exact setRole_roles s g.bank c r

theorem State.onlyRole.of_roles {s s' t t' : State} {b : Bank} {r : Role} (h : s'.onlyRole t' b r)
    (hs : s'.store.roles = s.store.roles) (ht : t.store.roles = t'.store.roles) : s.onlyRole t b r := by
  unfold State.onlyRole at *
  rw [hs] at h
  rw [ht]
  exact h

/-- What `State.cutOutcome` says of the command in flight is what it was doing and the slot that it has spoiled. -/
theorem cutOutcome_of {s t : State} {f : InFlight} (hmap : t.store.storeMap = s.store.storeMap)
    (hfills : f.fills → t.store.staging = none ∧ ∀ g, s.store.staging = some g → s.onlyRole t g.bank .spareDirty)
    (hkeeps : ¬f.fills → t.store.staging = s.store.staging ∧ t.store.roles = s.store.roles)
    (hwrites : f.writesMap → t.store.journal = s.store.journal.passed f.spoiledSlot)
    (hother : ¬f.writesMap → t.store.journal = s.store.journal) : s.cutOutcome t f := by
  have hjournal : ∃ n, t.store.journal = s.store.journal.passed n ∧
      (∀ k, n = some k ↔ f.writesMap ∧ f.spoiledSlot = some k) := by
    by_cases h : f.writesMap
    · exact ⟨_, hwrites h, fun k => by simp [h]⟩
    · exact ⟨none, hother h, fun k => by simp [h]⟩
  obtain ⟨n, hn, hcut⟩ := hjournal
  refine ⟨hmap, by rw [hn]; rfl, by rw [hn]; rfl, by rw [hn]; rfl, by rw [hn]; rfl, hfills, hkeeps, fun m hm => ?_,
    fun hm => ?_⟩
  · obtain ⟨hw, hmw, hst, p, hp, hk⟩ := hm
    rw [hn, (hcut m.slot).2 ⟨hw, spoiledSlot_eq_some.2 ⟨m, p, hmw, hst, hp, hk, rfl⟩⟩]
    rfl
  · have hnone : n = none := by
      rcases n with _ | k
      · rfl
      · obtain ⟨hw, hk⟩ := (hcut k).1 rfl
        obtain ⟨m, p, hmw, hst, hp, hpulse, -⟩ := spoiledSlot_eq_some.1 hk
        exact absurd ⟨hw, hmw, hst, p, hp, hpulse⟩ (hm m)
    rw [hn, hnone]
    rfl

/-- What a cut leaves is what `cutEffects` makes, for a command that is at the same work and has spoiled the same slot. -/
theorem cutOutcome_cutEffects {s u t : State} {f f' : InFlight} (hst : f'.stage = f.stage)
    (hslot : f'.spoiledSlot = f.spoiledSlot) (hu : s.store.SameRest u.store)
    (ht : (cutEffects f' u).store.SameRest t.store) : s.cutOutcome t f := by
  have hfills : f'.fills ↔ f.fills := by unfold InFlight.fills; rw [hst]
  have hwrites : f'.writesMap ↔ f.writesMap := by unfold InFlight.writesMap; rw [hst]
  have hquiet (h : ¬f.writesMap) : (cutEffects f' u).store.journal = u.store.journal := by
    by_cases k : f'.fills
    · obtain ⟨v, hv⟩ := closeStaging_store .spareDirty u
      rw [cutEffects_fills u k, hv]
    · rw [cutEffects_other u k (mt hwrites.1 h)]
  refine cutOutcome_of ?_ (fun h => ?_) (fun h => ?_) (fun h => ?_) fun h => ?_
  · obtain ⟨v, g, j, hc⟩ := cutEffects_store u f'
    rw [ht.storeMap, hc]
    exact hu.storeMap
  · have hc := cutEffects_fills u (hfills.2 h)
    refine ⟨?_, fun g hg => ?_⟩
    · obtain ⟨v, hv⟩ := closeStaging_store .spareDirty u
      rw [ht.staging, hc, hv]
    · have hg' : u.store.staging = some g := by rw [hu.staging]; exact hg
      exact (onlyRole_closeStaging .spareDirty hg').of_roles hu.roles (by rw [ht.roles, hc])
  · by_cases k : f'.writesMap
    · rw [ht.staging, ht.roles, cutEffects_writesMap u k]
      exact ⟨hu.staging, hu.roles⟩
    · rw [ht.staging, ht.roles, cutEffects_other u (mt hfills.1 h) k]
      exact ⟨hu.staging, hu.roles⟩
  · rw [ht.journal, cutEffects_writesMap u (hwrites.2 h), hslot, ← hu.journal]
  · rw [ht.journal, hquiet h]
    exact hu.journal

/-- The bank that the record of a cut names is the one that the operation concerns. -/
theorem cutNames_concernedBank (s : State) (f : InFlight) : s.cutNames f (s.concernedBank f.stage) := by
  refine ⟨?_, fun b => ?_, ?_⟩
  · rintro (⟨i, total, h⟩ | h | h) <;> rw [h] <;> rfl
  · rintro (h | ⟨cause, h⟩ | h | ⟨i, sum, h⟩) <;> rw [h] <;> rfl
  · rintro (h | h) <;> rw [h] <;> rfl

/-! ## The cut by supply -/

/-- The error of a command that is cut by supply: a retirement's map write keeps ERASE_FAILED (R127, R139). -/
def InFlight.supplyError (f : InFlight) : ErrCode :=
  match f.stage with
  | .retiring _ _ => .eraseFailed
  | _ => .supplyLow

/-- DETAIL of a command that is cut by supply (R127, R139). -/
def InFlight.supplyDetail (f : InFlight) : Word16 :=
  match f.stage with
  | .retiring _ cause => word16 1 cause
  | _ => 0

theorem supplyError_retiring {f : InFlight} {b : Bank} {cause : Byte} (h : f.stage = .retiring b cause) :
    f.supplyError = .eraseFailed ∧ f.supplyDetail = word16 1 cause := by
  unfold InFlight.supplyError InFlight.supplyDetail
  rw [h]
  exact ⟨rfl, rfl⟩

theorem supplyError_other {f : InFlight} (h : ∀ b cause, f.stage ≠ .retiring b cause) :
    f.supplyError = .supplyLow ∧ f.supplyDetail = 0 := by
  unfold InFlight.supplyError InFlight.supplyDetail
  split
  · rename_i b cause hst
    exact absurd hst (h b cause)
  · exact ⟨rfl, rfl⟩

/-- The cut by supply is a failure after the cut has had its effects (R114, R139). -/
theorem cutBySupply_eq {s : State} {f : InFlight} (h : s.store.inFlight = some f) : cutBySupply s =
    endFailed f.supplyError (s.concernedBank f.stage) f.supplyDetail (cutEffects f s) := by
  unfold cutBySupply
  rw [h]
  dsimp only
  split
  · rename_i b cause hst
    obtain ⟨he, hd⟩ := supplyError_retiring hst
    rw [he, hd, hst]
    rfl
  · rename_i hst
    obtain ⟨he, hd⟩ := supplyError_other fun b cause hr => hst b cause hr
    rw [he, hd]

section
variable {s u : State} {f f' : InFlight} (hf : u.store.inFlight = some f')
include hf

theorem endSide_cutBySupply : EndSide (cutEffects f' u) (cutBySupply u) := by
  rw [cutBySupply_eq hf]
  exact endSide_endFailed _ _ _ _

theorem cutBySupply_arrPort : (cutBySupply u).arrPort = u.arrPort := by
  rw [(endSide_cutBySupply hf).arrPort, cutEffects_arrPort]

theorem cutBySupply_deferred : (cutBySupply u).store.deferred = u.store.deferred := by
  rw [(endSide_cutBySupply hf).deferred, cutEffects_deferred]

/-- A flag that is set stays set through the cut. -/
theorem cutBySupply_isSet (flag : Flag) (h : u.irq.isSet flag = true) : (cutBySupply u).irq.isSet flag = true :=
  (endSide_cutBySupply hf).flags flag (by rw [cutEffects_irq]; exact h)

/-- What the cut by supply leaves of the banks, the staging and the journal. -/
theorem cutBySupply_cutOutcome (hst : f'.stage = f.stage) (hslot : f'.spoiledSlot = f.spoiledSlot)
    (hrest : s.store.SameRest u.store) : s.cutOutcome (cutBySupply u) f :=
  cutOutcome_cutEffects hst hslot hrest (endSide_cutBySupply hf).rest

section
variable (ho : s.svc.outstanding = none) (hk : QueuesKept s u)
include ho hk

/-- The command that is cut by supply in a state `u` that has the queues of `s` fails with its error. -/
theorem cutBySupply_halts : s.halts (cutBySupply u) f' f'.supplyError (u.concernedBank f'.stage) f'.supplyDetail := by
  rw [cutBySupply_eq hf]
  exact endFailed_halts_beside _ _ _ (hk.trans (queuesKept_cutEffects u f')) (by rw [cutEffects_inFlight]; exact hf) ho

/-- The command that is cut by supply in a state `u` that differs from `s` in what the command is doing alone. -/
theorem cutBySupply_ends (he : f'.entry = f.entry) (hst : f'.stage = f.stage) (hslot : f'.spoiledSlot = f.spoiledSlot)
    (hrest : s.store.SameRest u.store) : s.endsBySupply (cutBySupply u) f := by
  have hconc : u.concernedBank f'.stage = s.concernedBank f.stage := by
    unfold State.concernedBank State.stagingBank
    rw [hst, hrest.staging]
  obtain ⟨⟨r, hpush, hout, herr, hphys, hdisc, hdetail, -⟩, heng, hwait, hqueue, hnone, hhalt, -⟩ :=
    cutBySupply_halts hf ho hk
  unfold State.pushed at hpush
  rw [he] at hpush
  refine ⟨⟨r, hpush, hout, hdisc, fun b cause hr => ?_, fun hr => ?_⟩,
    cutBySupply_cutOutcome hf hst hslot hrest, heng, hwait, hqueue, hnone, hhalt⟩
  · obtain ⟨h1, h2⟩ := supplyError_retiring (hst.trans hr)
    rw [herr, hphys, hdetail, h1, h2, hconc, hr]
    exact ⟨rfl, rfl, rfl⟩
  · obtain ⟨h1, h2⟩ := supplyError_other (f := f') fun b cause => by rw [hst]; exact hr b cause
    rw [herr, hphys, hdetail, h1, h2, hconc]
    exact ⟨rfl, rfl, cutNames_concernedBank s f⟩

end

end

/-- An end by supply goes through the grant that follows it. -/
theorem State.endsBySupply.grant {s t : State} {f : InFlight} (h : s.endsBySupply t f) :
    s.endsBySupply (arrayGrant t) f := by
  have hnone : t.store.inFlight = none := by
    obtain ⟨-, -, -, -, -, hnone, -⟩ := h
    exact hnone
  unfold State.endsBySupply State.pushed State.cutOutcome State.onlyRole at *
  rw [arrayGrant_store_none hnone, arrayGrant_irq]
  exact h

/-- The loader's command that is cut by supply. -/
theorem cutBySupply_loaderFailed {s u : State} {f f' : InFlight} {m : SvcMark} (h : s.loaderAwaits f m)
    (hk : QueuesKept s u) (hf : u.store.inFlight = some f') (he : f'.entry = f.entry) :
    s.loaderFailed (cutBySupply u) f'.supplyError m := by
  rw [cutBySupply_eq hf]
  have hcut := hk.trans (queuesKept_cutEffects u f')
  exact (endFailed_loaderFailed _ _ _ (h.of_queues hcut (by rw [cutEffects_inFlight]; exact hf) he)).of_queues hcut

end Sys2Proof.Machine
end

section
/-! SUPPORT. Map records and headers: the bytes of their layout, and what reads back as one (R104, R141, R142, R150). -/

namespace Sys2Proof.Machine

/-! ## The bytes of a record -/

/-- The byte of a map that holds the logical banks `2 * k` and `2 * k + 1` (layout of a map record slot). -/
def mapByte (m : Vector Bank 14) (k : Nat) : Byte :=
  BitVec.ofNat 8 ((m.toList.getD (2 * k) 0).val + 16 * (m.toList.getD (2 * k + 1) 0).val)

/-- The check of a record, with the pad as 255 and the marker as 0 (R141). -/
def MapRecord.check (r : MapRecord) : Word16 := checkSum (recordFields r ++ [0xFF, 0x00])

theorem recordBytes_eq (r : MapRecord) (marker : Byte) : recordBytes r marker =
    [byteOf r.generation 0, byteOf r.generation 1, byteOf r.generation 2, mapByte r.map 0, mapByte r.map 1,
      mapByte r.map 2, mapByte r.map 3, mapByte r.map 4, mapByte r.map 5, mapByte r.map 6, byteOf r.mask 0,
      byteOf r.mask 1, byteOf r.check 0, byteOf r.check 1, 0xFF, marker] := rfl

theorem recordBytes_length (r : MapRecord) (marker : Byte) : (recordBytes r marker).length = 16 := rfl

theorem recordFields_eq (r : MapRecord) (marker : Byte) : recordFields r = (recordBytes r marker).take 12 := rfl

theorem foldl_add_eq_sum (l : List Nat) (n : Nat) : l.foldl (· + ·) n = n + l.sum := by
  induction l generalizing n with
  | nil => rfl
  | cons a l ih => rw [List.foldl_cons, ih, List.sum_cons, Nat.add_assoc]

/-- The check of bytes is the sum of them as numbers, modulo 65,536 (R141). -/
theorem checkSum_toNat (l : List Byte) : (checkSum l).toNat = (l.map BitVec.toNat).sum % 65536 := by
  rw [checkSum, BitVec.toNat_ofNat, foldl_add_eq_sum, Nat.zero_add]

theorem mapByte_toNat {m : Vector Bank 14} {j : Nat} {lo hi : Logical} (hlo : lo.val = 2 * j) (hhi : hi.val = 2 * j + 1) :
    (mapByte m j).toNat = (m.get lo).val + 16 * (m.get hi).val := by
  have hget : ∀ l : Logical, m.toList.getD l.val 0 = m.get l := by
    intro l
    simp [List.getD_eq_getElem?_getD, Vector.get_eq_getElem]
  have h1 := (m.get lo).isLt
  have h2 := (m.get hi).isLt
  rw [mapByte, ← hhi, ← hlo, hget, hget, BitVec.toNat_ofNat]
  omega

/-- The bytes of the map stand behind the three of the generation (layout of a map record slot). -/
theorem byteAt_recordBytes_map (r : MapRecord) (marker : Byte) {j : Nat} (h : j < 7) :
    byteAt (recordBytes r marker) (3 + j) = mapByte r.map j := by
  rw [recordBytes_eq]
  interval_cases j <;> rfl

theorem byteAt_recordBytes_marker (r : MapRecord) (marker : Byte) : byteAt (recordBytes r marker) 15 = marker := rfl

/-- The bytes of a record by their places in the layout of a map record slot (R141). -/
theorem recordBytes_layout (r : MapRecord) (marker : Byte) :
    let l := recordBytes r marker
    let sum := ((l.take 12).map BitVec.toNat).sum + 255
    (∀ k, k < 3 → (byteAt l k).toNat = r.generation.toNat / 256 ^ k % 256) ∧
      (∀ (j : Nat) (lo hi : Logical), lo.val = 2 * j → hi.val = 2 * j + 1 →
        (byteAt l (3 + j)).toNat = (r.map.get lo).val + 16 * (r.map.get hi).val) ∧
      (∀ b : Bank, r.mask.getLsbD b.val = (byteAt l (10 + b.val / 8)).getLsbD (b.val % 8)) ∧
      (byteAt l 12).toNat + 256 * (byteAt l 13).toNat = sum % 65536 ∧ byteAt l 14 = 0xFF ∧ byteAt l 15 = marker := by
  intro l sum
  refine ⟨fun k hk => ?_, fun j lo hi hlo hhi => ?_, fun b => ?_, ?_, rfl, rfl⟩
  · have hbyte : byteAt l k = byteOf r.generation k := by
      show byteAt (recordBytes r marker) k = _
      rw [recordBytes_eq]
      interval_cases k <;> rfl
    rw [hbyte, byteOf_toNat, pow_mul]
    rfl
  · have := hi.isLt
    rw [byteAt_recordBytes_map r marker (by omega), mapByte_toNat hlo hhi]
  · have hplace : b.val / 8 = 0 ∨ b.val / 8 = 1 := by have := b.isLt; omega
    have hbyte : byteAt l (10 + b.val / 8) = byteOf r.mask (b.val / 8) := by
      rcases hplace with h | h <;> rw [h] <;> rfl
    rw [hbyte, byteOf_getLsbD _ _ (Nat.mod_lt _ (by decide)), Nat.div_add_mod]
  · have hcheck : r.check.toNat = sum % 65536 := by
      rw [MapRecord.check, checkSum_toNat, recordFields_eq r marker, List.map_append, List.sum_append]
      rfl
    show (byteOf r.check 0).toNat + 256 * (byteOf r.check 1).toNat = _
    rw [← hcheck, byteOf_toNat, byteOf_toNat]
    have := r.check.isLt
    omega

/-! ## Reading a record back -/

theorem mapOfSlot_get (l : List Byte) (i : Logical) : ((mapOfSlot l).get i).val =
    (byteAt l (3 + i.val / 2)).toNat / (if i.val % 2 = 0 then 1 else 16) % 16 := by
  have hget : (mapOfSlot l).get i =
      Fin.ofNat 16 ((byteAt l (3 + i.val / 2)).toNat / (if i.val % 2 = 0 then 1 else 16)) := by
    simp [mapOfSlot, Vector.get_eq_getElem]
  rw [hget]
  rfl

/-- The map in the bytes of a record is the record's. -/
theorem mapOfSlot_recordBytes (r : MapRecord) (marker : Byte) : mapOfSlot (recordBytes r marker) = r.map := by
  apply Vector.ext
  intro i hi
  have hpair := mapByte_toNat (m := r.map) (j := i / 2) (lo := ⟨2 * (i / 2), by omega⟩) (hi := ⟨2 * (i / 2) + 1, by omega⟩)
    rfl rfl
  have hlo := (r.map.get ⟨2 * (i / 2), by omega⟩).isLt
  have hhi := (r.map.get ⟨2 * (i / 2) + 1, by omega⟩).isLt
  apply Fin.ext
  refine (mapOfSlot_get (recordBytes r marker) ⟨i, hi⟩).trans ?_
  dsimp only
  rw [byteAt_recordBytes_map r marker (show i / 2 < 7 by omega), hpair]
  have hplace : ∀ k (hk : k < 14), i = k → (r.map[i]'hi).val = (r.map.get ⟨k, hk⟩).val := by
    rintro k hk rfl
    rfl
  rcases Nat.mod_two_eq_zero_or_one i with h | h
  · rw [hplace (2 * (i / 2)) (by omega) (by omega), if_pos h]
    omega
  · rw [hplace (2 * (i / 2) + 1) (by omega) (by omega), if_neg (by omega)]
    omega

/-- A slot's record is read from its fields, whatever its marker. -/
theorem recordOfSlot_recordBytes (r : MapRecord) (marker : Byte) : recordOfSlot (recordBytes r marker) = r := by
  have hgen : BitVec.ofNat 24 (natOfBytes ((recordBytes r marker).take 3)) = r.generation := by
    show BitVec.ofNat 24 (natOfBytes (bytesOf r.generation 3)) = r.generation
    rw [natOfBytes_bytesOf]
    apply BitVec.eq_of_toNat_eq
    have := r.generation.isLt
    rw [BitVec.toNat_ofNat]
    omega
  have hmask : word16 (byteAt (recordBytes r marker) 11) (byteAt (recordBytes r marker) 10) = r.mask :=
    word16_byteOf r.mask
  rw [recordOfSlot, hgen, mapOfSlot_recordBytes, hmask]

/-- Bytes of a number written and read in turn: the number's own byte. -/
theorem byteOf_natOfBytes (a b c : Byte) :
    byteOf (BitVec.ofNat 24 (natOfBytes [a, b, c])) 0 = a ∧ byteOf (BitVec.ofNat 24 (natOfBytes [a, b, c])) 1 = b ∧
      byteOf (BitVec.ofNat 24 (natOfBytes [a, b, c])) 2 = c := by
  have ha := a.isLt
  have hb := b.isLt
  have hc := c.isLt
  refine ⟨?_, ?_, ?_⟩ <;> apply BitVec.eq_of_toNat_eq <;> rw [byteOf_toNat, BitVec.toNat_ofNat] <;>
    simp only [natOfBytes] <;> omega

/-- The byte of two banks of the map in a slot is the slot's byte. -/
theorem mapByte_mapOfSlot (l : List Byte) {j : Nat} (h : j < 7) : mapByte (mapOfSlot l) j = byteAt l (3 + j) := by
  apply BitVec.eq_of_toNat_eq
  rw [mapByte_toNat (lo := ⟨2 * j, by omega⟩) (hi := ⟨2 * j + 1, by omega⟩) rfl rfl, mapOfSlot_get, mapOfSlot_get]
  have hlo : 3 + 2 * j / 2 = 3 + j := by omega
  have hhi : 3 + (2 * j + 1) / 2 = 3 + j := by omega
  have hbyte := (byteAt l (3 + j)).isLt
  simp only [hlo, hhi, if_pos (show 2 * j % 2 = 0 by omega), if_neg (show ¬(2 * j + 1) % 2 = 0 by omega)]
  omega

/-- Sixteen bytes whose pad, check and marker stand as a record's are the bytes of the record that they read as. -/
theorem recordBytes_recordOfSlot {l : List Byte} (hl : l.length = 16) (hpad : byteAt l 14 = 0xFF)
    (hcheck : word16 (byteAt l 13) (byteAt l 12) = checkSum (l.take 12 ++ [0xFF, 0x00])) :
    recordBytes (recordOfSlot l) (byteAt l 15) = l := by
  match l, hl with
  | [a0, a1, a2, a3, a4, a5, a6, a7, a8, a9, a10, a11, a12, a13, a14, a15], _ =>
    let l := [a0, a1, a2, a3, a4, a5, a6, a7, a8, a9, a10, a11, a12, a13, a14, a15]
    obtain ⟨h0, h1, h2⟩ := byteOf_natOfBytes a0 a1 a2
    have hmap : ∀ j, j < 7 → mapByte (recordOfSlot l).map j = byteAt l (3 + j) := fun j hj => mapByte_mapOfSlot l hj
    have hfields : recordFields (recordOfSlot l) = [a0, a1, a2, a3, a4, a5, a6, a7, a8, a9, a10, a11] := by
      rw [recordFields_eq _ 0, recordBytes_eq, hmap 0 (by decide), hmap 1 (by decide), hmap 2 (by decide),
        hmap 3 (by decide), hmap 4 (by decide), hmap 5 (by decide), hmap 6 (by decide)]
      have hlo : byteOf (recordOfSlot l).mask 0 = a10 := byteOf_word16_zero a11 a10
      have hhi : byteOf (recordOfSlot l).mask 1 = a11 := byteOf_word16_one a11 a10
      rw [hlo, hhi, show byteOf (recordOfSlot l).generation 0 = a0 from h0,
        show byteOf (recordOfSlot l).generation 1 = a1 from h1, show byteOf (recordOfSlot l).generation 2 = a2 from h2]
      rfl
    have hsum : (recordOfSlot l).check = word16 a13 a12 := by
      rw [MapRecord.check, hfields]
      exact hcheck.symm
    show recordFields (recordOfSlot l) ++ bytesOf (recordOfSlot l).check 2 ++ [0xFF, a15] = l
    rw [hfields, hsum, ← show a14 = 0xFF from hpad, show bytesOf (word16 a13 a12) 2 = [a12, a13] by
      simp [bytesOf, List.range_succ]]
    rfl

/-! ## The classes of slots -/

theorem slotValid_iff {l : List Byte} : slotValid l = true ↔
    byteAt l 15 = 0 ∧ byteAt l 14 = 0xFF ∧
      word16 (byteAt l 13) (byteAt l 12) = checkSum (l.take 12 ++ (l.drop 14).take 2) ∧
      (recordOfSlot l).generation ≠ 0 ∧ (recordOfSlot l).map.toList.Nodup ∧
      ∀ i : Logical, (recordOfSlot l).mask.getLsbD ((recordOfSlot l).map.get i).val = false := by
  have hall : ((recordOfSlot l).map.toList.all fun b => !(recordOfSlot l).mask.getLsbD b.val) = true ↔
      ∀ i : Logical, (recordOfSlot l).mask.getLsbD ((recordOfSlot l).map.get i).val = false := by
    rw [List.all_eq_true]
    constructor
    · intro h i
      simpa using h _ (by simp [Vector.get_eq_getElem])
    · intro h b hb
      obtain ⟨i, hi, rfl⟩ := List.getElem_of_mem hb
      simpa [Vector.get_eq_getElem] using h ⟨i, by simpa using hi⟩
  simp only [slotValid, Bool.and_eq_true, decide_eq_true_eq, hall, and_assoc]

/-- Only a slot that passes the checks is VALID, with the record that it reads as. -/
theorem slotValid_of_classify {l : List Byte} {r : MapRecord} (h : classify l = .valid r) :
    slotValid l = true ∧ recordOfSlot l = r := by
  unfold classify at h
  split at h
  · cases h
  · split at h
    · rename_i hv
      cases h
      exact ⟨hv, rfl⟩
    · cases h

theorem mem_of_byteAt {l : List Byte} {k : Nat} (h : k < l.length) : byteAt l k ∈ l := by
  rw [byteAt, List.getD_eq_getElem?_getD, List.getElem?_eq_getElem h]
  exact List.getElem_mem h

/-- A slot with a byte that is not FFH is not erased. -/
theorem classify_of_lit {l : List Byte} {k : Nat} (h : k < l.length) (hk : byteAt l k ≠ 0xFF) :
    classify l = if slotValid l then .valid (recordOfSlot l) else .spoiled := by
  unfold classify
  rw [if_neg fun hall => hk (by simpa using List.all_eq_true.1 hall _ (mem_of_byteAt h))]

/-- A slot whose marker is not 00H is not VALID (R142). -/
theorem classify_ne_valid {l : List Byte} (h : byteAt l 15 ≠ 0) (r : MapRecord) : classify l ≠ .valid r := fun hc =>
  h (slotValid_iff.1 (slotValid_of_classify hc).1).1

/-- Bytes of FFH have a check that is not all FFH, so that no record reads as erased. -/
theorem recordBytes_lit (r : MapRecord) (marker : Byte) :
    ∃ k, k < (recordBytes r marker).length ∧ byteAt (recordBytes r marker) k ≠ 0xFF := by
  by_cases h : ∀ k, k < 12 → byteAt (recordBytes r marker) k = 0xFF
  · have hfields : recordFields r = List.replicate 12 0xFF := by
      rw [recordFields_eq r marker]
      apply List.ext_getElem
      · rfl
      · intro k hk hk'
        have hlt : k < 12 := by simpa using hk'
        have hbyte := h k hlt
        rw [byteAt, List.getD_eq_getElem?_getD] at hbyte
        rw [List.getElem_take, List.getElem_replicate, ← hbyte,
          List.getElem?_eq_getElem (show k < (recordBytes r marker).length by rw [recordBytes_length]; omega)]
        rfl
    refine ⟨13, by rw [recordBytes_length]; decide, ?_⟩
    show byteOf r.check 1 ≠ 0xFF
    rw [MapRecord.check, hfields]
    decide
  · simp only [not_forall] at h
    obtain ⟨k, hk, hb⟩ := h
    exact ⟨k, by rw [recordBytes_length]; omega, hb⟩

/-- A record without its completion marker is SPOILED (R142). -/
theorem classify_recordBytes_spoiled (r : MapRecord) {marker : Byte} (h : marker ≠ 0) :
    classify (recordBytes r marker) = .spoiled := by
  obtain ⟨k, hk, hlit⟩ := recordBytes_lit r marker
  have hinvalid : ¬slotValid (recordBytes r marker) = true := fun hv =>
    h ((byteAt_recordBytes_marker r marker).symm.trans (slotValid_iff.1 hv).1)
  rw [classify_of_lit hk hlit, if_neg hinvalid]

/-- The bytes of a record with its marker make a VALID slot (R142). -/
theorem classify_recordBytes {r : MapRecord} (hgen : r.generation ≠ 0) (hmap : r.map.toList.Nodup)
    (hmask : ∀ l : Logical, r.mask.getLsbD (r.map.get l).val = false) : classify (recordBytes r 0) = .valid r := by
  have hcheck : word16 (byteAt (recordBytes r 0) 13) (byteAt (recordBytes r 0) 12) = r.check := word16_byteOf r.check
  have hvalid : slotValid (recordBytes r 0) = true := by
    rw [slotValid_iff, recordOfSlot_recordBytes, hcheck]
    exact ⟨rfl, rfl, rfl, hgen, hmap, hmask⟩
  have hmarker : byteAt (recordBytes r 0) 15 ≠ 0xFF := by rw [byteAt_recordBytes_marker]; decide
  rw [classify_of_lit (by rw [recordBytes_length]; decide) hmarker, if_pos hvalid, recordOfSlot_recordBytes]

/-- Nothing but the bytes of a record with its marker makes a VALID slot (R142). -/
theorem eq_recordBytes_of_classify {l : List Byte} {r : MapRecord} (hl : l.length = 16) (h : classify l = .valid r) :
    l = recordBytes r 0 ∧ r.generation ≠ 0 ∧ r.map.toList.Nodup ∧
      ∀ i : Logical, r.mask.getLsbD (r.map.get i).val = false := by
  obtain ⟨hv, rfl⟩ := slotValid_of_classify h
  obtain ⟨hmarker, hpad, hcheck, hgen, hmap, hmask⟩ := slotValid_iff.1 hv
  have htail : (l.drop 14).take 2 = [0xFF, 0x00] := by
    match l, hl with
    | [_, _, _, _, _, _, _, _, _, _, _, _, _, _, a14, a15], _ =>
      show [a14, a15] = _
      rw [show a14 = 0xFF from hpad, show a15 = 0 from hmarker]
  rw [htail] at hcheck
  refine ⟨?_, hgen, hmap, hmask⟩
  rw [← hmarker]
  exact (recordBytes_recordOfSlot hl hpad hcheck).symm

/-- An erased slot holds FFH in every byte (R142). -/
theorem classify_erased_iff {l : List Byte} {n : Nat} (hl : l.length = n) :
    classify l = .erased ↔ l = List.replicate n 0xFF := by
  rw [List.eq_replicate_iff]
  unfold classify
  split
  · rename_i h
    exact iff_of_true rfl ⟨hl, fun v hv => by simpa using List.all_eq_true.1 h v hv⟩
  · rename_i h
    refine iff_of_false (by split <;> nofun) fun hr => h ?_
    exact List.all_eq_true.2 fun v hv => by simpa using hr.2 v hv

/-! ## Headers -/

theorem byteOf_not (c : Word16) {k : Nat} (hk : k < 2) : byteOf (~~~c) k = ~~~(byteOf c k) := by
  apply BitVec.eq_of_getLsbD_eq
  intro j hj
  rw [byteOf_getLsbD _ _ hj, BitVec.getLsbD_not, BitVec.getLsbD_not, byteOf_getLsbD _ _ hj]
  simp [hj, show 8 * k + j < 16 by omega]

/-- The four bytes of a header: its count and the count inverted (R104). -/
theorem headerBytes_eq (c : Word16) :
    headerBytes c = [byteOf c 0, byteOf c 1, ~~~(byteOf c 0), ~~~(byteOf c 1)] := by
  rw [← byteOf_not c (by decide), ← byteOf_not c (by decide)]
  rfl

/-- A header gives back its count, and nothing else gives it (R104, R150). -/
theorem headerCount_eq_some {l : List Byte} {c : Word16} (hl : l.length = 4) :
    headerCount l = some c ↔ l = headerBytes c := by
  match l, hl with
  | [a0, a1, a2, a3], _ =>
    have hcount : headerCount [a0, a1, a2, a3] = if word16 a3 a2 = ~~~(word16 a1 a0) then some (word16 a1 a0) else none :=
      rfl
    have hbytes : headerBytes c = [byteOf c 0, byteOf c 1, byteOf (~~~c) 0, byteOf (~~~c) 1] := rfl
    have hpair : ∀ (hi lo : Byte) (w : Word16), word16 hi lo = w ↔ lo = byteOf w 0 ∧ hi = byteOf w 1 := by
      intro hi lo w
      constructor
      · rintro rfl
        simp
      · rintro ⟨rfl, rfl⟩
        exact word16_byteOf w
    rw [hcount, hbytes]
    constructor
    · intro h
      split at h
      · rename_i hinv
        cases h
        obtain ⟨h2, h3⟩ := (hpair _ _ _).1 hinv
        rw [← h2, ← h3]
        simp
      · cases h
    · intro h
      simp only [List.cons.injEq, and_true] at h
      obtain ⟨h0, h1, h2, h3⟩ := h
      have hc := (hpair a1 a0 c).2 ⟨h0, h1⟩
      rw [hc, if_pos ((hpair a3 a2 _).2 ⟨h2, h3⟩)]

/-- Settles O49: the layout byte by byte, and the round trip of records and headers both ways. -/
theorem mapRecordsReadBack : Obligations.MapRecordsReadBack :=
  ⟨recordBytes_layout, headerBytes_eq, fun _ hgen hmap hmask => ⟨rfl, classify_recordBytes hgen hmap hmask⟩,
    fun r _ h => classify_recordBytes_spoiled r h, fun _ _ hl h => eq_recordBytes_of_classify hl h,
    fun _ hl => classify_erased_iff hl, fun _ => (headerCount_eq_some rfl).2 rfl, fun _ _ hl => headerCount_eq_some hl⟩

end Sys2Proof.Machine
end

section
/-! SUPPORT. Pulses and sub-pulses: the bits that they may move, whole or cut, and what a cut leaves in a record slot (R105,
R106, R110, R111, R115, R142, R147). -/

namespace Sys2Proof.Machine

/-! ## The bits that may move -/

/-- From the array `m` to the array `n` bits have moved as a pulse of `p` may move them: from 1 to 0, in the bytes of its set
alone, and nowhere but where the target is 0 (R105). -/
structure ProgOp.Moves (p : ProgOp) (m n : Memory) : Prop where
  clears : ∀ a k, (n.read a).getLsbD k = true → (m.read a).getLsbD k = true
  outside : ∀ a, (∀ j, j ∈ p.set → a ≠ p.place.base + j) → n.read a = m.read a
  keeps : ∀ j k, j ∈ p.set → (byteAt p.target j).getLsbD k = true →
    (n.read (p.place.base + j)).getLsbD k = (m.read (p.place.base + j)).getLsbD k

/-- From the array `m` to the array `n` bits have moved as a sub-pulse of `u` may move them: from 0 to 1, in the unit alone
(R105). -/
structure EraseUnit.Moves (u : EraseUnit) (m n : Memory) : Prop where
  sets : ∀ a k, (m.read a).getLsbD k = true → (n.read a).getLsbD k = true
  outside : ∀ a, a < u.base ∨ u.base + u.size ≤ a → n.read a = m.read a

theorem ProgOp.Moves.refl (p : ProgOp) (m : Memory) : p.Moves m m := ⟨fun _ _ => id, fun _ _ => rfl, fun _ _ _ _ => rfl⟩

theorem EraseUnit.Moves.refl (u : EraseUnit) (m : Memory) : u.Moves m m := ⟨fun _ _ => id, fun _ _ => rfl⟩

/-- What every byte reads after a pulse: those of the set have been pulsed. -/
theorem pulseArray_read {s : State} (p : ProgOp) (hwf : s.array.wf = true) (a : Nat) :
    (pulseArray p s).array.read a = if ∃ j, j ∈ p.set ∧ a = p.place.base + j then
      pulsedByte (s.array.read a) (byteAt p.target (a - p.place.base)) (s.free (a - p.place.base)) else s.array.read a := by
  let f : Nat → Byte := fun a =>
    pulsedByte (s.array.read a) (byteAt p.target (a - p.place.base)) (s.free (a - p.place.base))
  refine (Memory.read_writeAll _ f (fun c hc => ?_) hwf a).trans ?_
  · obtain ⟨j, -, rfl⟩ := List.mem_map.1 hc
    simp [f]
  · have hmem : a ∈ (p.set.map fun k => (p.place.base + k,
        pulsedByte (s.array.read (p.place.base + k)) (byteAt p.target k) (s.free k))).map Prod.fst ↔
        ∃ j, j ∈ p.set ∧ a = p.place.base + j := by
      simp [List.mem_map, eq_comm]
    simp only [hmem]
    rfl

theorem pulseArray_moves {s : State} (p : ProgOp) (hwf : s.array.wf = true) :
    p.Moves s.array (pulseArray p s).array := by
  refine ⟨fun a k hk => ?_, fun a ha => ?_, fun j k hj ht => ?_⟩
  · rw [pulseArray_read p hwf] at hk
    split at hk
    · rw [pulsedByte, BitVec.getLsbD_and, Bool.and_eq_true] at hk
      exact hk.1
    · exact hk
  · rw [pulseArray_read p hwf, if_neg fun ⟨j, hj, he⟩ => ha j hj he]
  · rw [pulseArray_read p hwf, if_pos ⟨j, hj, rfl⟩, Nat.add_sub_cancel_left, pulsedByte, BitVec.getLsbD_and,
      BitVec.getLsbD_or, ht]
    simp

/-- What every byte reads after a sub-pulse: those of the unit have been pulsed. -/
theorem subPulseArray_read {s : State} (u : EraseUnit) (hwf : s.array.wf = true) (a : Nat) :
    (subPulseArray u s).array.read a = if u.base ≤ a ∧ a < u.base + u.size then
      subPulsedByte (s.array.read a) (s.free (a - u.base)) else s.array.read a := by
  let f : Nat → Byte := fun a => subPulsedByte (s.array.read a) (s.free (a - u.base))
  refine (Memory.read_writeAll _ f (fun c hc => ?_) hwf a).trans ?_
  · obtain ⟨j, -, rfl⟩ := List.mem_map.1 hc
    simp [f]
  · have hmem : a ∈ ((List.range u.size).map fun k => (u.base + k,
        subPulsedByte (s.array.read (u.base + k)) (s.free k))).map Prod.fst ↔ u.base ≤ a ∧ a < u.base + u.size := by
      simp only [List.map_map, List.mem_map, List.mem_range, Function.comp_apply]
      constructor
      · rintro ⟨k, hk, rfl⟩; omega
      · rintro ⟨h1, h2⟩; exact ⟨a - u.base, by omega, by omega⟩
    simp only [hmem]
    rfl

theorem subPulseArray_moves {s : State} (u : EraseUnit) (hwf : s.array.wf = true) :
    u.Moves s.array (subPulseArray u s).array := by
  refine ⟨fun a k hk => ?_, fun a ha => ?_⟩
  · rw [subPulseArray_read u hwf]
    split
    · rw [subPulsedByte, BitVec.getLsbD_or, hk, Bool.true_or]
    · exact hk
  · rw [subPulseArray_read u hwf, if_neg (by omega)]

/-! ## Completed pulses -/

/-- A request of the store engine leaves the interrupt flags and the scan engine alone. -/
theorem storeRequest_irq (r : StoreReq) (s : State) : (storeRequest r s).irq = s.irq := by
  unfold storeRequest
  split
  · rfl
  · rw [arrayGrant_irq]

theorem storeRequest_scan (r : StoreReq) (s : State) : (storeRequest r s).scan = s.scan := by
  unfold storeRequest
  split
  · rfl
  · rw [arrayGrant_scan]

/-- A completed pulse is followed by the read of its unit (R110). -/
theorem programPulseComplete_eq {s : State} {u : ArrUnit} {ab : Bool} {f : InFlight} {p : ProgOp}
    (ha : s.arrPort.access = some (.store (.pulse u) ab)) (hf : s.store.inFlight = some f) (hp : f.prog = some p) :
    programPulseComplete s = storeRequest (.read u) ((freeArrayPort (pulseArray p s)).withFlight fun f =>
      { f with prog := some { p with phase := .verifying } }) := by
  have hprog : s.progOp = some p := by simp [State.progOp, hf, hp]
  simp only [programPulseComplete, ha, hprog]

/-- A completed sub-pulse is followed by the erase verify of its unit (R111). -/
theorem eraseSubpulseComplete_eq {s : State} {u : EraseUnit} {ab : Bool} {f : InFlight} {e : EraseOp}
    (ha : s.arrPort.access = some (.store (.subPulse u) ab)) (hf : s.store.inFlight = some f) (he : f.erase = some e) :
    eraseSubpulseComplete s = storeRequest (.read (.whole u)) ((freeArrayPort (subPulseArray u s)).withFlight fun f =>
      { f with erase := some { e with stage := .verifying } }) := by
  have herase : s.eraseOp = some e := by simp [State.eraseOp, hf, he]
  simp only [eraseSubpulseComplete, ha, herase]

/-- The read that follows a completed pulse, from the state `x` that the pulse leaves: only the array, the count of free values
and what the command is doing differ from the free port. -/
theorem readAfterPulse {s x : State} {f : InFlight} (u : ArrUnit) (hport : x.arrPort = s.portFree.arrPort)
    (hrows : x.rows = s.rows) (hstore : x.store = { s.store with inFlight := some f }) :
    (storeRequest (.read u) x).store.inFlight = some f ∧ s.portFree.presents (storeRequest (.read u) x) (.read u) ∧
      (storeRequest (.read u) x).store.results = s.store.results := by
  refine ⟨?_, (presents_storeRequest _ x).from hport (by rw [hrows]; rfl) (by rw [hstore]; rfl), ?_⟩
  · rw [storeRequest_read_store, hstore]
  · rw [storeRequest_read_store, hstore]

/-- Settles O42: what a pulse and a sub-pulse move, and the read that follows each. -/
theorem pulsesMoveBitsOneWay : Obligations.PulsesMoveBitsOneWay := by
  refine ⟨fun s u ab f p hr hwf ha hf hp => ?_, fun s u ab f e hr hwf ha hf he => ?_⟩
  · let g : InFlight → InFlight := fun f => { f with prog := some { p with phase := .verifying } }
    let x : State := (freeArrayPort (pulseArray p s)).withFlight g
    have hside := storeSide_storeRequest (.read u) x
    have hmoves := pulseArray_moves p hwf
    have harray : (storeRequest (.read u) x).array = (pulseArray p s).array := hside.array
    have hstore : x.store = { s.store with inFlight := some (g f) } := by rw [← Option.map_some, ← hf]; rfl
    obtain ⟨hflight, hpresents, hresults⟩ := readAfterPulse (s := s) u (show x.arrPort = s.portFree.arrPort from rfl) rfl hstore
    refine ⟨storeRequest (.read u) x, (occur_released hr).trans (congrArg _ (programPulseComplete_eq ha hf hp)),
      ?_, ?_, ?_, hflight, hpresents, hside.cells, hside.win, storeRequest_irq _ x, storeRequest_scan _ x, hresults⟩
    · rw [harray]; exact hmoves.clears
    · rw [harray]; exact hmoves.outside
    · rw [harray]; exact hmoves.keeps
  · let g : InFlight → InFlight := fun f => { f with erase := some { e with stage := .verifying } }
    let x : State := (freeArrayPort (subPulseArray u s)).withFlight g
    have hside := storeSide_storeRequest (.read (.whole u)) x
    have hmoves := subPulseArray_moves u hwf
    have harray : (storeRequest (.read (.whole u)) x).array = (subPulseArray u s).array := hside.array
    have hstore : x.store = { s.store with inFlight := some (g f) } := by rw [← Option.map_some, ← hf]; rfl
    obtain ⟨hflight, hpresents, hresults⟩ :=
      readAfterPulse (s := s) (.whole u) (show x.arrPort = s.portFree.arrPort from rfl) rfl hstore
    refine ⟨storeRequest (.read (.whole u)) x,
      (occur_released hr).trans (congrArg _ (eraseSubpulseComplete_eq ha hf he)), ?_, ?_, hflight, hpresents, hside.cells,
      hside.win, storeRequest_irq _ x, storeRequest_scan _ x, hresults⟩
    · rw [harray]; exact hmoves.sets
    · rw [harray]; exact hmoves.outside

/-! ## Pulses that are cut -/

/-- A cut pulse leaves the bytes as its pulse did, or as they were where that would complete its unit. -/
theorem cutPulseArray_array (p : ProgOp) (s : State) :
    (cutPulseArray p s).array = (pulseArray p s).array ∧
        ((pulseArray p s).rawBytes p.place = p.target → s.rawBytes p.place = p.target) ∨
      (cutPulseArray p s).array = s.array := by
  unfold cutPulseArray
  dsimp only
  split
  · exact .inr rfl
  · rename_i h
    exact .inl ⟨rfl, fun ht => Classical.not_not.1 fun hs => h ⟨ht, hs⟩⟩

/-- A cut pulse may have moved what the whole pulse may move, and never completes its unit (R115). -/
theorem cutPulseArray_moves {s : State} (p : ProgOp) (hwf : s.array.wf = true) :
    p.Moves s.array (cutPulseArray p s).array ∧
      (s.rawBytes p.place ≠ p.target → (cutPulseArray p s).rawBytes p.place ≠ p.target) := by
  rcases cutPulseArray_array p s with ⟨h, hdone⟩ | h
  · refine ⟨by rw [h]; exact pulseArray_moves p hwf, fun hopen ht => hopen (hdone ?_)⟩
    rw [← ht, State.rawBytes, State.rawBytes, h]
  · refine ⟨by rw [h]; exact .refl p _, fun hopen ht => hopen ?_⟩
    rw [← ht, State.rawBytes, State.rawBytes, h]

theorem rawBytes_whole_eq (s : State) (u : EraseUnit) : s.rawBytes (.whole u) = List.replicate u.size 0xFF ↔
    ∀ k, k < u.size → s.array.read (u.base + k) = 0xFF := by
  rw [List.eq_replicate_iff]
  simp [State.rawBytes, Memory.readBytes, ArrUnit.base, ArrUnit.size]

/-- A cut sub-pulse may have moved what the whole sub-pulse may move, and never completes its unit (R115). -/
theorem cutSubPulseArray_moves {s : State} (u : EraseUnit) (hwf : s.array.wf = true) :
    u.Moves s.array (cutSubPulseArray u s).array ∧
      ((∃ k, k < u.size ∧ s.array.read (u.base + k) ≠ 0xFF) →
        ∃ k, k < u.size ∧ (cutSubPulseArray u s).array.read (u.base + k) ≠ 0xFF) := by
  unfold cutSubPulseArray
  dsimp only
  split
  · exact ⟨.refl u _, id⟩
  · rename_i h
    refine ⟨subPulseArray_moves u hwf, fun ⟨k, hk, hlit⟩ => Classical.by_contradiction fun hno => h ⟨?_, ?_⟩⟩
    · rw [rawBytes_whole_eq]
      exact fun j hj => Classical.not_not.1 fun hl => hno ⟨j, hj, hl⟩
    · rw [Ne, rawBytes_whole_eq]
      exact fun hall => hlit (hall k hk)

section
variable {s : State}

theorem cutPulse_quiet (h : s.pulseInProgress = false) : cutPulse s = s := by
  unfold State.pulseInProgress at h
  unfold cutPulse
  split <;> simp_all

theorem cutPulse_pulse {u : ArrUnit} {ab : Bool} {p : ProgOp} (ha : s.arrPort.access = some (.store (.pulse u) ab))
    (hp : s.progOp = some p) : (cutPulse s).array = (cutPulseArray p s).array := by
  simp only [cutPulse, ha, hp]
  rfl

theorem cutPulse_subPulse {u : EraseUnit} {ab : Bool} (ha : s.arrPort.access = some (.store (.subPulse u) ab)) :
    (cutPulse s).array = (cutSubPulseArray u s).array := by
  simp only [cutPulse, ha]
  rfl

/-- The cut of a pulse in progress frees the port. -/
theorem cutPulse_arrPort (h : s.pulseInProgress = true) : (cutPulse s).arrPort = { s.arrPort with access := none } := by
  have hpulse : ∀ p, (cutPulseArray p s).arrPort = s.arrPort := by
    intro p
    unfold cutPulseArray
    dsimp only
    split <;> rfl
  have hsub : ∀ u, (cutSubPulseArray u s).arrPort = s.arrPort := by
    intro u
    unfold cutSubPulseArray
    dsimp only
    split <;> rfl
  unfold State.pulseInProgress at h
  unfold cutPulse
  split
  · split
    · rw [freeArrayPort_arrPort, hpulse]
    · rfl
  · rw [freeArrayPort_arrPort, hsub]
  · rename_i h1 h2
    split at h
    · rename_i heq; exact absurd heq (h1 _ _)
    · rename_i heq; exact absurd heq (h2 _ _)
    · cases h

/-- The cut of a pulse reaches the array, its port and the count of free values alone. -/
theorem cutPulse_frame (s : State) : ∃ m p n, cutPulse s = { s with array := m, arrPort := p, freeCount := n } := by
  have hpulse : ∀ p, ∃ m n, cutPulseArray p s = { s with array := m, freeCount := n } := by
    intro p
    unfold cutPulseArray
    dsimp only
    split <;> exact ⟨_, _, rfl⟩
  have hsub : ∀ u, ∃ m n, cutSubPulseArray u s = { s with array := m, freeCount := n } := by
    intro u
    unfold cutSubPulseArray
    dsimp only
    split <;> exact ⟨_, _, rfl⟩
  unfold cutPulse
  split
  · split
    · rename_i p _
      obtain ⟨m, n, h⟩ := hpulse p
      rw [h]
      exact ⟨_, _, _, rfl⟩
    · exact ⟨_, _, _, rfl⟩
  · rename_i u _ _
    obtain ⟨m, n, h⟩ := hsub u
    rw [h]
    exact ⟨_, _, _, rfl⟩
  · exact ⟨_, _, _, rfl⟩

/-- The array after a cut is as a cut leaves it (R105, R115). -/
theorem cutLeaves_cutPulse {t : State} (hwf : s.array.wf = true) (ht : t.array = (cutPulse s).array) : s.cutLeaves t := by
  refine ⟨fun h => by rw [ht, cutPulse_quiet h], fun u ab p ha hp => ?_, fun u ab ha => ?_⟩
  · obtain ⟨hmoves, hdone⟩ := cutPulseArray_moves p hwf
    unfold State.rawBytes at hdone ⊢
    rw [ht, cutPulse_pulse ha hp]
    exact ⟨hmoves.clears, hmoves.outside, hmoves.keeps, hdone⟩
  · obtain ⟨hmoves, hdone⟩ := cutSubPulseArray_moves u hwf
    rw [ht, cutPulse_subPulse ha]
    exact ⟨hmoves.sets, hmoves.outside, hdone⟩

end

/-! ## Record slots whose pulse is cut -/

/-- Bits that already stand at their target stay through a pulse (R105). -/
theorem ProgOp.Moves.read_eq {p : ProgOp} {m n : Memory} (h : p.Moves m n) {j : Nat}
    (hj : m.read (p.place.base + j) = byteAt p.target j) : n.read (p.place.base + j) = m.read (p.place.base + j) := by
  by_cases hmem : j ∈ p.set
  · apply BitVec.eq_of_getLsbD_eq
    intro k hk
    by_cases ht : (byteAt p.target j).getLsbD k = true
    · exact h.keeps j k hmem ht
    · rw [hj]
      have hclear : ¬(n.read (p.place.base + j)).getLsbD k = true := fun hn => ht (hj ▸ h.clears _ _ hn)
      rw [Bool.not_eq_true] at hclear ht
      rw [hclear, ht]
  · refine h.outside _ fun i hi he => hmem ?_
    rwa [Nat.add_left_cancel he]

/-- A byte whose target is FFH stays through a pulse (R105). -/
theorem ProgOp.Moves.read_eq_of_erased {p : ProgOp} {m n : Memory} (h : p.Moves m n) {j : Nat}
    (hj : byteAt p.target j = 0xFF) : n.read (p.place.base + j) = m.read (p.place.base + j) := by
  by_cases hmem : j ∈ p.set
  · apply BitVec.eq_of_getLsbD_eq
    intro k hk
    refine h.keeps j k hmem ?_
    rw [hj]
    interval_cases k <;> rfl
  · refine h.outside _ fun i hi he => hmem ?_
    rwa [Nat.add_left_cancel he]

theorem byteAt_rawBytes_slot (m : Memory) (ar : Area) (n : Nat) {k : Nat} (hk : k < 16) :
    byteAt (m.readBytes (ArrUnit.slot ar n).base 16) k = m.read ((ArrUnit.slot ar n).base + k) := by
  rw [byteAt_readBytes, if_pos hk]

/-- Two lists of bytes of one length that agree at every place are the same. -/
theorem eq_of_byteAt {l m : List Byte} (hl : l.length = m.length) (h : ∀ k, k < l.length → byteAt l k = byteAt m k) :
    l = m := by
  apply List.ext_getElem hl
  intro k hk hk'
  have := h k hk
  rwa [byteAt, byteAt, List.getD_eq_getElem?_getD, List.getD_eq_getElem?_getD, List.getElem?_eq_getElem hk,
    List.getElem?_eq_getElem hk'] at this

theorem byteAt_recordBytes_body (r : MapRecord) (a b : Byte) {k : Nat} (hk : k < 15) :
    byteAt (recordBytes r a) k = byteAt (recordBytes r b) k := by
  rw [recordBytes_eq, recordBytes_eq]
  interval_cases k <;> rfl

/-- A pulse of the marker leaves a slot that holds a record with some marker. -/
theorem marker_pulse {p : ProgOp} {m n : Memory} {ar : Area} {i : Nat} {r : MapRecord} {marker : Byte}
    (h : p.Moves m n) (hp : p.place = .slot ar i) (ht : p.target = recordBytes r 0)
    (hm : m.readBytes (ArrUnit.slot ar i).base 16 = recordBytes r marker) :
    n.readBytes (ArrUnit.slot ar i).base 16 = recordBytes r (n.read ((ArrUnit.slot ar i).base + 15)) := by
  apply eq_of_byteAt
  · simp [Memory.readBytes, recordBytes_length]
  · intro k hk
    have hk16 : k < 16 := by simpa [Memory.readBytes] using hk
    rw [byteAt_rawBytes_slot n ar i hk16]
    by_cases hlast : k = 15
    · rw [hlast, byteAt_recordBytes_marker]
    · have hbefore : m.read ((ArrUnit.slot ar i).base + k) = byteAt (recordBytes r marker) k := by
        rw [← byteAt_rawBytes_slot m ar i hk16, hm]
      have hbody : byteAt (recordBytes r marker) k = byteAt p.target k := by
        rw [ht]
        exact byteAt_recordBytes_body r _ _ (by omega)
      have hstays := h.read_eq (j := k) (by rw [hp, hbefore, hbody])
      rw [hp, hbefore] at hstays
      rw [hstays]
      exact byteAt_recordBytes_body r _ _ (by omega)

/-- A record slot whose pulse is cut is spoiled, or not VALID (R115, R142, R147). -/
theorem cutSlots_cutPulse {s t : State} (hwf : s.array.wf = true) (ht : t.array = (cutPulse s).array) : s.cutSlots t := by
  intro u ab p ar i r ha hp hplace
  obtain ⟨hmoves, hdone⟩ := cutPulseArray_moves p hwf
  have harray : t.array = (cutPulseArray p s).array := ht.trans (cutPulse_pulse ha hp)
  rw [← harray] at hmoves
  have hraw : (cutPulseArray p s).rawBytes p.place = t.rawBytes (.slot ar i) := by
    rw [State.rawBytes, ← harray, hplace]; rfl
  rw [hraw, hplace] at hdone
  refine ⟨fun m hm htarget hold => ?_, fun htarget hmarker q => classify_ne_valid ?_ q⟩
  · have hleft : t.rawBytes (.slot ar i) = recordBytes r (t.array.read ((ArrUnit.slot ar i).base + 15)) :=
      marker_pulse hmoves hplace htarget hold
    have hopen : s.rawBytes (.slot ar i) ≠ p.target := by
      rw [hold, htarget]
      exact fun h => hm (congrArg (byteAt · 15) h)
    have hmark : t.array.read ((ArrUnit.slot ar i).base + 15) ≠ 0 := fun hzero =>
      hdone hopen (by rw [hleft, hzero, htarget])
    rw [hleft]
    exact classify_recordBytes_spoiled r hmark
  · have hstays : t.array.read ((ArrUnit.slot ar i).base + 15) = s.array.read ((ArrUnit.slot ar i).base + 15) := by
      have := hmoves.read_eq_of_erased (j := 15) (by rw [htarget, byteAt_recordBytes_marker])
      rwa [hplace] at this
    have hafter : byteAt (t.rawBytes (.slot ar i)) 15 = t.array.read ((ArrUnit.slot ar i).base + 15) :=
      byteAt_rawBytes_slot t.array ar i (by decide)
    have hbefore : byteAt (s.rawBytes (.slot ar i)) 15 = s.array.read ((ArrUnit.slot ar i).base + 15) :=
      byteAt_rawBytes_slot s.array ar i (by decide)
    rw [hafter, hstays, ← hbefore]
    exact hmarker

end Sys2Proof.Machine
end

section
/-! SUPPORT. The release of RESET#, LOWV# and STORE ABORT: the mode and the first read of the scan, and the ends of pulse work
that the supply or the host cuts (R107, R108, R114, R115, R118, R121, R123, R138, R139, R147, R149, R153, R154). -/

namespace Sys2Proof.Machine

/-! ## The release of RESET# -/

/-- The start-up scan presents its first read to a port at which nothing waits (R107, R149). -/
theorem beginScan_idle {s : State} (h : s.arrPort = { loaderWait := none, storeWait := none, access := none }) :
    beginScan s = { s with
      arrPort := { loaderWait := none, storeWait := none, access := some (.store (.read (.slot .a 0)) false) }
      store := { s.store with scan := some { slots := [], headers := [] } } } := by
  have hfree : s.arrPort.access = none := by rw [h]
  unfold beginScan
  rw [storeRequest_free _ (storeBusy_idle (by exact hfree)), arrayGrant_storeRuns (by exact hfree) (by rw [h]) rfl rfl]
  dsimp only
  rw [map_countGrant_read, h]

/-- Settles O6: the release with LOWV# high and with LOWV# asserted. -/
theorem releaseOfResetChoosesTheMode : Obligations.ReleaseOfResetChoosesTheMode := by
  intro s load hheld hport
  have hrelease : exec (.resetRelease load) s = .next (releaseReset load s) := rfl
  rw [hrelease, releaseReset, if_pos hheld]
  dsimp only
  by_cases hlow : s.part.lowv = true
  · rw [if_pos hlow, if_pos hlow, beginScan_idle (by exact hport)]
    rfl
  · rw [if_neg hlow, if_neg hlow, beginScan_idle (by exact hport)]
    rfl

/-! ## A grant with no request of the store engine -/

/-- With no request of the store engine waiting, a grant takes the loader's read if the port is free (R108). -/
theorem arrayGrant_noStore {s : State} (h : s.arrPort.storeWait = none) :
    (arrayGrant s).arrPort.storeWait = none ∧
      (arrayGrant s).arrPort.access = s.arrPort.access.or (s.arrPort.loaderWait.map (.loader · false)) := by
  rcases ha : s.arrPort.access with _ | acc
  · rcases hl : s.arrPort.loaderWait with _ | g
    · rw [arrayGrant_idle hl h]
      exact ⟨h, ha⟩
    · rw [arrayGrant_loader ha hl]
      exact ⟨h, rfl⟩
  · rw [arrayGrant_busy (by rw [ha]; rfl)]
    exact ⟨h, ha⟩

/-- No pulse is in progress where the access is none of the store engine's but a read. -/
theorem pulseInProgress_eq_false {s : State} (hp : ∀ u ab, s.arrPort.access ≠ some (.store (.pulse u) ab))
    (hs : ∀ u ab, s.arrPort.access ≠ some (.store (.subPulse u) ab)) : s.pulseInProgress = false := by
  unfold State.pulseInProgress
  split
  · rename_i u ab h; exact absurd h (hp u ab)
  · rename_i u ab h; exact absurd h (hs u ab)
  · rfl

/-- A port that has nothing of the store engine waiting and no pulse in progress is given none by a grant. -/
theorem pulseInProgress_arrayGrant {s : State} (hw : s.arrPort.storeWait = none) (h : s.pulseInProgress = false) :
    (arrayGrant s).pulseInProgress = false := by
  obtain ⟨-, hacc⟩ := arrayGrant_noStore hw
  rcases ha : s.arrPort.access with _ | acc
  · rw [ha] at hacc
    rcases hl : s.arrPort.loaderWait with _ | g <;> rw [hl] at hacc <;>
      exact pulseInProgress_eq_false (by rw [hacc]; simp) (by rw [hacc]; simp)
  · rw [ha] at hacc
    unfold State.pulseInProgress at h ⊢
    rw [hacc]
    rw [ha] at h
    exact h

theorem pulseWaiting_eq_false {s : State} (hw : s.arrPort.storeWait = none) (hd : s.store.deferred = none) :
    s.pulseWaiting = false := by
  rw [State.pulseWaiting, hw, hd]; rfl

/-! ## LOWV# -/

/-- LOWV# is asserted and the LOWV flag set (R114). -/
def State.lowvTaken (s : State) : State := raise .lowv { s with part := { s.part with lowv := true } }

/-- The state in which the pulse that waited has been withdrawn (R114). -/
def State.pulseWithdrawn (s : State) : State := { s with
  arrPort := { s.arrPort with storeWait := none }, store := { s.store with deferred := none } }

section
variable {s : State} (hheld : s.part.resetHeld = false) (hlow : s.part.lowv = false)
include hheld hlow

theorem lowvAsserted_eq : lowvAsserted s =
    if s.pulseInProgress then arrayGrant (cutBySupply (cutPulse s.lowvTaken))
    else if s.pulseWaiting then cutBySupply s.lowvTaken.pulseWithdrawn
    else s.lowvTaken := by
  unfold lowvAsserted
  rw [if_neg (by rw [hlow]; decide)]
  dsimp only
  rw [if_neg (by rw [hheld]; decide)]
  rfl

end

/-- Pulse work is in progress, or waits and nothing of it is in progress. -/
def State.pulseWork (s : State) : Prop :=
  (s.pulseInProgress = true ∧ s.arrPort.storeWait = none ∧ s.store.deferred = none) ∨
    (s.pulseInProgress = false ∧ s.pulseWaiting = true)

/-- The state in which LOWV# has ended the pulse work and the command is about to fail. -/
def State.pulseEnded (s : State) : State :=
  if s.pulseInProgress then cutPulse s.lowvTaken else s.lowvTaken.pulseWithdrawn

/-- The end of pulse work by LOWV#, in one form: the grant finds no more than a read of the loader. -/
theorem lowvAsserted_pulseWork {s : State} (hheld : s.part.resetHeld = false) (hlow : s.part.lowv = false)
    (h : s.pulseWork) : lowvAsserted s =
      if s.pulseInProgress then arrayGrant (cutBySupply s.pulseEnded) else cutBySupply s.pulseEnded := by
  rcases h with ⟨hp, -⟩ | ⟨hp, hw⟩
  · rw [lowvAsserted_eq hheld hlow, State.pulseEnded, hp, if_pos rfl, if_pos rfl, if_pos rfl]
  · rw [lowvAsserted_eq hheld hlow, State.pulseEnded, hp, hw, if_neg (by decide), if_pos rfl, if_neg (by decide),
      if_neg (by decide)]

/-- The end of the pulse work reaches the array and its port, LOWV# and its flag, and what the engine has put off. -/
theorem pulseEnded_frame (s : State) : ∃ m p n d, s.pulseEnded =
    { s.lowvTaken with array := m, arrPort := p, freeCount := n, store := { s.store with deferred := d } } := by
  unfold State.pulseEnded
  split
  · obtain ⟨m, p, n, h⟩ := cutPulse_frame s.lowvTaken
    exact ⟨m, p, n, s.store.deferred, h⟩
  · exact ⟨_, _, _, none, rfl⟩

section
variable (s : State)

theorem pulseEnded_sameRest : s.store.SameRest s.pulseEnded.store := by
  obtain ⟨m, p, n, d, h⟩ := pulseEnded_frame s
  rw [h]
  exact ⟨rfl, rfl, rfl, rfl, rfl, rfl, rfl, rfl, rfl⟩

theorem queuesKept_pulseEnded : QueuesKept s s.pulseEnded := by
  obtain ⟨m, p, n, d, h⟩ := pulseEnded_frame s
  rw [h]
  exact ⟨rfl, rfl, rfl⟩

theorem pulseEnded_inFlight : s.pulseEnded.store.inFlight = s.store.inFlight := by
  obtain ⟨m, p, n, d, h⟩ := pulseEnded_frame s
  rw [h]

theorem pulseEnded_lowv : s.pulseEnded.part.lowv = true ∧ s.pulseEnded.irq.isSet .lowv = true := by
  obtain ⟨m, p, n, d, h⟩ := pulseEnded_frame s
  rw [h]
  exact ⟨rfl, isSet_raise_self _ _⟩

/-- The array is as the cut of the pulse in progress leaves it, if one is. -/
theorem pulseEnded_array : s.pulseEnded.array = (cutPulse s.lowvTaken).array := by
  unfold State.pulseEnded
  split
  · rfl
  · rename_i h
    have hquiet : s.lowvTaken.pulseInProgress = false := (Bool.not_eq_true _).mp h
    rw [cutPulse_quiet hquiet]
    rfl

variable {s}

theorem pulseEnded_port (h : s.pulseWork) :
    s.pulseEnded.arrPort = { s.arrPort with
        storeWait := none, access := if s.pulseInProgress then none else s.arrPort.access } ∧
      s.pulseEnded.store.deferred = none := by
  rcases h with ⟨hp, hw, hd⟩ | ⟨hp, -⟩
  · have hport := cutPulse_arrPort (s := s.lowvTaken) hp
    obtain ⟨m, p, n, hcut⟩ := cutPulse_frame s.lowvTaken
    rw [State.pulseEnded, if_pos hp, if_pos hp]
    refine ⟨?_, by rw [hcut]; exact hd⟩
    rw [hport, ← hw]
    rfl
  · rw [State.pulseEnded, if_neg (by rw [hp]; decide), if_neg (by rw [hp]; decide)]
    exact ⟨rfl, rfl⟩

end

/-- Settles O7: LOWV# high again, LOWV# with no pulse work, and LOWV# that ends a pulse in progress or one that waits. -/
theorem lowvEndsThePulseWork : Obligations.LowvEndsThePulseWork := by
  refine ⟨fun s => rfl, fun s hheld hlow hp hw => ?_,
    fun s f hheld hlow hf ho hwf hwork => ?_⟩
  · have hexec : exec .lowvAsserted s = .next (lowvAsserted s) := rfl
    rw [hexec, lowvAsserted_eq hheld hlow, hp, hw, if_neg (by decide), if_neg (by decide)]
    rfl
  have hwork : s.pulseWork := hwork
  have hf' : s.pulseEnded.store.inFlight = some f := (pulseEnded_inFlight s).trans hf
  have hends : s.endsBySupply (cutBySupply s.pulseEnded) f :=
    cutBySupply_ends hf' ho (queuesKept_pulseEnded s) rfl rfl rfl (pulseEnded_sameRest s)
  have hside := storeSide_cutBySupply s.pulseEnded
  obtain ⟨hlow', hflag⟩ := pulseEnded_lowv s
  have hflag := cutBySupply_isSet hf' .lowv hflag
  obtain ⟨hport, hdef⟩ := pulseEnded_port hwork
  have hport : (cutBySupply s.pulseEnded).arrPort = _ := (cutBySupply_arrPort hf').trans hport
  have hdef := (cutBySupply_deferred hf').trans hdef
  have hwait : (cutBySupply s.pulseEnded).arrPort.storeWait = none := by rw [hport]
  have harray := hside.array.trans (pulseEnded_array s)
  refine ⟨lowvAsserted s, rfl, ?_⟩
  rw [lowvAsserted_pulseWork hheld hlow hwork]
  cases hp : s.pulseInProgress with
  | true =>
    have hidle : (cutBySupply s.pulseEnded).arrPort.access = none := by rw [hport, hp]; rfl
    obtain ⟨hwait', hacc⟩ := arrayGrant_noStore hwait
    rw [if_pos rfl]
    refine ⟨by rw [arrayGrant_part, hside.part]; exact hlow', by rw [arrayGrant_irq]; exact hflag, hends.grant,
      cutLeaves_cutPulse (s := s.lowvTaken) hwf (by rw [arrayGrant_array]; exact harray),
      cutSlots_cutPulse (s := s.lowvTaken) hwf (by rw [arrayGrant_array]; exact harray),
      pulseInProgress_arrayGrant hwait (pulseInProgress_eq_false (by rw [hidle]; simp) (by rw [hidle]; simp)),
      pulseWaiting_eq_false hwait' ((arrayGrant_rest _).2.2.2.trans hdef), fun _ g hg => ?_⟩
    rw [hacc, hidle, hport, hg]
    rfl
  | false =>
    have hsame : (cutBySupply s.pulseEnded).arrPort.access = s.arrPort.access := by rw [hport, hp]; rfl
    rw [if_neg (by decide)]
    refine ⟨by rw [hside.part]; exact hlow', hflag, hends, cutLeaves_cutPulse (s := s.lowvTaken) hwf harray,
      cutSlots_cutPulse (s := s.lowvTaken) hwf harray, ?_, pulseWaiting_eq_false hwait hdef, nofun⟩
    unfold State.pulseInProgress at hp ⊢
    rw [hsame]
    exact hp

/-! ## STORE ABORT -/

section
variable {s : State} {f : InFlight} (p : Option Bank) (hf : s.store.inFlight = some f)
include hf

theorem endAborted_eq : endAborted p s =
    (discardQueue (pushResult (makeResult s f .aborted .none p s.store.queue.length 0 0 noImage) s)).setEngine .idle .none := by
  unfold endAborted
  rw [hf]
  rfl

theorem endAborted_engine : (endAborted p s).store.engine = .idle ∧ (endAborted p s).store.wait = .none ∧
    (endAborted p s).store.queue = [] ∧ (endAborted p s).store.inFlight = none := by
  rw [endAborted_eq p hf]
  refine ⟨rfl, rfl, ?_, ?_⟩ <;> simp

theorem endAborted_scan : (endAborted p s).scan = s.scan := by
  rw [endAborted_eq p hf]
  simp only [setEngine_scan, discardQueue, qspaceFrom]
  split <;> rfl

/-- A full queue that an abort discards sets QSPACE (R138). -/
theorem endAborted_qspace (h : s.store.queue.length = 4) : (endAborted p s).irq.isSet .qspace = true := by
  rw [endAborted_eq p hf]
  have hq : (pushResult (makeResult s f .aborted .none p s.store.queue.length 0 0 noImage) s).store.queue.length = 4 := h
  rw [setEngine_irq, discardQueue, qspaceFrom, if_pos hq]
  exact isSet_raise_self _ _

/-- The record of the command that an abort cuts in a state that has the queues of `s₀` (R123, R138). -/
theorem endAborted_pushes {s₀ : State} (hs : QueuesKept s₀ s) : ∃ r, s₀.pushed (endAborted p s) f r ∧ r.outcome = .aborted ∧
    r.error = .none ∧ r.detail = 0 ∧ r.discarded = s₀.store.queue.length ∧ r.phys = p := by
  rw [endAborted_eq p hf]
  refine ⟨makeResult s f .aborted .none p s.store.queue.length 0 0 noImage, ⟨?_, ?_, rfl, rfl, rfl, ?_, ?_, ?_⟩, rfl, rfl,
    rfl, by rw [← hs.queue]; rfl, rfl⟩
  · simp [hs.results]
  · rw [setEngine_irq]
    exact qspaceFrom_isSet _ (isSet_raise_self _ _)
  · simp [makeResult]
  · rintro b hb
    subst hb
    simp [State.bankEntry, makeResult]
  · rintro hb
    have : p = none := hb
    subst this
    exact ⟨rfl, rfl⟩

end

/-- The state in which STORE ABORT has cut the work at the array and withdrawn what waited (R115). -/
def State.abortCut (s : State) : State := { cutPulse s with
  arrPort := (cutPulse s).arrPort.storeLeaves, store := { (cutPulse s).store with deferred := none } }

section
variable (s : State)

/-- The cut reaches the array and its port and what the engine has put off. -/
theorem abortCut_frame : ∃ m p n, s.abortCut = { s with
    array := m, arrPort := p, freeCount := n, store := { s.store with deferred := none } } := by
  obtain ⟨m, p, n, h⟩ := cutPulse_frame s
  rw [State.abortCut, h]
  exact ⟨m, p.storeLeaves, n, rfl⟩

theorem abortCut_sameRest : s.store.SameRest s.abortCut.store := by
  obtain ⟨m, p, n, h⟩ := abortCut_frame s
  rw [h]
  exact ⟨rfl, rfl, rfl, rfl, rfl, rfl, rfl, rfl, rfl⟩

theorem queuesKept_abortCut : QueuesKept s s.abortCut := by
  obtain ⟨m, p, n, h⟩ := abortCut_frame s
  rw [h]
  exact ⟨rfl, rfl, rfl⟩

theorem abortCut_inFlight : s.abortCut.store.inFlight = s.store.inFlight := by
  obtain ⟨m, p, n, h⟩ := abortCut_frame s
  rw [h]

/-- A pulse in progress is gone from the port; every other access stays, and a read of the store engine with its data
discarded. -/
theorem abortCut_port : s.abortCut.arrPort.loaderWait = s.arrPort.loaderWait ∧ s.abortCut.arrPort.storeWait = none ∧
    (s.pulseInProgress = true → s.abortCut.arrPort.access = none) ∧
    (s.pulseInProgress = false → s.abortCut.arrPort = s.arrPort.storeLeaves) := by
  cases h : s.pulseInProgress with
  | true =>
    rw [State.abortCut, cutPulse_arrPort h]
    exact ⟨rfl, rfl, fun _ => rfl, nofun⟩
  | false =>
    rw [State.abortCut, cutPulse_quiet h]
    exact ⟨rfl, rfl, nofun, fun _ => rfl⟩

end

/-- A port that STORE ABORT has left has no pulse in progress where there was none. -/
theorem pulseInProgress_storeLeaves {s t : State} (ht : t.arrPort = s.arrPort.storeLeaves)
    (h : s.pulseInProgress = false) : t.pulseInProgress = false := by
  unfold State.pulseInProgress at *
  rw [ht, ArrayPort.storeLeaves]
  rcases ha : s.arrPort.access with _ | ⟨g, ab⟩ | ⟨_ | _ | _, ab⟩ <;> rw [ha] at h
  case some.store.pulse => cases h
  case some.store.subPulse => cases h

theorem abortFlight_eq {s : State} {f : InFlight} (hf : s.store.inFlight = some f) :
    abortFlight s = endAborted (s.concernedBank f.stage) (cutEffects f s.abortCut) := by
  have h : s.abortCut.store.inFlight = some f := (abortCut_inFlight s).trans hf
  unfold abortFlight
  dsimp only
  split
  · rename_i k; exact absurd (h.symm.trans k) (by simp)
  · rename_i g k
    rw [Option.some.inj (h.symm.trans k)]
    rfl

/-- The abort of the command in flight, before the grant that follows it. -/
theorem abortFlight_frame {s : State} {f : InFlight} (hf : s.store.inFlight = some f) :
    EndSide (cutEffects f s.abortCut) (abortFlight s) ∧ (abortFlight s).scan = s.scan ∧ StoreSide s.abortCut (abortFlight s) := by
  have h : (cutEffects f s.abortCut).store.inFlight = some f := by rw [cutEffects_inFlight, abortCut_inFlight, hf]
  rw [abortFlight_eq hf]
  refine ⟨endSide_endAborted _ _, ?_, (storeSide_cutEffects _ _).trans (storeSide_endAborted _ _)⟩
  obtain ⟨v, g, j, hc⟩ := cutEffects_store s.abortCut f
  obtain ⟨m, p, n, ha⟩ := abortCut_frame s
  rw [endAborted_scan _ h, hc, ha]

/-- STORE ABORT with a command in flight. -/
theorem storeAbort_flight {s : State}
    (h : s.store.engine = .running ∨ (s.store.engine = .waiting ∧ s.store.wait = .draining)) :
    storeAbort s = arrayGrant (abortFlight s) := by
  unfold storeAbort
  rcases h with h | ⟨h, k⟩
  · rw [h]
  · rw [h, k]

/-- Settles O19, by the engine's state: the command in flight is cut, or the queue alone is lost, or nothing is. -/
theorem storeAbortPushesAnAbortedResult : Obligations.StoreAbortPushesAnAbortedResult := by
  have hexec : ∀ {s : State}, s.hostOpen → exec .storeAbort s = .next (storeAbort s) := fun ho => strobe_command ho 5
  refine ⟨fun s f ho hf hwf hrun => ?_, fun s ho h => ?_, fun s ho h k => ?_, fun s ho h => ?_⟩
  · have hcut : (cutEffects f s.abortCut).store.inFlight = some f := by rw [cutEffects_inFlight, abortCut_inFlight, hf]
    obtain ⟨hend, hscan, hside⟩ := abortFlight_frame hf
    obtain ⟨r, hpush, hout, herr, hdetail, hdisc, hphys⟩ := endAborted_pushes (s.concernedBank f.stage) hcut
      ((queuesKept_abortCut s).trans (queuesKept_cutEffects s.abortCut f))
    obtain ⟨heng, hwait, hqueue, hnone⟩ := endAborted_engine (s.concernedBank f.stage) hcut
    have hfull := endAborted_qspace (s.concernedBank f.stage) hcut
    rw [← abortFlight_eq hf] at hpush heng hwait hqueue hnone hfull
    obtain ⟨hloader, hstore, hpulse, hleaves⟩ := abortCut_port s
    have hport : (abortFlight s).arrPort = s.abortCut.arrPort := hend.arrPort.trans (cutEffects_arrPort _ f)
    have hquiet : (abortFlight s).pulseInProgress = false := by
      cases hp : s.pulseInProgress with
      | true =>
        have hidle : (abortFlight s).arrPort.access = none := by rw [hport]; exact hpulse hp
        exact pulseInProgress_eq_false (by rw [hidle]; simp) (by rw [hidle]; simp)
      | false => exact pulseInProgress_storeLeaves (hport.trans (hleaves hp)) hp
    obtain ⟨hwait', hacc⟩ := arrayGrant_noStore (s := abortFlight s) (by rw [hport]; exact hstore)
    have hdef : (arrayGrant (abortFlight s)).store.deferred = none := by
      rw [(arrayGrant_rest _).2.2.2, hend.deferred, cutEffects_deferred]; rfl
    have hsame := arrayGrant_store_none hnone
    have harray : (arrayGrant (abortFlight s)).array = (cutPulse s).array := by
      rw [arrayGrant_array, hside.array]; rfl
    obtain ⟨m, q, n, hframe⟩ := abortCut_frame s
    refine ⟨arrayGrant (abortFlight s), r, by rw [hexec ho, storeAbort_flight hrun], by rw [hsame]; exact heng,
      by rw [hsame]; exact hwait, by rw [hsame]; exact hqueue, by rw [hsame]; exact hnone, ?_, hout, herr, hdetail, hdisc,
      ?_, ?_, fun hlen => ?_, ?_, cutLeaves_cutPulse hwf harray, cutSlots_cutPulse hwf harray, fun u ab hu => ?_,
      fun hp g hg => ?_, hwait', hdef, pulseInProgress_arrayGrant (by rw [hport]; exact hstore) hquiet,
      pulseWaiting_eq_false hwait' hdef, ?_, ?_, ?_⟩
    · unfold State.pushed at hpush ⊢
      rw [hsame, arrayGrant_irq]
      exact hpush
    · rw [hphys]
      exact cutNames_concernedBank s f
    · rw [arrayGrant_irq]
      exact hpush.2.1
    · rw [arrayGrant_irq]
      exact hfull (by rw [(queuesKept_cutEffects s.abortCut f).queue, (queuesKept_abortCut s).queue]; exact hlen)
    · exact cutOutcome_cutEffects rfl rfl (abortCut_sameRest s) (hend.rest.trans (by rw [hsame]; exact .refl _))
    · have hp : s.pulseInProgress = false := pulseInProgress_eq_false (by rw [hu]; simp) (by rw [hu]; simp)
      rw [hacc, hport, hleaves hp, ArrayPort.storeLeaves, hu]
      rfl
    · rw [hacc, hport, hpulse hp, hloader, hg]
      rfl
    · rw [arrayGrant_rows, hside.rows, hframe]
    · rw [arrayGrant_scan, hscan]
    · rw [arrayGrant_cells, hside.cells, hframe]
  · rw [hexec ho, storeAbort]
    rcases h with h | h <;> rw [h]
  · rw [hexec ho, storeAbort, h, k, discardQueue, qspaceFrom]
    dsimp only
    split <;> rfl
  · rw [hexec ho, storeAbort, h, discardQueue, qspaceFrom]
    dsimp only
    split <;> rfl

end Sys2Proof.Machine
end

section
/-! SUPPORT. The store commands from their start: the points at which LOWV# cuts an operation that begins, the choice of a
spare, the first requests of CLONE, PROGRAM, COMMIT, SCRUB, READGLYPH and CHECK, and the checks that fail (R107, R110, R111,
R114, R117, R120, R126 to R135, R139, R144). -/

namespace Sys2Proof.Machine

/-! ## Pulses that LOWV# keeps from being presented -/

/-- The state `t` in which LOWV# has ended, where it would have presented a pulse, a command that was then at `f'` and of which
`s` is a state before: what the command was doing may have moved on since, and nothing else of the store (R114). -/
def State.suppliedOut (s t : State) (f' : InFlight) : Prop :=
  ∃ u, t = cutBySupply u ∧ u.store.inFlight = some f' ∧ QueuesKept s u ∧ s.store.SameRest u.store

/-- A failure says of the command its entry alone. -/
theorem State.halts.of_entry {s t : State} {f f' : InFlight} {e : ErrCode} {p : Option Bank} {d : Word16}
    (h : s.halts t f' e p d) (he : f'.entry = f.entry) : s.halts t f e p d := by
  unfold State.halts State.pushed at *
  rwa [he] at h

section
variable {s t : State} {f f' : InFlight}

theorem State.suppliedOut.of_kept {s₀ : State} (h : s.suppliedOut t f') (hq : QueuesKept s₀ s)
    (hr : s₀.store.SameRest s.store) : s₀.suppliedOut t f' := by
  obtain ⟨u, he, hf, hk, hrest⟩ := h
  exact ⟨u, he, hf, hq.trans hk, hr.trans hrest⟩

theorem State.suppliedOut.halts (h : s.suppliedOut t f') (ho : s.svc.outstanding = none) :
    s.halts t f' f'.supplyError (s.concernedBank f'.stage) f'.supplyDetail := by
  obtain ⟨u, he, hf, hk, hrest⟩ := h
  have hconc : s.concernedBank f'.stage = u.concernedBank f'.stage := by
    unfold State.concernedBank State.stagingBank
    rw [hrest.staging]
  rw [he, hconc]
  exact cutBySupply_halts hf ho hk

/-- A command other than a retirement fails with SUPPLY_LOW (R114, R139). -/
theorem State.suppliedOut.halts_supplyLow (h : s.suppliedOut t f') (ho : s.svc.outstanding = none)
    (he : f'.entry = f.entry) (hst : ∀ b cause, f'.stage ≠ .retiring b cause) :
    s.halts t f .supplyLow (s.concernedBank f'.stage) 0 := by
  have hfail := h.halts ho
  obtain ⟨herr, hdetail⟩ := supplyError_other hst
  rw [herr, hdetail] at hfail
  exact hfail.of_entry he

theorem State.suppliedOut.ends (h : s.suppliedOut t f') (ho : s.svc.outstanding = none) (he : f'.entry = f.entry)
    (hst : f'.stage = f.stage) (hslot : f'.spoiledSlot = f.spoiledSlot) : s.endsBySupply t f := by
  obtain ⟨u, rfl, hf, hk, hrest⟩ := h
  exact cutBySupply_ends hf ho hk he hst hslot hrest

theorem State.suppliedOut.loaderFailed {m : SvcMark} (h : s.suppliedOut t f') (ha : s.loaderAwaits f m)
    (he : f'.entry = f.entry) : s.loaderFailed t f'.supplyError m := by
  obtain ⟨u, rfl, hf, hk, -⟩ := h
  exact cutBySupply_loaderFailed ha hk hf he

/-- A command that neither fills a staging bank nor has spoiled a slot loses nothing. -/
theorem State.suppliedOut.sameRest (h : s.suppliedOut t f') (hfills : ¬f'.fills) (hslot : f'.spoiledSlot = none) :
    s.store.SameRest t.store := by
  obtain ⟨u, rfl, hf, -, hrest⟩ := h
  have hside := endSide_cutBySupply hf
  rw [cutEffects_quiet u hfills hslot] at hside
  exact hrest.trans hside.rest

/-- A command that fills a staging bank loses its staging. -/
theorem State.suppliedOut.closes {g : Staging} (h : s.suppliedOut t f') (hfills : f'.fills)
    (hg : s.store.staging = some g) : t.store.staging = none ∧ s.onlyRole t g.bank .spareDirty := by
  obtain ⟨u, rfl, hf, -, hrest⟩ := h
  obtain ⟨-, -, -, -, -, hloses, -⟩ :=
    cutBySupply_cutOutcome hf (f := f') rfl rfl hrest
  obtain ⟨hnone, hrole⟩ := hloses hfills
  exact ⟨hnone, hrole g hg⟩

/-- With the command in flight moved on first. -/
theorem State.suppliedOut.of_withFlight {g : InFlight → InFlight} (h : (s.withFlight g).suppliedOut t f') :
    s.suppliedOut t f' :=
  h.of_kept ⟨rfl, rfl, rfl⟩ ⟨rfl, rfl, rfl, rfl, rfl, rfl, rfl, rfl, rfl⟩

/-! A presented pulse, with LOWV# asserted, at each of the operations that begin with one. -/

section
variable (hl : s.part.lowv = true) (h : s.store.inFlight = some f)
include hl h

theorem presentPulse_suppliedOut (r : StoreReq) : s.suppliedOut (presentPulse r s) f :=
  ⟨s, by rw [presentPulse, if_pos hl], h, .refl s, .refl _⟩

theorem startProg_suppliedOut (u : ArrUnit) (l : List Byte) {k : Nat} (hk : k < 12) :
    s.suppliedOut (startProg u l k s) { f with
      prog := some { place := u, target := l, set := firstSet l, pulses := k, phase := .pulsing } } := by
  rw [startProg_cut u l hk hl]
  exact ⟨_, rfl, withFlight_inFlight _ h, ⟨rfl, rfl, rfl⟩, ⟨rfl, rfl, rfl, rfl, rfl, rfl, rfl, rfl, rfl⟩⟩

theorem startPrewrite_suppliedOut (u : EraseUnit) (k : Nat) : s.suppliedOut (startPrewrite u k s) { f with
    erase := some { target := u, stage := .prewrite k, pace := 0, given := 0 }
    prog := some { place := u.prewriteUnit k, target := List.replicate (u.prewriteUnit k).size 0
                   set := firstSet (List.replicate (u.prewriteUnit k).size 0), pulses := 0, phase := .pulsing } } :=
  (startProg_suppliedOut (s := s.withFlight _) hl (withFlight_inFlight _ h) _ _ (by decide)).of_withFlight

theorem startSubPulse_suppliedOut (e : EraseOp) :
    s.suppliedOut (startSubPulse e s) { f with erase := some { e with stage := .subPulsing } } :=
  (presentPulse_suppliedOut (s := s.withFlight _) hl (withFlight_inFlight _ h) _).of_withFlight

theorem startSlot_suppliedOut (m : MapOp) (ar : Area) (n : Fin 8) : s.suppliedOut (startSlot m ar n s) { f with
    erase := none, mapw := some { m with stage := .body, area := ar, slot := n }
    prog := some { place := .slot ar n.val, target := m.bytes 0xFF, set := firstSet (m.bytes 0xFF), pulses := 0
                   phase := .pulsing } } :=
  (startProg_suppliedOut (s := s.withFlight _) hl (withFlight_inFlight _ h) _ _ (by decide)).of_withFlight

theorem startMarker_suppliedOut (m : MapOp) {k : Nat} (hk : k < 12) : s.suppliedOut (startMarker m k s) { f with
    mapw := some { m with stage := .marker }
    prog := some { place := .slot m.area m.slot.val, target := m.bytes 0, set := firstSet (m.bytes 0), pulses := k
                   phase := .pulsing } } :=
  (startProg_suppliedOut (s := s.withFlight _) hl (withFlight_inFlight _ h) _ _ hk).of_withFlight

/-- The slot of a map write, or the area to erase for it, is not begun: no pulse has been given. -/
theorem chooseSlot_suppliedOut (m : MapOp) : ∃ f', s.suppliedOut (chooseSlot m s) f' ∧ f'.entry = f.entry ∧
    f'.stage = f.stage ∧ f'.spoiledSlot = none := by
  cases hn : s.store.journal.next with
  | some n =>
    rw [chooseSlot_next m hn]
    exact ⟨_, startSlot_suppliedOut hl h m _ n, rfl, rfl, spoiledSlot_of_no_pulse rfl rfl⟩
  | none =>
    have hchoice : chooseSlot m s = startPrewrite (.area s.store.journal.areaToErase) 0
        (s.withFlight fun f => { f with mapw := some { m with stage := .areaErase, area := s.store.journal.areaToErase } }) := by
      unfold chooseSlot; rw [hn]
    rw [hchoice]
    exact ⟨_, (startPrewrite_suppliedOut (s := s.withFlight _) hl (withFlight_inFlight _ h) _ 0).of_withFlight, rfl, rfl,
      spoiledSlot_of_no_pulse rfl rfl⟩

end

end

/-! ## The erase of a chosen spare -/

section
variable {s : State} {f : InFlight} (b : Bank) (h : s.store.inFlight = some f)
include h

/-- The erase of a spare begins with LOWV# high: of the store the command in flight and the request put off change. -/
theorem eraseSpare_erases (hl : s.part.lowv = false) : s.erasesSpare (eraseSpare b s) f b ∧ ∃ i d,
    (eraseSpare b s).store = { s.store with inFlight := i, deferred := d } := by
  have hf := withFlight_inFlight (fun f => { f with stage := .erasing b }) h
  obtain ⟨hpres, -, n, hcount, hstore⟩ := startPrewrite_counts (s := s.withFlight _) (.bank b) 0 hl hf
  exact ⟨⟨hpres.from rfl rfl rfl, n, congrArg Store.inFlight hstore, hcount⟩, _, _, hstore⟩

/-- With LOWV# asserted it fails, and nothing is lost (R114, R139). -/
theorem eraseSpare_cut (hl : s.part.lowv = true) : ∃ f', s.suppliedOut (eraseSpare b s) f' ∧ f'.entry = f.entry ∧
    f'.stage = .erasing b ∧ f'.spoiledSlot = none := by
  have hf := withFlight_inFlight (fun f => { f with stage := .erasing b }) h
  exact ⟨_, (startPrewrite_suppliedOut (s := s.withFlight _) hl hf (.bank b) 0).of_withFlight, rfl, rfl,
    spoiledSlot_of_no_pulse rfl rfl⟩

theorem eraseSpare_halts (hl : s.part.lowv = true) (ho : s.svc.outstanding = none) :
    s.halts (eraseSpare b s) f .supplyLow (some b) 0 ∧ s.store.SameRest (eraseSpare b s).store := by
  obtain ⟨f', hcut, hentry, hstage, hslot⟩ := eraseSpare_cut b h hl
  have hfail := hcut.halts_supplyLow ho hentry (by rw [hstage]; simp)
  rw [hstage] at hfail
  exact ⟨hfail, hcut.sameRest (by rintro (⟨i, n, k⟩ | k) <;> rw [hstage] at k <;> cases k) hslot⟩

end

theorem storeSide_eraseSpare (b : Bank) (s : State) : StoreSide s (eraseSpare b s) :=
  (storeSide_withFlight _ s).trans (storeSide_startPrewrite _ _ _)

/-! ## BEGIN -/

/-- The state in which a spare has become STAGING for a logical bank (R126). -/
def State.staged (s : State) (b : Bank) (l : Logical) : State := { s.setRole b .staging with
  store := { (s.setRole b .staging).store with
    staging := some { bank := b, target := l, filling := false, written := 0 } } }

theorem openStaging_eq (b : Bank) (l : Logical) (n : Nat) (s : State) :
    openStaging b l n s = endDone (some b) (BitVec.ofNat 16 n) 0 noImage (s.staged b l) := rfl

section
variable {s : State} {l : Logical}

theorem beginChoice_clean {b : Bank} (h : s.lowestOf .spareClean b) :
    beginChoice l s = openStaging b l 0 (s.setEngine .running .none) := by
  unfold beginChoice; rw [chooseSpare_clean h]

theorem beginChoice_dirty {b : Bank} (h : s.noBank .spareClean) (k : s.lowestOf .spareDirty b) :
    beginChoice l s = eraseSpare b (s.setEngine .running .none) := by
  unfold beginChoice; rw [chooseSpare_dirty h k]

theorem beginChoice_draining {b : Bank} (h : s.noBank .spareClean) (k : s.noBank .spareDirty)
    (hb : (s.store.roles.get b).role = .spareDraining) :
    beginChoice l s = (s.setEngine .waiting .draining).withFlight fun f => { f with stage := .draining } := by
  unfold beginChoice
  rw [chooseSpare_none h k, if_pos ((anyDraining_iff _).2 ⟨b, hb⟩)]

theorem beginChoice_noSpare (h : s.noBank .spareClean) (k : s.noBank .spareDirty) (hd : s.noBank .spareDraining) :
    beginChoice l s = endFailed .noSpare none 0 s := by
  have hnone : ¬anyDraining s.store.roles = true := fun hany => by
    obtain ⟨b, hb⟩ := (anyDraining_iff _).1 hany
    exact hd b hb
  unfold beginChoice
  rw [chooseSpare_none h k, if_neg hnone]

variable {f : InFlight} {v : Byte} (hf : s.store.inFlight = some f) (hbody : f.entry.body = .stageBank v)
  (hv : v.toNat = l.val)
include hf hbody hv

theorem stepBegin_choice (hst : f.stage = .fresh) (hg : s.store.staging = none) : stepBegin s = beginChoice l s := by
  unfold stepBegin
  rw [freshBody_of hf hst, hbody]
  dsimp only
  rw [logicalOf_eq hv, hg]
  rfl

theorem stepChooseAgain_choice (hst : f.stage = .draining) : stepChooseAgain s = beginChoice l s := by
  unfold stepChooseAgain
  rw [hf]
  dsimp only
  rw [hst, hbody]
  dsimp only
  rw [logicalOf_eq hv]

end

/-- Settles O45: the row and the waiting BEGIN make one choice, and each outcome of the choice is one branch. -/
theorem beginStagesASpare : Obligations.BeginStagesASpare := by
  intro s f v l c hr hf hbody hv hg ho hc
  have hchoice : exec c s = .next (beginChoice l s) := by
    rcases hc with ⟨rfl, hst⟩ | ⟨rfl, hst⟩
    · rw [← stepBegin_choice hf hbody hv hst hg]; exact occur_released hr
    · rw [← stepChooseAgain_choice hf hbody hv hst]; exact occur_released hr
  refine ⟨fun b hb => ?_, fun b hclean hb hl _ _ _ => ?_, fun b hclean hb hl => ?_, fun b hclean hdirty hb => ?_⟩
  · have hside := endSide_endDone (some b) 0 0 noImage ((s.setEngine .running .none).staged b l)
    refine ⟨_, hchoice, ?_⟩
    rw [beginChoice_clean hb, openStaging_eq]
    exact ⟨endDone_completes_beside (some b) 0 0 noImage ⟨rfl, rfl, rfl⟩ hf ho,
      State.onlyRole.of_roles (fun c => setRole_roles (s.setEngine .running .none) b c .staging) rfl hside.rest.roles,
      hside.rest.storeMap, (storeSide_endDone _ _ _ _ _).array, hside.rest.staging⟩
  · obtain ⟨⟨hpres, herases⟩, i, d, hstore⟩ := eraseSpare_erases (s := s.setEngine .running .none) b hf hl
    refine ⟨_, hchoice, ?_⟩
    rw [beginChoice_dirty hclean hb]
    refine ⟨⟨hpres.from rfl rfl rfl, herases⟩, ?_, ?_, ?_, ?_, (storeSide_eraseSpare _ _).array⟩ <;> rw [hstore]
    · rfl
    · rfl
    · exact hg
    · rfl
  · obtain ⟨hhalts, hrest⟩ := eraseSpare_halts (s := s.setEngine .running .none) b hf hl ho
    refine ⟨_, hchoice, ?_⟩
    rw [beginChoice_dirty hclean hb]
    exact ⟨hhalts, hrest.roles, hrest.staging.trans hg, hrest.storeMap, hrest.journal, (storeSide_eraseSpare _ _).array⟩
  · rw [hchoice, beginChoice_draining hclean hdirty hb, State.withFlight]
    simp only [setEngine_store, hf]
    rfl

end Sys2Proof.Machine
end

section
/-! SUPPORT. The commands that use the staging bank, and ABANDON, SCRUB, READGLYPH and CHECK, from their start (R105, R107,
R110, R111, R114, R117, R120, R128 to R130, R132 to R135, R139, R144, R145). -/

namespace Sys2Proof.Machine

/-! ## ABANDON, SCRUB, READGLYPH and CHECK -/

theorem stepAbandon_eq {s : State} {f : InFlight} {g : Staging} (hs : s.started f .abandon)
    (hg : s.store.staging = some g) : stepAbandon s =
      endDone (some g.bank) 0 0 noImage (closeStaging (if g.filling then .spareDirty else .spareClean) s) := by
  obtain ⟨-, hf, hst, hbody⟩ := hs
  unfold stepAbandon
  rw [freshBody_of hf hst, hbody]
  dsimp only
  rw [hg]

/-- Closing the staging leaves the command in flight. -/
theorem closeStaging_inFlight (r : Role) (s : State) : (closeStaging r s).store.inFlight = s.store.inFlight := by
  obtain ⟨v, h⟩ := closeStaging_store r s
  rw [h]

/-- The staging has closed in a state whose store has gone on only with queues. -/
theorem closeStaging_closes {s t : State} {g : Staging} {r : Role} (hg : s.store.staging = some g)
    (ht : (closeStaging r s).store.SameRest t.store) :
    t.store.staging = none ∧ s.onlyRole t g.bank r ∧ t.store.storeMap = s.store.storeMap ∧
      t.store.journal = s.store.journal := by
  have hrole := (onlyRole_closeStaging r hg).of_roles (s := s) rfl ht.roles
  obtain ⟨v, h⟩ := closeStaging_store r s
  rw [h] at ht
  exact ⟨ht.staging, hrole, ht.storeMap, ht.journal⟩

section
variable {s : State} {f : InFlight} (hs : s.started f .scrub)
include hs

theorem stepScrub_none (h : s.noBank .spareDirty) : stepScrub s = endDone none 0 0 noImage s := by
  obtain ⟨-, hf, hst, hbody⟩ := hs
  unfold stepScrub
  rw [freshBody_of hf hst, hbody]
  dsimp only
  rw [lowestWith_none h]

theorem stepScrub_erases {b : Bank} (h : s.lowestOf .spareDirty b) : stepScrub s = eraseSpare b s := by
  obtain ⟨-, hf, hst, hbody⟩ := hs
  unfold stepScrub
  rw [freshBody_of hf hst, hbody]
  dsimp only
  rw [lowestWith_eq h]

end

/-- The command in flight presents a read: of the store the command's stage and the request put off change. -/
theorem readPresented {s : State} {f : InFlight} (hf : s.store.inFlight = some f) (g : InFlight → InFlight) (u : ArrUnit) :
    s.presents (storeRequest (.read u) (s.withFlight g)) (.read u) ∧
      (storeRequest (.read u) (s.withFlight g)).store =
        { s.store with inFlight := some (g f), deferred := s.putsOff (.read u) } ∧
      (storeRequest (.read u) (s.withFlight g)).array = s.array := by
  refine ⟨(presents_storeRequest _ (s.withFlight g)).from rfl rfl rfl, ?_, (storeSide_storeRequest _ _).array⟩
  rw [storeRequest_read_store, withFlight_store, hf]
  rfl

/-- Settles O47, command by command. -/
theorem abandonScrubAndReadback : Obligations.AbandonScrubAndReadback := by
  refine ⟨fun s f g hs hg ho => ?_, fun s f hs hdirty ho => ?_, fun s f b hs hb hl _ _ _ => ?_,
    fun s f b hs hb hl ho => ?_, fun s f code l hs hl => ?_, fun s f v l hs hv => ?_⟩
  · obtain ⟨hr, hf, -⟩ := id hs
    have hside := endSide_endDone (some g.bank) 0 0 noImage
      (closeStaging (if g.filling then .spareDirty else .spareClean) s)
    obtain ⟨hnone, hrole, hmap, -⟩ := closeStaging_closes hg hside.rest
    refine ⟨stepAbandon s, occur_released hr, ?_⟩
    rw [stepAbandon_eq hs hg]
    exact ⟨endDone_completes_beside _ _ _ _ (queuesKept_closeStaging _ s) ((closeStaging_inFlight _ s).trans hf) ho,
      hnone, hrole, hmap, ((storeSide_closeStaging _ s).trans (storeSide_endDone _ _ _ _ _)).array⟩
  · obtain ⟨hr, hf, -⟩ := id hs
    have hside := endSide_endDone none 0 0 noImage s
    refine ⟨stepScrub s, occur_released hr, ?_⟩
    rw [stepScrub_none hs hdirty]
    exact ⟨endDone_completes _ _ _ _ hf ho, hside.rest.roles, hside.rest.staging, (storeSide_endDone _ _ _ _ _).array⟩
  · obtain ⟨hr, hf, -⟩ := id hs
    obtain ⟨herases, i, d, hstore⟩ := eraseSpare_erases b hf hl
    refine ⟨stepScrub s, occur_released hr, ?_⟩
    rw [stepScrub_erases hs hb]
    exact ⟨herases, by rw [hstore], by rw [hstore], (storeSide_eraseSpare _ _).array⟩
  · obtain ⟨hr, hf, -⟩ := id hs
    obtain ⟨hhalts, hrest⟩ := eraseSpare_halts b hf hl ho
    refine ⟨stepScrub s, occur_released hr, ?_⟩
    rw [stepScrub_erases hs hb]
    exact ⟨hhalts, hrest.roles, hrest.staging, hrest.journal, (storeSide_eraseSpare _ _).array⟩
  · obtain ⟨hr, hf, hst, hbody⟩ := hs
    have hlt : code.toNat / 64 < 14 := hl ▸ l.isLt
    have hread : stepReadglyph s = storeRequest (.read (.glyph (s.store.storeMap.get l) (code.toNat % 64)))
        (s.withFlight fun f => { f with stage := .reading (s.store.storeMap.get l) }) := by
      obtain rfl : (⟨code.toNat / 64, hlt⟩ : Logical) = l := Fin.ext hl.symm
      unfold stepReadglyph
      rw [freshBody_of hf hst, hbody]
      dsimp only
      rw [dif_pos hlt]
    exact ⟨stepReadglyph s, occur_released hr, by rw [hread]; exact readPresented hf _ _⟩
  · obtain ⟨hr, hf, hst, hbody⟩ := hs
    have hread : stepCheck s = storeRequest (.read (.glyph (s.store.storeMap.get l) 0))
        (s.withFlight fun f => { f with stage := .summing (s.store.storeMap.get l) 0 0 }) := by
      unfold stepCheck
      rw [freshBody_of hf hst, hbody]
      dsimp only
      rw [logicalOf_eq hv]
    exact ⟨stepCheck s, occur_released hr, by rw [hread]; exact readPresented hf _ _⟩

/-! ## The checks that fail -/

theorem occur_to {g : State → State} {s t : State} (hr : s.released) (h : g s = t) : occur g s = .next t :=
  (occur_released hr).trans (congrArg _ h)

/-- A started command that fails its checks ends there, with nothing changed before its end (R120). -/
theorem failsCheck_eq {s : State} {c : Instr} {f : InFlight} {e : ErrCode} (hr : s.released)
    (hf : s.store.inFlight = some f) (hst : f.stage = .fresh) (h : s.FailsCheck c f.entry.body e) :
    exec c s = .next (endFailed e none 0 s) := by
  have hfresh := freshBody_of hf hst
  generalize f.entry.body = body at h hfresh
  cases h with
  | unknown =>
    refine occur_to hr ?_
    unfold stepBadKind; rw [hfresh]
  | beginLogical v hv =>
    refine occur_to hr ?_
    unfold stepBegin; rw [hfresh]; dsimp only; rw [logicalOf_none hv]
  | beginBusy v hv hg =>
    have hl : logicalOf v = some ⟨v.toNat, by omega⟩ := logicalOf_eq rfl
    refine occur_to hr ?_
    unfold stepBegin; rw [hfresh]; dsimp only; rw [hl]; dsimp only; rw [if_pos hg]
  | beginNoSpare v hv hg hb =>
    have hl : logicalOf v = some ⟨v.toNat, by omega⟩ := logicalOf_eq rfl
    refine occur_to hr ?_
    unfold stepBegin; rw [hfresh]; dsimp only; rw [hl]; dsimp only
    rw [hg, if_neg (by decide), beginChoice_noSpare (fun b => (hb b).1) (fun b => (hb b).2.1) fun b => (hb b).2.2]
  | cloneNone skip hg =>
    refine occur_to hr ?_
    unfold stepClone; rw [hfresh]; dsimp only; rw [hg]
  | cloneLate skip g hg hfill =>
    refine occur_to hr ?_
    unfold stepClone; rw [hfresh]; dsimp only; rw [hg]; dsimp only; rw [if_pos hfill]
  | programIndex i image hi =>
    refine occur_to hr ?_
    unfold stepProgram; rw [hfresh]; dsimp only; rw [if_pos hi]
  | programNone i image hi hg =>
    refine occur_to hr ?_
    unfold stepProgram; rw [hfresh]; dsimp only; rw [if_neg (by omega), hg]
  | programWritten i image g hi hg hw =>
    refine occur_to hr ?_
    unfold stepProgram; rw [hfresh]; dsimp only; rw [if_neg (by omega), hg]; dsimp only; rw [if_pos hw]
  | commitNone hg =>
    refine occur_to hr ?_
    unfold stepCommit; rw [hfresh]; dsimp only; rw [hg]
  | abandonNone hg =>
    refine occur_to hr ?_
    unfold stepAbandon; rw [hfresh]; dsimp only; rw [hg]
  | badCode code hc =>
    refine occur_to hr ?_
    unfold stepReadglyph; rw [hfresh]; dsimp only; rw [dif_neg (by omega)]
  | checkLogical v hv =>
    refine occur_to hr ?_
    unfold stepCheck; rw [hfresh]; dsimp only; rw [logicalOf_none hv]

end Sys2Proof.Machine
end

section
/-! SUPPORT. CLONE, PROGRAM and COMMIT from their start, and the map write in general: the slot or the area to erase that it
begins with, and its failure (R105, R110, R111, R114, R127 to R130, R139, R144 to R146). -/

namespace Sys2Proof.Machine

/-! ## Images and indices -/

theorem firstSet_eq (l : List Byte) : firstSet l = pulsedPlaces l := by
  unfold firstSet differing pulsedPlaces
  refine List.filter_congr fun k hk => ?_
  rw [List.mem_range] at hk
  simp [byteAt, List.getD, hk, eq_comm]

/-- The raw bytes of an image are the image inverted (R105). -/
theorem rawImage_eq {image : List Byte} (h : image.length = 16) : rawImage image = image.map fun v => ~~~v := by
  refine List.ext_getElem (by simp [rawImage, h]) fun k hk _ => ?_
  have hk' : k < image.length := by simpa [rawImage, h] using hk
  simp [rawImage, byteAt, List.getD, hk']

/-- The bytes to pulse for an image are those in which it has a dot (R105, R110). -/
theorem pulsedPlaces_rawImage (image : List Byte) :
    pulsedPlaces (rawImage image) = (List.range 16).filter fun k => decide (byteAt image k ≠ 0) := by
  have hlen : (rawImage image).length = 16 := by simp [rawImage]
  have hinv : ∀ v : Byte, ~~~v = 0xFF ↔ v = 0 := by decide
  unfold pulsedPlaces
  rw [hlen]
  refine List.filter_congr fun k hk => ?_
  rw [List.mem_range] at hk
  have hbyte : byteAt (rawImage image) k = ~~~(byteAt image k) := by
    rw [byteAt, List.getD_eq_getElem _ _ (by omega)]
    simp [rawImage]
  rw [hbyte]
  simp only [ne_eq, hinv]

/-- The next index is the first from `i` on that the mask does not skip (R128). -/
theorem nextUnskipped_eq_some {skip : BitVec 64} {i k : Nat} (hk : k < 64) (hi : i ≤ k) (h : skip.getLsbD k = false)
    (hj : ∀ j, i ≤ j → j < k → skip.getLsbD j = true) : nextUnskipped skip i = some k := by
  unfold nextUnskipped
  rw [List.find?_range_eq_some]
  refine ⟨by simp [hi, h], List.mem_range.2 hk, fun j hjk => ?_⟩
  by_cases hij : i ≤ j
  · simp [hj j hij hjk]
  · simp [hij]

theorem nextUnskipped_eq_none {skip : BitVec 64} {i : Nat} (h : ∀ k, i ≤ k → k < 64 → skip.getLsbD k = true) :
    nextUnskipped skip i = none := by
  unfold nextUnskipped
  rw [List.find?_range_eq_none]
  intro k hk
  by_cases hi : i ≤ k
  · simp [h k hi hk]
  · simp [hi]

/-! ## CLONE and PROGRAM -/

section
variable {s : State} {f : InFlight} {g : Staging} {i total : Nat} (hf : s.store.inFlight = some f)
  (hg : s.store.staging = some g)
include hf hg

theorem cloneFrom_next {k : Nat} (h : nextUnskipped f.skip i = some k) : cloneFrom i total s =
    storeRequest (.read (.glyph (s.store.storeMap.get g.target) k))
      (s.withFlight fun f => { f with stage := .cloning k total, prog := none }) := by
  unfold cloneFrom
  rw [hf, hg]
  dsimp only
  rw [h]

theorem cloneFrom_last (h : nextUnskipped f.skip i = none) :
    cloneFrom i total s = endDone (some g.bank) (BitVec.ofNat 16 total) 0 noImage s := by
  unfold cloneFrom
  rw [hf, hg]
  dsimp only
  rw [h]

theorem programDone_eq (n : Nat) :
    programDone n s = endDone (some g.bank) (BitVec.ofNat 16 n) 0 noImage (joinWritten f.index s) := by
  unfold programDone
  rw [hf]
  dsimp only
  rw [State.stagingBank, hg]
  rfl

end

theorem skip_of_body {f : InFlight} {skip : BitVec 64} (h : f.entry.body = .clone skip) : f.skip = skip := by
  unfold InFlight.skip; rw [h]

theorem index_of_body {f : InFlight} {i : Byte} {image : List Byte} (h : f.entry.body = .program i image) :
    f.index = i.toNat := by
  unfold InFlight.index; rw [h]

/-- The staging record with STATE FILLING. -/
theorem startFilling_staging {s : State} {g : Staging} (h : s.store.staging = some g) :
    (startFilling s).store.staging = some { g with filling := true } := by
  rw [startFilling, h]; rfl

theorem joinWritten_staging {s : State} {g : Staging} (i : Nat) (h : s.store.staging = some g) :
    (joinWritten i s).store.staging = some { g with written := g.written ||| (1#64 <<< i) } := by
  rw [joinWritten, h]; rfl

/-- A blank image is done with no pulse; any other begins a program operation (R110). -/
theorem writeGlyph_blank {b : Bank} {i : Nat} {raw : List Byte} (h : pulsedPlaces raw = []) (k : State → State) (s : State) :
    writeGlyph b i raw k s = k s := by
  rw [writeGlyph, firstSet_eq, if_pos h]

theorem writeGlyph_lit {b : Bank} {i : Nat} {raw : List Byte} (h : pulsedPlaces raw ≠ []) (k : State → State) (s : State) :
    writeGlyph b i raw k s = startProg (.glyph b i) raw 0 s := by
  rw [writeGlyph, firstSet_eq, if_neg h]

section
variable {s : State} {f : InFlight} {g : Staging} (hg : s.store.staging = some g)
include hg

theorem stepClone_eq {skip : BitVec 64} (hs : s.started f (.clone skip)) (hfill : g.filling = false) :
    stepClone s = cloneFrom 0 0 (startFilling s) := by
  obtain ⟨-, hf, hst, hbody⟩ := hs
  unfold stepClone
  rw [freshBody_of hf hst, hbody]
  dsimp only
  rw [hg]
  dsimp only
  rw [hfill, if_neg (by decide)]

/-- The state in which PROGRAM writes its glyph. -/
def State.programBegun (s : State) : State := (startFilling s).withFlight fun f => { f with stage := .programming }

theorem stepProgram_eq {i : Byte} {image : List Byte} (hs : s.started f (.program i image)) (hi : i.toNat ≤ 63)
    (hw : g.written.getLsbD i.toNat = false) :
    stepProgram s = writeGlyph g.bank i.toNat (rawImage image) (programDone 0) s.programBegun := by
  obtain ⟨-, hf, hst, hbody⟩ := hs
  unfold stepProgram
  rw [freshBody_of hf hst, hbody]
  dsimp only
  rw [if_neg (by omega), hg]
  dsimp only
  rw [hw, if_neg (by decide)]
  rfl

/-- The state in which COMMIT begins its map write. -/
def State.commitBegun (s : State) : State := s.withFlight fun f => { f with stage := .committing }

/-- The store map with the target's bank exchanged, which COMMIT writes (R130). -/
abbrev State.committedMap (s : State) (g : Staging) : Vector Bank 14 :=
  s.store.storeMap.set g.target.val g.bank g.target.isLt

theorem stepCommit_eq (hs : s.started f .commit) :
    stepCommit s = startMapWrite (s.committedMap g) s.store.journal.retiredMask s.commitBegun := by
  obtain ⟨-, hf, hst, hbody⟩ := hs
  unfold stepCommit
  rw [freshBody_of hf hst, hbody]
  dsimp only
  rw [hg]
  rfl

end

/-! ## The map write -/

section
variable {s : State} {f : InFlight} (h : s.store.inFlight = some f)
include h

theorem mapFails_committing (hst : f.stage = .committing) (d : Word16) :
    mapFails d s = endFailed .mapWriteFailed s.stagingBank d s := by
  unfold mapFails
  rw [h]
  dsimp only
  rw [hst]

theorem mapFails_retiring {b : Bank} {cause : Byte} (hst : f.stage = .retiring b cause) (d : Word16) :
    mapFails d s = endFailed .eraseFailed (some b) (word16 1 cause) s := by
  unfold mapFails
  rw [h]
  dsimp only
  rw [hst]
  rfl

/-- A map write's failure reaches the ends of commands alone. -/
theorem endSide_mapFails (d : Word16) : EndSide s (mapFails d s) := by
  unfold mapFails
  rw [h]
  dsimp only
  split <;> exact endSide_endFailed _ _ _ _

/-- With LOWV# high the choice of a slot changes, of the store, the command in flight and the request put off. -/
theorem chooseSlot_store (m : MapOp) (hl : s.part.lowv = false) :
    ∃ i d, (chooseSlot m s).store = { s.store with inFlight := i, deferred := d } := by
  cases hn : s.store.journal.next with
  | some n =>
    obtain ⟨-, -, k, -, hstore⟩ := startSlot_counts m s.store.journal.active n hl h
    rw [chooseSlot_next m hn]
    exact ⟨_, _, hstore⟩
  | none =>
    obtain ⟨-, i, hstore⟩ := chooseSlot_erases m hn hl h
    exact ⟨i, _, hstore⟩

/-- The choice of a slot leaves the banks, the staging, the maps and the journal, with LOWV# asserted too. -/
theorem chooseSlot_sameRest (m : MapOp) (hfills : ¬f.fills) : s.store.SameRest (chooseSlot m s).store := by
  cases hl : s.part.lowv with
  | false =>
    obtain ⟨i, d, hstore⟩ := chooseSlot_store h m hl
    rw [hstore]
    exact ⟨rfl, rfl, rfl, rfl, rfl, rfl, rfl, rfl, rfl⟩
  | true =>
    obtain ⟨f', hcut, -, hstage, hslot⟩ := chooseSlot_suppliedOut hl h m
    refine hcut.sameRest ?_ hslot
    unfold InFlight.fills at *
    rw [hstage]
    exact hfills

end

/-- The map write that a command begins, at the state's generation (R144). -/
def State.mapOpOf (s : State) (map : Vector Bank 14) (mask : Word16) : MapOp :=
  { stage := .body, area := .a, slot := 0, second := false, generation := s.store.journal.generation + 1, map := map
    mask := mask }

section
variable {s : State} (map : Vector Bank 14) (mask : Word16)

theorem startMapWrite_spent (h : s.store.journal.generation = 0xFFFFFF) : startMapWrite map mask s = mapFails 0xFFFF s := by
  rw [startMapWrite, if_pos h]

theorem startMapWrite_chooses (h : s.store.journal.generation ≠ 0xFFFFFF) :
    startMapWrite map mask s = chooseSlot (s.mapOpOf map mask) s := by
  rw [startMapWrite, if_neg h]; rfl

/-- A map write that begins leaves the banks, the staging, the maps and the journal as they are. -/
theorem startMapWrite_sameRest {f : InFlight} (h : s.store.inFlight = some f) (hfills : ¬f.fills) :
    s.store.SameRest (startMapWrite map mask s).store := by
  by_cases hgen : s.store.journal.generation = 0xFFFFFF
  · rw [startMapWrite_spent map mask hgen]
    exact (endSide_mapFails h _).rest
  · rw [startMapWrite_chooses map mask hgen]
    exact chooseSlot_sameRest h _ hfills

end

/-! ## The obligation -/

theorem not_fills {f : InFlight} (hc : ∀ i total, f.stage ≠ .cloning i total) (hp : f.stage ≠ .programming) : ¬f.fills := by
  rintro (⟨i, total, h⟩ | h)
  · exact hc i total h
  · exact hp h

/-- The bank that a command on the staging bank concerns (R123). -/
theorem concernedBank_staging {s : State} {g : Staging} {stage : CmdStage} (hg : s.store.staging = some g)
    (h : (∃ i total, stage = .cloning i total) ∨ stage = .programming ∨ stage = .committing) :
    s.concernedBank stage = some g.bank := by
  have hbank : s.stagingBank = some g.bank := congrArg (Option.map Staging.bank) hg
  rcases h with ⟨i, total, rfl⟩ | rfl | rfl <;> exact hbank

/-- Settles O46, command by command: the branches of the first choice, with LOWV# high and asserted. -/
theorem stagingCommandsBeginTheirWork : Obligations.StagingCommandsBeginTheirWork := by
  refine ⟨fun s f skip g hs hg hfill ho => ?_, fun s f i image g hs hi hlen hg hw ho => ?_, fun s f g hs hg ho => ?_⟩
  · obtain ⟨hr, hf, -, hbody⟩ := id hs
    have hf' : (startFilling s).store.inFlight = some f := hf
    have hg' := startFilling_staging hg
    have hclone : exec .cmdClone s = .next (cloneFrom 0 0 (startFilling s)) :=
      (occur_released hr).trans (congrArg _ (stepClone_eq hg hs hfill))
    refine ⟨fun k hk hskip hbefore => ?_, fun hall => ?_⟩
    · have hnext : nextUnskipped f.skip 0 = some k := by
        rw [skip_of_body hbody]
        exact nextUnskipped_eq_some hk (Nat.zero_le k) hskip fun j _ => hbefore j
      obtain ⟨hpres, hstore, -⟩ := readPresented hf' (fun f => { f with stage := .cloning k 0, prog := none })
        (.glyph (s.store.storeMap.get g.target) k)
      refine ⟨_, hclone, ?_⟩
      rw [cloneFrom_next hf' hg' hnext]
      refine ⟨hpres.from rfl rfl rfl, ?_, ?_, ?_⟩
      · exact congrArg Store.inFlight hstore
      · exact (congrArg Store.staging hstore).trans hg'
      · exact (congrArg Store.results hstore).trans rfl
    · have hnone : nextUnskipped f.skip 0 = none := by
        rw [skip_of_body hbody]
        exact nextUnskipped_eq_none fun k _ => hall k
      have hside := endSide_endDone (some g.bank) 0 0 noImage (startFilling s)
      refine ⟨_, hclone, ?_⟩
      rw [cloneFrom_last hf' hg' hnone]
      exact ⟨endDone_completes_beside _ _ _ _ ⟨rfl, rfl, rfl⟩ hf' ho, hside.rest.staging.trans hg',
        (storeSide_endDone _ _ _ _ _).array⟩
  · obtain ⟨hr, hf, -, hbody⟩ := id hs
    have hf' : s.programBegun.store.inFlight = some { f with stage := .programming } :=
      withFlight_inFlight (s := startFilling s) _ hf
    have hg' : s.programBegun.store.staging = some { g with filling := true } := startFilling_staging hg
    have hprogram : exec .cmdProgram s = .next
        (writeGlyph g.bank i.toNat (rawImage image) (programDone 0) s.programBegun) :=
      (occur_released hr).trans (congrArg _ (stepProgram_eq hg hs hi hw))
    rw [hprogram]
    dsimp only
    rw [← pulsedPlaces_rawImage, ← rawImage_eq hlen]
    refine ⟨fun hblank => ⟨_, rfl, ?_⟩, fun hlit hl => ?_, fun hlit hl => ⟨_, rfl, ?_⟩⟩
    · have hindex : InFlight.index { f with stage := .programming } = i.toNat := index_of_body hbody
      have hside := endSide_endDone (some g.bank) 0 0 noImage (joinWritten i.toNat s.programBegun)
      have hdone := endDone_completes_beside (u := joinWritten i.toNat s.programBegun) (some g.bank) 0 0 noImage
        ⟨rfl, rfl, rfl⟩ hf' ho
      rw [writeGlyph_blank hblank, programDone_eq hf' hg', hindex]
      exact ⟨hdone,
        hside.rest.staging.trans (joinWritten_staging _ hg'), (storeSide_endDone _ _ _ _ _).array, hside.arrPort⟩
    · obtain ⟨hpres, -, n, hcount, hstore⟩ :=
        startProg_counts (.glyph g.bank i.toNat) (rawImage image) (k := 0) (by decide) (s := s.programBegun) hl hf'
      rw [writeGlyph_lit hlit]
      exact ⟨_, n, rfl, hpres.from rfl rfl rfl, hcount, congrArg Store.inFlight hstore,
        (congrArg Store.staging hstore).trans hg', (storeSide_startProg _ _ _ _).array⟩
    · have hcut := startProg_suppliedOut (s := s.programBegun) hl hf' (.glyph g.bank i.toNat) (rawImage image) (k := 0)
        (by decide)
      obtain ⟨hnone, hrole⟩ := hcut.closes (.inr rfl) hg'
      have hhalts := hcut.halts_supplyLow (f := f) ho rfl (by simp)
      rw [concernedBank_staging hg' (.inr (.inl rfl))] at hhalts
      rw [writeGlyph_lit hlit]
      exact ⟨hhalts, hnone, hrole.of_roles rfl rfl, (storeSide_startProg _ _ _ _).array⟩
  · obtain ⟨hr, hf, -, hbody⟩ := id hs
    have hf' : s.commitBegun.store.inFlight = some { f with stage := .committing } := withFlight_inFlight _ hf
    have hbank : s.commitBegun.stagingBank = some g.bank := congrArg (Option.map Staging.bank) hg
    have hrest := startMapWrite_sameRest (s := s.commitBegun) (s.committedMap g) s.store.journal.retiredMask hf'
      (not_fills (by simp) (by simp))
    refine ⟨_, (occur_released hr).trans (congrArg _ (stepCommit_eq hg hs)), hrest.storeMap, hrest.roles, hrest.staging,
      hrest.journal, (storeSide_startMapWrite _ _ _).array, fun n hgen hl hn herase => ?_, fun hgen hl hn => ?_,
      fun hgen hl => ?_, fun hgen => ?_⟩
    · obtain ⟨hpres, -, k, hcount, hstore⟩ := startSlot_counts (s := s.commitBegun)
        (s.commitBegun.mapOpOf (s.committedMap g) s.store.journal.retiredMask) s.store.journal.active n hl hf'
      rw [startMapWrite_chooses (s := s.commitBegun) _ _ hgen, chooseSlot_next (s := s.commitBegun) _ hn, herase]
      exact ⟨hpres.from rfl rfl rfl, (congrArg Store.results hstore).trans rfl, _, congrArg Store.inFlight hstore, rfl,
        rfl, rfl, hcount⟩
    · obtain ⟨⟨hpres, k, hcount, hflight⟩, i, hstore⟩ := chooseSlot_erases (s := s.commitBegun)
        (s.commitBegun.mapOpOf (s.committedMap g) s.store.journal.retiredMask) hn hl hf'
      rw [startMapWrite_chooses (s := s.commitBegun) _ _ hgen]
      exact ⟨(congrArg Store.results hstore).trans rfl, hpres.from rfl rfl rfl, k, hcount, hflight⟩
    · obtain ⟨f', hcut, hentry, hstage, -⟩ := chooseSlot_suppliedOut (s := s.commitBegun) hl hf'
        (s.commitBegun.mapOpOf (s.committedMap g) s.store.journal.retiredMask)
      rw [startMapWrite_chooses (s := s.commitBegun) _ _ hgen]
      have hhalts := hcut.of_withFlight.halts_supplyLow ho hentry (by rw [hstage]; simp)
      rwa [concernedBank_staging hg (.inr (.inr hstage))] at hhalts
    · have hhalts := endFailed_halts_beside (s := s) .mapWriteFailed (some g.bank) 0xFFFF (u := s.commitBegun)
        ⟨rfl, rfl, rfl⟩ hf' ho
      rw [startMapWrite_spent (s := s.commitBegun) _ _ hgen, mapFails_committing hf' rfl, hbank]
      exact ⟨hhalts, (endSide_endFailed _ _ _ _).arrPort⟩

end Sys2Proof.Machine
end

section
/-! SUPPORT. The verify reads: how a program operation and an erase go on from the read that ends, with LOWV# high and asserted
(R105, R106, R108, R110 to R114, R129, R139). -/

namespace Sys2Proof.Machine

/-! ## A read of the command in flight completes -/

theorem queuesKept_portFree (s : State) : QueuesKept s s.portFree := ⟨rfl, rfl, rfl⟩

/-- A read of the command in flight is delivered on the free port, and the arbiter makes the next grant (R106, R108). -/
theorem exec_flightRead {s : State} {f : InFlight} {u : ArrUnit} (hr : s.released)
    (ha : s.arrPort.access = some (.store (.read u) false)) (hs : s.store.scan = none) (hf : s.store.inFlight = some f) :
    exec .arrayReadComplete s = .next (arrayGrant (flightRead f (s.rawBytes u) s.portFree)) :=
  occur_to hr (arrayReadComplete_flight ha hs hf)

/-- The delivery of a read moves no byte of the array. -/
theorem flightRead_array {s : State} {f : InFlight} (hs : s.store.scan = none) (hf : s.store.inFlight = some f)
    (raw : List Byte) : (arrayGrant (flightRead f raw s.portFree)).array = s.array := by
  have hread : storeReadDone raw s.portFree = flightRead f raw s.portFree := by
    unfold storeReadDone
    rw [show s.portFree.store.scan = none from hs, show s.portFree.store.inFlight = some f from hf]
  rw [arrayGrant_array, ← hread]
  exact (storeSide_storeReadDone raw s.portFree).array

/-- A grant that finds no request of the store engine leaves the store as it is. -/
theorem arrayGrant_noStore_store {s : State} (h : s.arrPort.storeWait = none) :
    (arrayGrant s).store = s.store ∧ (arrayGrant s).arrPort.storeWait = none := by
  refine ⟨?_, (arrayGrant_noStore h).1⟩
  rcases ha : s.arrPort.access with _ | acc
  · rcases hl : s.arrPort.loaderWait with _ | g
    · rw [arrayGrant_idle hl h]
    · rw [arrayGrant_loader ha hl]
  · rw [arrayGrant_busy (by rw [ha]; rfl)]

/-- What the end of a command and the grant after it keep of the store. -/
theorem endDone_grant_rest (p : Option Bank) (d c : Word16) (i : List Byte) (s : State) :
    s.store.SameRest (arrayGrant (endDone p d c i s)).store :=
  (endSide_endDone p d c i s).rest.trans (arrayGrant_rest _).1

/-! ## How a program operation ends -/

/-- The state in which the program operation of the command in flight is over. -/
def State.progEnded (s : State) : State := s.withFlight fun f => { f with prog := none }

theorem progEnded_inFlight {s : State} {f : InFlight} (h : s.store.inFlight = some f) :
    s.portFree.progEnded.store.inFlight = some { f with prog := none } :=
  withFlight_inFlight _ h

section
variable {f : InFlight} {p : ProgOp} (s : State)

theorem progDone_erase {e : EraseOp} (he : f.erase = some e) : progDone f p s = eraseProgDone e s.progEnded := by
  unfold progDone; rw [he]; rfl

theorem progDone_body {m : MapOp} (he : f.erase = none) (hm : f.mapw = some m) (hst : m.stage = .body) :
    progDone f p s = startMarker m p.pulses s.progEnded := by
  unfold progDone; rw [he, hm]; dsimp only; rw [if_pos hst]; rfl

theorem progDone_marker {m : MapOp} (he : f.erase = none) (hm : f.mapw = some m) (hst : m.stage = .marker) :
    progDone f p s = mapSucceeds m s.progEnded := by
  unfold progDone; rw [he, hm]; dsimp only; rw [if_neg (by rw [hst]; decide)]; rfl

theorem progDone_cloning {i total : Nat} (hp : f.plainProg p) (hst : f.stage = .cloning i total) :
    progDone f p s = cloneDone i total p.pulses s.progEnded := by
  obtain ⟨-, he, hm⟩ := hp
  unfold progDone; rw [he, hm]; dsimp only; rw [hst]; rfl

theorem progDone_programming (hp : f.plainProg p) (hst : f.stage = .programming) :
    progDone f p s = programDone p.pulses s.progEnded := by
  obtain ⟨-, he, hm⟩ := hp
  unfold progDone; rw [he, hm]; dsimp only; rw [hst]; rfl

end

/-- A verify read that finds the target ends the program operation. -/
theorem flightRead_target {f : InFlight} {p : ProgOp} {raw : List Byte} (hp : f.prog = some p)
    (hv : p.phase = .verifying) (h : raw = p.target) (s : State) : flightRead f raw s = progDone f p s := by
  rw [flightRead_verify hp hv, progVerified_done h]

/-- Lists of one length that differ do so at some place. -/
theorem differing_ne_nil {raw target : List Byte} (hlen : raw.length = target.length) (h : raw ≠ target) :
    differing raw target ≠ [] := by
  intro hnil
  refine h (List.ext_getElem hlen fun k hk hk' => ?_)
  have hall := List.filter_eq_nil_iff.1 hnil k (List.mem_range.2 hk')
  simpa [byteAt, List.getD, hk, hk'] using hall

@[simp] theorem rawBytes_length (s : State) (u : ArrUnit) : (s.rawBytes u).length = u.size := by
  simp [State.rawBytes, Memory.readBytes]

section
variable {f : InFlight} {p : ProgOp} {raw : List Byte} (hp : f.prog = some p) (hv : p.phase = .verifying)
  (h : differing raw p.target ≠ []) (s : State)
include hp hv h

/-- With bytes left and pulses left, the bytes left are pulsed again. -/
theorem flightRead_again (hk : p.pulses < 12) : flightRead f raw s = presentPulse (.pulse p.place)
    (s.withFlight fun f => { f with prog := some { p with set := differing raw p.target, phase := .pulsing } }) := by
  rw [flightRead_verify hp hv, progVerified]
  rw [if_neg h, if_pos hk]

/-- With bytes left after the twelfth pulse the limit is reached. -/
theorem flightRead_limit (hk : 12 ≤ p.pulses) : flightRead f raw s =
    s.withFlight fun f => { f with prog := some { p with set := differing raw p.target, phase := .limit } } := by
  rw [flightRead_verify hp hv, progVerified]
  rw [if_neg h, if_neg (by omega)]

end

/-- The slot that a cut spoils depends on the map write and the pulses of the program operation alone. -/
theorem spoiledSlot_of_pulses {f f' : InFlight} {p p' : ProgOp} (hp : f.prog = some p) (hp' : f'.prog = some p')
    (hk : p'.pulses = p.pulses) (hm : f'.mapw = f.mapw) : f'.spoiledSlot = f.spoiledSlot := by
  unfold InFlight.spoiledSlot
  rw [hp, hp', hm]
  rcases f.mapw with _ | m
  · rfl
  · dsimp only
    rw [hk]

/-! ## How an erase goes on -/

section
variable {f : InFlight} {e : EraseOp} {raw : List Byte} {n : Nat} (hp : f.prog = none) (he : f.erase = some e)
  (hv : e.stage = .verifying) (s : State)
include hp he hv

theorem flightRead_erase : flightRead f raw s = eraseVerified e raw s := by
  unfold flightRead
  rw [hp, he]
  dsimp only
  rw [if_pos hv]

/-- A bank that reads erased has its header programmed, with the count plus 1 (R112). -/
theorem flightRead_bankErased {b : Bank} (ht : e.target = .bank b) (h : raw = List.replicate n 0xFF) :
    flightRead f raw s = startProg (.header b) (headerBytes (nextCount (s.bankEntry b).count)) 0
      (s.withFlight fun f => { f with erase := some { e with stage := .header } }) := by
  rw [flightRead_erase hp he hv, eraseVerified, if_pos (by rw [h]; simp), ht]

/-- A map area that reads erased becomes the active area (R144). -/
theorem flightRead_areaErased {ar : Area} (ht : e.target = .area ar) (h : raw = List.replicate n 0xFF) :
    flightRead f raw s = areaErased ar s := by
  rw [flightRead_erase hp he hv, eraseVerified, if_pos (by rw [h]; simp), ht]

variable (h : ∃ v ∈ raw, v ≠ 0xFF)
include h

theorem flightRead_subPulse (hk : e.given < budgetOf e.pace) : flightRead f raw s = startSubPulse e s := by
  rw [flightRead_erase hp he hv, eraseVerified, if_neg (by simpa using h), if_pos hk]

theorem flightRead_spent (hk : budgetOf e.pace ≤ e.given) :
    flightRead f raw s = s.withFlight fun f => { f with erase := some { e with stage := .spent } } := by
  rw [flightRead_erase hp he hv, eraseVerified, if_neg (by simpa using h), if_neg (by omega)]

end

/-- A unit with an unerased byte reads so. -/
theorem rawBytes_whole_unerased {s : State} {u : EraseUnit} (h : ∃ k, k < u.size ∧ s.array.read (u.base + k) ≠ 0xFF) :
    ∃ v ∈ s.rawBytes (.whole u), v ≠ 0xFF := by
  obtain ⟨k, hk, hne⟩ := h
  refine ⟨_, ?_, hne⟩
  rw [State.rawBytes, Memory.readBytes, List.mem_map]
  exact ⟨k, List.mem_range.2 hk, rfl⟩

theorem bankBase_eq (b : Bank) : (EraseUnit.bank b).base = 1028 * b.val := Nat.mul_comm _ _

/-! ## The verify reads of LOWV# asserted -/

/-- The command in flight is ended by supply where its read would have had a pulse presented, and the grant follows. -/
theorem State.suppliedOut.ends_read {s t : State} {f f' : InFlight} (h : s.portFree.suppliedOut t f')
    (ho : s.svc.outstanding = none) (he : f'.entry = f.entry) (hst : f'.stage = f.stage)
    (hslot : f'.spoiledSlot = f.spoiledSlot) : s.endsBySupply (arrayGrant t) f :=
  ((h.of_kept (queuesKept_portFree s) (.refl _)).ends ho he hst hslot).grant

/-- Settles O39, by what the read has found, with LOWV# high and asserted. -/
theorem verifyReadsDecide : Obligations.VerifyReadsDecide := by
  refine ⟨fun s f p u g i image hr ha hs hf hp hv hst hbody hg ho hraw => ?_,
    fun s f p u hr hl ha hs hf hp hv hraw hlen hwait => ?_,
    fun s f p u hr hl ha hs hf hp hv hraw hlen hk ho => ?_,
    fun s f e hr hl ha hs hf hp he hv ho hfound => ?_,
    fun s f e b hr hl ha hs hf hp he hv ht hall => ?_,
    fun s f e hr hl ha hs hf hp he hv hwait hfound => ?_⟩
  · have harray := flightRead_array hs hf (s.rawBytes u)
    have hf' := progEnded_inFlight hf
    have hindex : InFlight.index { f with prog := none } = i.toNat := index_of_body hbody
    have hdone := endDone_completes_beside (u := joinWritten i.toNat s.portFree.progEnded) (some g.bank)
      (BitVec.ofNat 16 p.pulses) 0 noImage ⟨rfl, rfl, rfl⟩ hf' ho
    have hrest := endDone_grant_rest (some g.bank) (BitVec.ofNat 16 p.pulses) 0 noImage
      (joinWritten i.toNat s.portFree.progEnded)
    refine ⟨_, exec_flightRead hr ha hs hf, ?_⟩
    rw [flightRead_target hp.1 hv hraw, progDone_programming _ hp hst, programDone_eq hf' hg, hindex] at harray ⊢
    exact ⟨hdone.grant, hrest.staging.trans (joinWritten_staging _ hg), hrest.roles, harray⟩
  · have harray := flightRead_array hs hf (s.rawBytes u)
    have hne : differing (s.rawBytes u) p.target ≠ [] := differing_ne_nil (by rw [rawBytes_length, hlen]) hraw
    have hexec := exec_flightRead hr ha hs hf
    by_cases hk : p.pulses < 12
    · obtain ⟨hpres, n, hcount, hstore⟩ := presentPulse_pulse p.place
        (s := s.portFree.withFlight fun f =>
          { f with prog := some { p with set := differing (s.rawBytes u) p.target, phase := .pulsing } })
        hl (withFlight_inFlight _ hf) rfl
      rw [flightRead_again hp hv hne _ hk, arrayGrant_presentPulse _ (by exact hl)] at hexec harray
      exact ⟨_, n, hexec, hne, fun _ => ⟨hpres.from rfl rfl rfl, hcount, congrArg Store.inFlight hstore⟩,
        fun h => absurd hk (by omega), harray, (congrArg Store.results hstore).trans rfl⟩
    · have hk : 12 ≤ p.pulses := by omega
      obtain ⟨hstore, hnone⟩ := arrayGrant_noStore_store (s := s.portFree.withFlight fun f =>
        { f with prog := some { p with set := differing (s.rawBytes u) p.target, phase := .limit } }) hwait
      rw [flightRead_limit hp hv hne _ hk] at hexec harray
      exact ⟨_, 0, hexec, hne, fun h => absurd hk (by omega), fun _ =>
        ⟨(congrArg Store.inFlight hstore).trans (withFlight_inFlight _ hf), hnone⟩, harray,
        (congrArg Store.results hstore).trans rfl⟩
  · have harray := flightRead_array hs hf (s.rawBytes u)
    have hne : differing (s.rawBytes u) p.target ≠ [] := differing_ne_nil (by rw [rawBytes_length, hlen]) hraw
    have hcut := presentPulse_suppliedOut (s := s.portFree.withFlight fun f =>
      { f with prog := some { p with set := differing (s.rawBytes u) p.target, phase := .pulsing } }) hl
      (withFlight_inFlight _ hf) (.pulse p.place)
    refine ⟨_, exec_flightRead hr ha hs hf, ?_⟩
    rw [flightRead_again hp hv hne _ hk] at harray ⊢
    exact ⟨hcut.of_withFlight.ends_read ho rfl rfl (spoiledSlot_of_pulses hp rfl rfl rfl), harray⟩
  · have harray := flightRead_array hs hf (s.rawBytes (.whole e.target))
    have hslot : f.spoiledSlot = none := spoiledSlot_of_prog_none hp
    refine ⟨_, exec_flightRead hr ha hs hf, ?_, harray⟩
    rcases hfound with ⟨⟨b, ht⟩, hall⟩ | ⟨hfound, hk⟩
    · have hcut := startProg_suppliedOut
        (s := s.portFree.withFlight fun f => { f with erase := some { e with stage := .header } }) hl
        (withFlight_inFlight _ hf) (.header b) (headerBytes (nextCount (s.bankEntry b).count)) (k := 0) (by decide)
      rw [flightRead_bankErased hp he hv _ ht ((rawBytes_whole_eq s _).2 hall)]
      exact hcut.of_withFlight.ends_read ho rfl rfl ((spoiledSlot_of_no_pulse rfl rfl).trans hslot.symm)
    · have hcut := startSubPulse_suppliedOut (s := s.portFree) hl hf e
      rw [flightRead_subPulse hp he hv _ (rawBytes_whole_unerased hfound) hk]
      exact hcut.ends_read ho rfl rfl ((spoiledSlot_of_prog_none hp).trans hslot.symm)
  · have harray := flightRead_array hs hf (s.rawBytes (.whole (.bank b)))
    have hexec := exec_flightRead hr ha hs hf
    have hraw := (rawBytes_whole_eq s (.bank b)).2 fun k hk => by rw [bankBase_eq]; exact hall k hk
    obtain ⟨hpres, hgrant, n, hcount, hstore⟩ := startProg_counts (k := 0)
      (s := s.portFree.withFlight fun f => { f with erase := some { e with stage := .header } })
      (.header b) (headerBytes (nextCount (s.portFree.bankEntry b).count)) (by decide) hl (withFlight_inFlight _ hf)
    have hheader := headerBytes_eq (nextCount (s.portFree.bankEntry b).count)
    rw [flightRead_bankErased hp he hv _ ht hraw, hgrant, hheader] at hexec harray
    rw [hheader] at hpres hcount hstore
    exact ⟨_, n, hexec, hpres.from rfl rfl rfl, hcount, congrArg Store.inFlight hstore,
      (congrArg Store.roles hstore).trans rfl, harray⟩
  · have harray := flightRead_array hs hf (s.rawBytes (.whole e.target))
    have hexec := exec_flightRead hr ha hs hf
    have hraw := rawBytes_whole_unerased hfound
    by_cases hk : e.given < budgetOf e.pace
    · obtain ⟨hpres, hgrant, n, hcount, hstore⟩ := startSubPulse_counts (s := s.portFree) e hl hf
      rw [flightRead_subPulse hp he hv _ hraw hk, hgrant] at hexec harray
      exact ⟨_, n, hexec, fun _ => ⟨hpres, hcount, congrArg Store.inFlight hstore⟩,
        fun h => absurd (show budgetOf e.pace ≤ e.given from h) (by omega), (congrArg Store.roles hstore).trans rfl,
        (congrArg Store.results hstore).trans rfl, harray⟩
    · obtain ⟨hstore, -⟩ := arrayGrant_noStore_store
        (s := s.portFree.withFlight fun f => { f with erase := some { e with stage := .spent } }) hwait
      rw [flightRead_spent hp he hv _ hraw (by omega)] at hexec harray
      exact ⟨_, 0, hexec, fun h => absurd h hk,
        fun _ => (congrArg Store.inFlight hstore).trans (withFlight_inFlight _ hf),
        (congrArg Store.roles hstore).trans rfl, (congrArg Store.results hstore).trans rfl, harray⟩

end Sys2Proof.Machine
end

section
/-! SUPPORT. How CLONE, an erase and a map write go on from their verify reads to their end (R104, R105, R110 to R114, R125,
R126, R128, R133, R139, R141, R144, R145). -/

namespace Sys2Proof.Machine

/-! ## CLONE -/

/-- A glyph of CLONE is done: its index has joined WRITTEN, and the next index is read or the command completes. -/
theorem cloneDone_goesOn {s : State} {f : InFlight} {g : Staging} {skip : BitVec 64} {i total n : Nat}
    (hf : s.store.inFlight = some f) (hbody : f.entry.body = .clone skip) (hg : s.store.staging = some g)
    (ho : s.svc.outstanding = none) : s.cloneGoesOn (arrayGrant (cloneDone i total n s)) f g skip i (total + n) := by
  have hf' : (joinWritten i s).store.inFlight = some f := hf
  have hg' := joinWritten_staging i hg
  have hskip := skip_of_body hbody
  have hside : StoreSide s (arrayGrant (cloneDone i total n s)) :=
    (storeSide_cloneDone i total n s).trans (storeSide_arrayGrant _)
  have hstaging : ((arrayGrant (cloneDone i total n s)).store.staging) = (joinWritten i s).store.staging := by
    unfold cloneDone
    cases hnext : nextUnskipped f.skip (i + 1) with
    | some k =>
      rw [cloneFrom_next hf' hg' hnext, arrayGrant_storeRequest]
      exact (storeRequest_kept _ _).2.2.staging
    | none =>
      rw [cloneFrom_last hf' hg' hnext]
      exact (endDone_grant_rest _ _ _ _ _).staging
  refine ⟨hstaging.trans hg', hside.array, fun k hik hk hfree hbefore => ?_, fun hall => ?_⟩
  · have hnext : nextUnskipped f.skip (i + 1) = some k := by
      rw [hskip]
      exact nextUnskipped_eq_some hk hik hfree hbefore
    obtain ⟨hpres, hstore, -⟩ := readPresented hf' (fun f => { f with stage := .cloning k (total + n), prog := none })
      (.glyph (s.store.storeMap.get g.target) k)
    unfold cloneDone
    rw [cloneFrom_next hf' hg' hnext, arrayGrant_storeRequest]
    exact ⟨hpres.from rfl rfl rfl, congrArg Store.inFlight hstore, (congrArg Store.results hstore).trans rfl⟩
  · have hnext : nextUnskipped f.skip (i + 1) = none := by
      rw [hskip]
      exact nextUnskipped_eq_none fun k hik hk => hall k hik hk
    unfold cloneDone
    rw [cloneFrom_last hf' hg' hnext]
    exact (endDone_completes_beside _ _ _ _ ⟨rfl, rfl, rfl⟩ hf' ho).grant

/-- The read of a source glyph is delivered to CLONE. -/
theorem flightRead_cloning {f : InFlight} {i total : Nat} (hp : f.prog = none) (he : f.erase = none)
    (hst : f.stage = .cloning i total) (raw : List Byte) (s : State) :
    flightRead f raw s = cloneProgram i total raw s := by
  unfold flightRead
  rw [hp, he, hst]

theorem cloneProgram_eq {s : State} {g : Staging} (i total : Nat) (raw : List Byte) (hg : s.store.staging = some g) :
    cloneProgram i total raw s = writeGlyph g.bank i raw (cloneDone i total 0) s := by
  unfold cloneProgram
  rw [hg]

theorem rawBytes_glyph (s : State) (b : Bank) (n : Nat) :
    s.rawBytes (.glyph b n) = (List.range 16).map fun k => s.array.read (1028 * b.val + 16 * n + k) := by
  show s.array.readBytes ((EraseUnit.bank b).base + 16 * n) 16 = _
  rw [bankBase_eq]
  rfl

/-- A glyph has no dots exactly when its raw bytes are all FFH (R105). -/
theorem pulsedPlaces_eq_nil {raw : List Byte} {n : Nat} (hlen : raw.length = n) :
    pulsedPlaces raw = [] ↔ raw = List.replicate n 0xFF := by
  rw [pulsedPlaces, List.filter_eq_nil_iff, List.eq_replicate_iff]
  refine ⟨fun h => ⟨hlen, fun v hv => ?_⟩, fun ⟨_, h⟩ k hk => ?_⟩
  · obtain ⟨k, hk, rfl⟩ := List.getElem_of_mem hv
    have := h k (List.mem_range.2 hk)
    simpa [byteAt, List.getD, hk] using this
  · rw [List.mem_range] at hk
    have := h raw[k] (List.getElem_mem hk)
    simp [byteAt, List.getD, hk, this]

/-- Settles O33, by what the read has found. -/
theorem cloneGoesOnGlyphByGlyph : Obligations.CloneGoesOnGlyphByGlyph := by
  refine ⟨fun s f skip g i total n b hr ha hs hf hp he hm hst hbody hg ho => ?_,
    fun s f p u skip g i total hr ha hs hf hp hv hst hbody hg ho hraw => ?_⟩
  · have hexec := exec_flightRead hr ha hs hf
    have harray := flightRead_array hs hf (s.rawBytes (.glyph b n))
    have hnil := pulsedPlaces_eq_nil (rawBytes_length s (.glyph b n))
    rw [flightRead_cloning hp he hst, cloneProgram_eq (s := s.portFree) i total _ hg] at hexec harray
    dsimp only
    rw [← rawBytes_glyph]
    refine ⟨fun hblank => ⟨_, hexec, ?_⟩, fun hlit hl => ?_, fun hlit hl => ⟨_, hexec, ?_⟩⟩
    · rw [writeGlyph_blank (hnil.2 hblank)]
      exact cloneDone_goesOn (s := s.portFree) hf hbody hg ho
    · obtain ⟨hpres, hgrant, k, hcount, hstore⟩ := startProg_counts (s := s.portFree) (.glyph g.bank i)
        (s.rawBytes (.glyph b n)) (k := 0) (by decide) hl hf
      rw [writeGlyph_lit (mt hnil.1 hlit), hgrant] at hexec harray
      exact ⟨_, k, hexec, hpres, hcount, congrArg Store.inFlight hstore, (congrArg Store.staging hstore).trans hg,
        (congrArg Store.results hstore).trans rfl, harray⟩
    · have hcut := (startProg_suppliedOut (s := s.portFree) hl hf (.glyph g.bank i) (s.rawBytes (.glyph b n)) (k := 0)
        (by decide)).of_kept (queuesKept_portFree s) (.refl _)
      have hhalts := hcut.halts_supplyLow (f := f) ho rfl (by simp [hst])
      rw [concernedBank_staging hg (.inl ⟨i, total, hst⟩)] at hhalts
      obtain ⟨hnone, hrole⟩ := hcut.closes (.inl ⟨i, total, hst⟩) hg
      have hsame := (arrayGrant_rest (startProg (.glyph g.bank i) (s.rawBytes (.glyph b n)) 0 s.portFree)).1
      rw [writeGlyph_lit (mt hnil.1 hlit)] at harray ⊢
      exact ⟨hhalts.grant, hsame.staging.trans hnone, hrole.of_roles rfl hsame.roles, harray⟩
  · have hf' := progEnded_inFlight hf
    have hgoes := cloneDone_goesOn (i := i) (total := total) (n := p.pulses) (s := s.portFree.progEnded) hf' hbody hg ho
    refine ⟨_, exec_flightRead hr ha hs hf, ?_⟩
    rw [flightRead_target hp.1 hv hraw, progDone_cloning _ hp hst]
    exact hgoes

end Sys2Proof.Machine
end

section
/-! SUPPORT. How an erase and a map write go on from their verify reads to their end (R104, R110 to R114, R126, R133, R139, R141,
R144, R145). -/

namespace Sys2Proof.Machine

/-! ## The erase -/

section
variable {e : EraseOp} {k : Nat} (h : e.stage = .prewrite k) (s : State)
include h

theorem eraseProgDone_next (hk : k + 1 < e.target.prewrites) : eraseProgDone e s = startPrewrite e.target (k + 1) s := by
  unfold eraseProgDone; rw [h]; dsimp only; rw [if_pos hk]

theorem eraseProgDone_last (hk : e.target.prewrites ≤ k + 1) :
    eraseProgDone e s = startSubPulse { e with pace := s.ctl.pace, given := 0 } s := by
  unfold eraseProgDone; rw [h]; dsimp only; rw [if_neg (by omega)]; rfl

end

/-- A prewrite goes on with its next unit, and after its last the sub-pulse phase begins, with LOWV# high (R111, R113). -/
theorem eraseProgDone_goesOn {s : State} {f : InFlight} {e : EraseOp} {k : Nat} (hl : s.part.lowv = false)
    (hf : s.store.inFlight = some f) (h : e.stage = .prewrite k) : ∃ n,
      let t := arrayGrant (eraseProgDone e s)
      (k + 1 < e.target.prewrites → s.presents t (.pulse (prewriteTarget e.target (k + 1))) ∧
        t.countsGrant (.pulse (prewriteTarget e.target (k + 1))) 0 n ∧
        t.store.inFlight = some { f with
          erase := some { target := e.target, stage := .prewrite (k + 1), pace := 0, given := 0 }
          prog := some (prewriteOp e.target (k + 1) n) }) ∧
      (e.target.prewrites ≤ k + 1 → s.presents t (.subPulse e.target) ∧ t.countsGrant (.subPulse e.target) 0 n ∧
        t.store.inFlight = some { f with
          erase := some { e with stage := .subPulsing, pace := s.ctl.pace, given := n } }) ∧
      ∃ i d, t.store = { s.store with inFlight := i, deferred := d } := by
  by_cases hk : k + 1 < e.target.prewrites
  · obtain ⟨hpres, hgrant, n, hcount, hstore⟩ := startPrewrite_counts e.target (k + 1) hl hf
    refine ⟨n, ?_⟩
    rw [eraseProgDone_next h _ hk, hgrant]
    exact ⟨fun _ => ⟨hpres, hcount, by rw [hstore]⟩, fun hlast => absurd hk (by omega), _, _, hstore⟩
  · obtain ⟨hpres, hgrant, n, hcount, hstore⟩ := startSubPulse_counts { e with pace := s.ctl.pace, given := 0 } hl hf
    refine ⟨n, ?_⟩
    rw [eraseProgDone_last h _ (by omega), hgrant]
    exact ⟨fun hnext => absurd hnext hk, fun _ => ⟨hpres, hcount, by rw [hstore]⟩, _, _, hstore⟩

theorem eraseProgDone_header {e : EraseOp} {b : Bank} (h : e.stage = .header) (ht : e.target = .bank b) (s : State) :
    eraseProgDone e s = bankErased b e s := by
  unfold eraseProgDone; rw [h]; dsimp only; rw [ht]

section
variable {s : State} {f : InFlight} (b : Bank) (e : EraseOp) (hf : s.store.inFlight = some f)
include hf

theorem bankErased_scrub (hbody : f.entry.body = .scrub) : bankErased b e s =
    endDone (some b) (BitVec.ofNat 16 e.given) 0 noImage ((countErase b s).setRole b .spareClean) := by
  unfold bankErased
  rw [hf]
  dsimp only
  rw [hbody]

theorem bankErased_begin {v : Byte} {l : Logical} (hbody : f.entry.body = .stageBank v) (hv : v.toNat = l.val) :
    bankErased b e s = endDone (some b) (BitVec.ofNat 16 e.given) 0 noImage ((countErase b s).staged b l) := by
  unfold bankErased
  rw [hf]
  dsimp only
  rw [hbody]
  dsimp only
  rw [logicalOf_eq hv]
  rfl

end

/-- A bank whose erase is done takes its new role with the count plus 1, and its estimated mark clears; no other bank changes
(R112, R126, R133). -/
theorem countErase_roles (s : State) (b x : Bank) (r : Role) : ((countErase b s).setRole b r).store.roles.get x =
    if x = b then { role := r, count := nextCount (s.store.roles.get b).count, estimated := false }
    else s.store.roles.get x := by
  have hcount : (countErase b s).store.roles.get x = if x = b then
      { s.store.roles.get b with count := nextCount (s.store.roles.get b).count, estimated := false }
      else s.store.roles.get x := vector_get_set _ _ _ _
  rw [setRole_roles, hcount]
  by_cases h : x = b
  · simp [h]
  · simp [h]

theorem queuesKept_setRole (b : Bank) (r : Role) (s : State) : QueuesKept s (s.setRole b r) := ⟨rfl, rfl, rfl⟩

theorem queuesKept_countErase (b : Bank) (s : State) : QueuesKept s (countErase b s) := ⟨rfl, rfl, rfl⟩

theorem queuesKept_staged (b : Bank) (l : Logical) (s : State) : QueuesKept s (s.staged b l) := ⟨rfl, rfl, rfl⟩

theorem queuesKept_withFlight (g : InFlight → InFlight) (s : State) : QueuesKept s (s.withFlight g) := ⟨rfl, rfl, rfl⟩

theorem queuesKept_progEnded (s : State) : QueuesKept s s.portFree.progEnded :=
  (queuesKept_portFree s).trans (queuesKept_withFlight _ _)

/-- A completion says of the command its entry alone. -/
theorem State.completes.of_entry {s t : State} {f f' : InFlight} {p : Option Bank} {d c : Word16} {i : List Byte}
    (h : s.completes t f' p d c i) (he : f'.entry = f.entry) : s.completes t f p d c i := by
  unfold State.completes State.pushed at *
  rwa [he] at h

/-- The end of an erase: the command completes with its sub-pulses in DETAIL and the bank takes its role, in a state `w` that
has the queues of `s` and the banks of `u` with the erase counted (R112, R126, R133). -/
theorem erased_completes {s u w : State} {f f' : InFlight} {b : Bank} {r : Role} (n : Nat) (hk : QueuesKept s w)
    (hf : w.store.inFlight = some f') (he : f'.entry = f.entry) (ho : s.svc.outstanding = none)
    (hu : u.store.roles = s.store.roles) (hroles : w.store.roles = ((countErase b u).setRole b r).store.roles) :
    let t := arrayGrant (endDone (some b) (BitVec.ofNat 16 n) 0 noImage w)
    s.completes t f (some b) (BitVec.ofNat 16 n) 0 (List.replicate 16 0) ∧
      t.store.roles.get b = { role := r, count := nextCount (s.store.roles.get b).count, estimated := false } ∧
      (∀ x : Bank, x ≠ b → t.store.roles.get x = s.store.roles.get x) ∧ t.store.staging = w.store.staging := by
  intro t
  have hrest : w.store.SameRest t.store := endDone_grant_rest _ _ _ _ w
  refine ⟨(endDone_completes_beside _ _ _ _ hk hf ho).grant.of_entry he, ?_, fun x hx => ?_, hrest.staging⟩
  · rw [hrest.roles, hroles, countErase_roles, if_pos rfl, hu]
  · rw [hrest.roles, hroles, countErase_roles, if_neg hx, hu]

/-- A map area that has been erased becomes the active one, and the record goes to its slot 0 (R144). -/
def State.areaTaken (s : State) (ar : Area) : State :=
  { s with store := { s.store with journal := { s.store.journal with active := ar, next := some 0 } } }

theorem areaErased_eq {s : State} {f : InFlight} {m : MapOp} (ar : Area) (hf : s.store.inFlight = some f)
    (hm : f.mapw = some m) : areaErased ar s = startSlot m ar 0 (s.areaTaken ar) := by
  unfold areaErased
  rw [hf]
  dsimp only [Option.bind]
  rw [hm]
  rfl

/-! ## The marker -/

/-- With twelve pulses used already the operation has reached its limit (R110). -/
theorem startProg_limit (u : ArrUnit) (l : List Byte) {k : Nat} (hk : 12 ≤ k) (s : State) : startProg u l k s =
    s.withFlight fun f => { f with
      prog := some { place := u, target := l, set := pulsedPlaces l, pulses := k, phase := .limit } } := by
  rw [← firstSet_eq]
  unfold startProg
  dsimp only
  rw [if_pos hk]

/-- The marker is programmed with the pulses that the body left, or its limit is reached, with LOWV# high (R145). -/
theorem startMarker_goesOn {s : State} {f : InFlight} (m : MapOp) (k : Nat) (hl : s.part.lowv = false)
    (hf : s.store.inFlight = some f) (hwait : s.arrPort.storeWait = none) : ∃ n,
      let t := arrayGrant (startMarker m k s)
      let marker : Nat → ProgPhase → ProgOp := fun n ph => { place := .slot m.area m.slot.val, target := m.bytes 0
                                                             set := pulsedPlaces (m.bytes 0), pulses := n, phase := ph }
      (k < 12 → s.presents t (.pulse (.slot m.area m.slot.val)) ∧
        t.countsGrant (.pulse (.slot m.area m.slot.val)) k n ∧
        t.store.inFlight = some { f with mapw := some { m with stage := .marker }, prog := some (marker n .pulsing) }) ∧
      (12 ≤ k → t.store.inFlight = some { f with
          mapw := some { m with stage := .marker }, prog := some (marker k .limit) }) ∧
      ∃ i d, t.store = { s.store with inFlight := i, deferred := d } := by
  by_cases hk : k < 12
  · obtain ⟨hpres, hgrant, n, hcount, hstore⟩ := startMarker_counts m hk hl hf
    refine ⟨n, ?_⟩
    rw [hgrant]
    exact ⟨fun _ => ⟨hpres, hcount, by rw [hstore]⟩, fun h => absurd hk (by omega), _, _, hstore⟩
  · have hlimit : startMarker m k s = _ := startProg_limit (.slot m.area m.slot.val) (m.bytes 0) (by omega)
      (s.withFlight fun f => { f with mapw := some { m with stage := .marker } })
    have hflight := withFlight_inFlight (fun f => { f with prog := some (ProgOp.mk (.slot m.area m.slot.val) (m.bytes 0)
      (pulsedPlaces (m.bytes 0)) k .limit) }) (withFlight_inFlight (fun f => { f with mapw := some { m with stage := .marker } }) hf)
    refine ⟨0, ?_⟩
    rw [hlimit]
    obtain ⟨hstore, -⟩ := arrayGrant_noStore_store (s := State.withFlight (s.withFlight fun f =>
      { f with mapw := some { m with stage := .marker } }) fun f => { f with prog := some _ }) hwait
    exact ⟨fun h => absurd h hk, fun _ => (congrArg Store.inFlight hstore).trans hflight, _, _, hstore⟩

/-- The marker of a slot spoils the slot as the body did: with the pulses that the body used. -/
theorem spoiledSlot_marker {f f' : InFlight} {p p' : ProgOp} {m : MapOp} (hm : f.mapw = some m) (hst : m.stage = .body)
    (hp : f.prog = some p) (hm' : f'.mapw = some { m with stage := .marker }) (hp' : f'.prog = some p')
    (hk : p'.pulses = p.pulses) : f'.spoiledSlot = f.spoiledSlot := by
  unfold InFlight.spoiledSlot
  rw [hm, hp, hm', hp']
  dsimp only
  rw [hk, hst]
  simp

/-- Settles O41, by the operation whose verify read has ended. -/
theorem erasesAndMapWritesGoOn : Obligations.ErasesAndMapWritesGoOn := by
  refine ⟨fun s f p e u k hr hl ha hs hf hp hv he hst hraw => ?_,
    fun s f p e u k hr hl ha hs hf hp hv he hst hraw hm ho => ?_,
    fun s f p e u b hr ha hs hf hp hv he hst ht hraw ho => ?_,
    fun s f e ar m hr hl ha hs hf hp he hv ht hm hall => ?_,
    fun s f e ar m hr hl ha hs hf hp he hv ht hm ho hall => ?_,
    fun s f p m u hr hl ha hs hf hp he hm hv hst hraw hk ho => ?_,
    fun s f p m u hr hl ha hs hf hp he hm hv hst hraw hwait => ?_⟩
  · intro last
    have hlast : e.target.prewrites = last + 1 := by
      simp only [last]
      cases e.target <;> rfl
    clear_value last
    have hf' := progEnded_inFlight hf
    have hexec := exec_flightRead hr ha hs hf
    have harray := flightRead_array hs hf (s.rawBytes u)
    rw [flightRead_target hp hv hraw, progDone_erase _ he] at hexec harray
    obtain ⟨n, hnext, hsub, i, d, hstore⟩ := eraseProgDone_goesOn (s := s.portFree.progEnded) hl hf' hst
    refine ⟨_, n, hexec, fun hk => hnext (by omega), fun hk => hsub (by omega), ?_, ?_, ?_, harray⟩
    all_goals rw [hstore]; rfl
  · have hf' := progEnded_inFlight hf
    have harray := flightRead_array hs hf (s.rawBytes u)
    have hslot := spoiledSlot_of_areaErase hm
    refine ⟨_, exec_flightRead hr ha hs hf, ?_, harray⟩
    rw [flightRead_target hp hv hraw, progDone_erase _ he]
    by_cases hk : k + 1 < e.target.prewrites
    · have hcut := startPrewrite_suppliedOut (s := s.portFree.progEnded) hl hf' e.target (k + 1)
      rw [eraseProgDone_next hst _ hk]
      exact hcut.of_withFlight.ends_read ho rfl rfl (by rw [hslot]; exact spoiledSlot_of_areaErase hm)
    · have hcut := startSubPulse_suppliedOut (s := s.portFree.progEnded) hl hf'
        { e with pace := s.portFree.progEnded.ctl.pace, given := 0 }
      rw [eraseProgDone_last hst _ (by omega)]
      exact hcut.of_withFlight.ends_read ho rfl rfl (by rw [hslot]; exact spoiledSlot_of_areaErase hm)
  · have hf' := progEnded_inFlight hf
    have hexec := exec_flightRead hr ha hs hf
    have harray := flightRead_array hs hf (s.rawBytes u)
    rw [flightRead_target hp hv hraw, progDone_erase _ he, eraseProgDone_header hst ht] at hexec harray
    have hcounted := (queuesKept_progEnded s).trans (queuesKept_countErase b s.portFree.progEnded)
    have hroles : s.portFree.progEnded.store.roles = s.store.roles := rfl
    refine ⟨fun hbody => ⟨_, hexec, ?_⟩, fun v l hbody hv => ⟨_, hexec, ?_⟩⟩
    · obtain ⟨hdone, hrole, hothers, hstaging⟩ := erased_completes (f := f) e.given
        (hcounted.trans (queuesKept_setRole b .spareClean _)) hf' rfl ho hroles rfl
      rw [bankErased_scrub b e hf' hbody] at harray ⊢
      exact ⟨hdone, hrole, hothers, hstaging, harray⟩
    · obtain ⟨hdone, hrole, hothers, hstaging⟩ := erased_completes (f := f) (r := .staging) e.given
        (hcounted.trans (queuesKept_staged b l _)) hf' rfl ho hroles rfl
      rw [bankErased_begin b e hf' hbody hv] at harray ⊢
      exact ⟨hdone, hrole, hothers, hstaging, harray⟩
  · have hraw := (rawBytes_whole_eq s (.area ar)).2 hall
    have hexec := exec_flightRead hr ha hs hf
    have harray := flightRead_array hs hf (s.rawBytes (.whole (.area ar)))
    obtain ⟨hpres, hgrant, n, hcount, hstore⟩ := startSlot_counts (s := s.portFree.areaTaken ar) m ar 0 hl hf
    rw [flightRead_areaErased hp he hv _ ht hraw, areaErased_eq (s := s.portFree) ar hf hm, hgrant] at hexec harray
    exact ⟨_, n, hexec, hpres.from rfl rfl rfl, hcount, congrArg Store.inFlight hstore,
      (congrArg Store.journal hstore).trans rfl, (congrArg Store.storeMap hstore).trans rfl,
      (congrArg Store.roles hstore).trans rfl, (congrArg Store.staging hstore).trans rfl,
      (congrArg Store.results hstore).trans rfl, harray⟩
  · have hraw := (rawBytes_whole_eq s (.area ar)).2 hall
    have harray := flightRead_array hs hf (s.rawBytes (.whole (.area ar)))
    have hcut := startSlot_suppliedOut (s := (s.areaTaken ar).portFree) hl hf m ar 0
    refine ⟨_, exec_flightRead hr ha hs hf, harray, ?_⟩
    rw [flightRead_areaErased hp he hv _ ht hraw, areaErased_eq (s := s.portFree) ar hf hm]
    exact hcut.ends_read (s := s.areaTaken ar) ho rfl rfl
      ((spoiledSlot_of_no_pulse rfl rfl).trans (spoiledSlot_of_prog_none hp).symm)
  · have hf' := progEnded_inFlight hf
    have harray := flightRead_array hs hf (s.rawBytes u)
    have hcut := startMarker_suppliedOut (s := s.portFree.progEnded) hl hf' m hk
    refine ⟨_, exec_flightRead hr ha hs hf, ?_, harray⟩
    rw [flightRead_target hp hv hraw, progDone_body _ he hm hst]
    exact hcut.of_withFlight.ends_read ho rfl rfl (spoiledSlot_marker hm hst hp rfl rfl rfl)
  · have hf' := progEnded_inFlight hf
    have hexec := exec_flightRead hr ha hs hf
    have harray := flightRead_array hs hf (s.rawBytes u)
    rw [flightRead_target hp hv hraw, progDone_body _ he hm hst] at hexec harray
    obtain ⟨n, hnext, hlimit, i, d, hstore⟩ := startMarker_goesOn (s := s.portFree.progEnded) m p.pulses hl hf' hwait
    refine ⟨_, n, hexec, hnext, hlimit, ?_, ?_, ?_, ?_, ?_, harray⟩
    all_goals rw [hstore]; rfl

end Sys2Proof.Machine
end

section
/-! SUPPORT. The failures of program operations, erases and map writes at their pulse limit and their sub-pulse budget, and the
end of a retirement (R110 to R112, R123, R127 to R130, R136, R139, R144, R146, R148). -/

namespace Sys2Proof.Machine

/-! ## Failures of a command at another stage of its work -/

/-- A retirement that LOWV# ends keeps ERASE_FAILED (R127, R139). -/
theorem State.suppliedOut.halts_eraseFailed {s t : State} {f f' : InFlight} {b : Bank} {cause : Byte}
    (h : s.suppliedOut t f') (ho : s.svc.outstanding = none) (he : f'.entry = f.entry)
    (hst : f'.stage = .retiring b cause) : s.halts t f .eraseFailed (some b) (word16 1 cause) := by
  obtain ⟨herr, hdetail⟩ := supplyError_retiring hst
  have hfail := h.halts ho
  rw [herr, hdetail, hst] at hfail
  exact hfail.of_entry he

/-! ## Flags through the beginning of a map write -/

section
variable {s : State} (flag : Flag) (h : s.irq.isSet flag = true)
include h

theorem presentPulse_isSet (r : StoreReq) : (presentPulse r s).irq.isSet flag = true := by
  unfold presentPulse
  split
  · rcases hf : s.store.inFlight with _ | f
    · rw [cutBySupply, hf]; exact h
    · exact cutBySupply_isSet hf flag h
  · rw [storeRequest_irq]; exact h

theorem startProg_isSet (u : ArrUnit) (l : List Byte) (k : Nat) : (startProg u l k s).irq.isSet flag = true := by
  unfold startProg
  dsimp only
  split
  · exact h
  · exact presentPulse_isSet flag (s := s.withFlight _) h _

theorem chooseSlot_isSet (m : MapOp) : (chooseSlot m s).irq.isSet flag = true := by
  unfold chooseSlot
  split
  · exact startProg_isSet flag (s := s.withFlight _) h _ _ _
  · exact startProg_isSet flag (s := (s.withFlight _).withFlight _) h _ _ _

theorem startMapWrite_isSet (map : Vector Bank 14) (mask : Word16) {f : InFlight} (hf : s.store.inFlight = some f) :
    (startMapWrite map mask s).irq.isSet flag = true := by
  unfold startMapWrite
  split
  · exact (endSide_mapFails hf _).flags flag h
  · exact chooseSlot_isSet flag h _

end

/-! ## The failure of a slot, of an erase and of a bank -/

section
variable {m : MapOp} (s : State)

/-- The second slot that fails ends the map write (R146). -/
theorem slotFails_second (h : m.second = true) :
    slotFails m s = mapFails (word16 m.area.code (BitVec.ofNat 8 m.slot.val)) (passSlot m s) := by
  unfold slotFails; rw [h]; rfl

/-- After the first one further slot is tried (R146). -/
theorem slotFails_first (h : m.second = false) :
    slotFails m s = chooseSlot { m with second := true } (passSlot m s).progEnded := by
  unfold slotFails; rw [h]; rfl

theorem passSlot_eq : passSlot m s =
    { s with store := { s.store with journal := { s.store.journal with next := afterSlot m.slot } } } := by
  rw [passSlot, slotAfter_eq]

end

/-- The state in which the bank `b` has been retired and the retirement's map write is to begin (R127, R148). -/
def State.retirement (s : State) (b : Bank) (cause : Byte) : State :=
  (raise .retire (s.setRole b .retired)).withFlight fun f => { f with
    stage := .retiring b cause, prog := none, erase := none }

theorem eraseFails_bank {e : EraseOp} {b : Bank} (h : e.target = .bank b) (cause : Byte) (s : State) :
    eraseFails e cause s = startMapWrite s.store.storeMap (s.store.journal.retiredMask ||| (1#16 <<< b.val))
      (s.retirement b cause) := by
  unfold eraseFails; rw [h]; rfl

theorem eraseFails_area {e : EraseOp} {ar : Area} (h : e.target = .area ar) (cause : Byte) (s : State) :
    eraseFails e cause s = mapFails (word16 ar.code 0xFF) s := by
  unfold eraseFails; rw [h]; rfl

section
variable {s : State} {f : InFlight} (hr : s.released) (hf : s.store.inFlight = some f)
include hr hf

/-- The twelfth verify has left bytes of a program operation: its caller deals with the failure. -/
theorem exec_pulseLimit {p : ProgOp} (hp : f.prog = some p) (hl : p.phase = .limit) :
    exec .pulseLimitReached s = .next (progFails f s) := by
  refine occur_to hr ?_
  unfold pulseLimitReached
  rw [hf]
  dsimp only
  rw [hp]
  dsimp only
  rw [if_pos hl]

theorem exec_budgetSpent {e : EraseOp} (he : f.erase = some e) (hst : e.stage = .spent) :
    exec .subpulseBudgetSpent s = .next (eraseFails e 0xFF s) := by
  refine occur_to hr ?_
  have hop : s.eraseOp = some e := by rw [State.eraseOp, hf]; exact he
  unfold subpulseBudgetSpent
  rw [hop]
  dsimp only
  rw [if_pos hst]

/-- An erase fails at its budget, at a glyph of its prewrite or at its header, with the low byte of DETAIL that tells which
(R111, R112, R127). -/
theorem exec_eraseFails {c : Instr} {e : EraseOp} {cause : Byte} (he : f.erase = some e)
    (h : (c = .subpulseBudgetSpent ∧ e.stage = .spent ∧ cause = 0xFF) ∨
      (c = .pulseLimitReached ∧ (∃ p, f.prog = some p ∧ p.phase = .limit) ∧
        ((∃ k, e.stage = .prewrite k ∧ cause = BitVec.ofNat 8 k) ∨ (e.stage = .header ∧ cause = 64)))) :
    exec c s = .next (eraseFails e cause s) := by
  rcases h with ⟨rfl, hst, rfl⟩ | ⟨rfl, ⟨p, hp, hl⟩, hst⟩
  · exact exec_budgetSpent hr hf he hst
  · have hfails : progFails f s = eraseProgFails e s := by unfold progFails; rw [he]
    rw [exec_pulseLimit hr hf hp hl, hfails, eraseProgFails]
    rcases hst with ⟨k, hst, rfl⟩ | ⟨hst, rfl⟩ <;> rw [hst]

end

/-- A program operation of CLONE or PROGRAM fails at its limit: the staging closes and the command fails (R128, R129). -/
theorem progFails_fills {s : State} {f : InFlight} {p : ProgOp} {g : Staging} {i : Nat} (hp : f.plainProg p)
    (hg : s.store.staging = some g)
    (h : (∃ total, f.stage = .cloning i total) ∨
      (f.stage = .programming ∧ ∃ v image, f.entry.body = .program v image ∧ v.toNat = i)) :
    progFails f s = endFailed .programFailed (some g.bank) (BitVec.ofNat 16 i) (closeStaging .spareDirty s) := by
  obtain ⟨-, he, hm⟩ := hp
  have hbank : s.stagingBank = some g.bank := congrArg (Option.map Staging.bank) hg
  unfold progFails
  rw [he, hm]
  dsimp only
  rcases h with ⟨total, hst⟩ | ⟨hst, v, image, hbody, rfl⟩ <;> rw [hst] <;> dsimp only <;> rw [hbank]
  rw [index_of_body hbody]

theorem progFails_slot {s : State} {f : InFlight} {m : MapOp} (he : f.erase = none) (hm : f.mapw = some m) :
    progFails f s = slotFails m s := by
  unfold progFails
  rw [he, hm]

/-- The state in which a record has been written and the journal tells it. -/
def State.mapRecorded (s : State) (m : MapOp) : State :=
  { s with store := { s.store with journal := s.store.journal.written m } }

/-- A retirement ends with ERASE_FAILED when its record is written too (R127, R148). -/
theorem mapSucceeds_retiring {s : State} {f : InFlight} {b : Bank} {cause : Byte} (m : MapOp)
    (hf : s.store.inFlight = some f) (hst : f.stage = .retiring b cause) :
    mapSucceeds m s = endFailed .eraseFailed (some b) (word16 0 cause) (s.mapRecorded m) := by
  unfold mapSucceeds
  rw [hf]
  dsimp only
  rw [hst]
  rfl

/-! ## The beginning of a map write -/

/-- The state in which the map write `m` of the command `f` has presented the first pulse on slot `n` of the active area. -/
def State.triesSlot (s t : State) (f : InFlight) (m : MapOp) (n : Fin 8) : Prop :=
  s.presents t (.pulse (.slot s.store.journal.active n.val)) ∧ t.store.results = s.store.results ∧
    ∃ q, t.store.inFlight = some { f with
        prog := some q, erase := none
        mapw := some { m with stage := .body, area := s.store.journal.active, slot := n } } ∧
      q.place = .slot s.store.journal.active n.val ∧ q.phase = .pulsing ∧
      t.countsGrant (.pulse (.slot s.store.journal.active n.val)) 0 q.pulses ∧ q.target = m.bytes 0xFF

/-- What a presented request and a tried slot are depends on the state before only through these fields. -/
theorem State.triesSlot.from {s u t : State} {f : InFlight} {m : MapOp} {n : Fin 8} (h : u.triesSlot t f m n)
    (ha : u.arrPort = s.arrPort) (hr : u.rows.loader = s.rows.loader) (hd : u.store.deferred = s.store.deferred)
    (hactive : u.store.journal.active = s.store.journal.active) (hl : u.store.results = s.store.results) :
    s.triesSlot t f m n := by
  unfold State.triesSlot at *
  rw [hactive, hl] at h
  obtain ⟨hpres, hrest⟩ := h
  exact ⟨hpres.from ha hr hd, hrest⟩

theorem State.erasesArea.from {s u t : State} {f : InFlight} {m : MapOp} (h : u.erasesArea t f m)
    (ha : u.arrPort = s.arrPort) (hr : u.rows.loader = s.rows.loader) (hd : u.store.deferred = s.store.deferred)
    (hlatest : u.store.journal.latest = s.store.journal.latest) : s.erasesArea t f m := by
  unfold State.erasesArea Journal.spareArea at *
  rw [hlatest] at h
  obtain ⟨hpres, hrest⟩ := h
  exact ⟨hpres.from ha hr hd, hrest⟩

/-- A map write that finds a slot begins there with LOWV# high. -/
theorem chooseSlot_begins {s : State} {f : InFlight} (m : MapOp) {n : Fin 8} (hn : s.store.journal.next = some n)
    (hl : s.part.lowv = false) (hf : s.store.inFlight = some f) : s.triesSlot (chooseSlot m s) f m n := by
  obtain ⟨hpres, -, k, hcount, hstore⟩ := startSlot_counts m s.store.journal.active n hl hf
  rw [chooseSlot_next m hn]
  exact ⟨hpres, by rw [hstore], _, by rw [hstore], rfl, rfl, hcount, rfl⟩

theorem sameRest_withFlight (g : InFlight → InFlight) (s : State) : s.store.SameRest (s.withFlight g).store :=
  ⟨rfl, rfl, rfl, rfl, rfl, rfl, rfl, rfl, rfl⟩

/-- A slot that fails changes, of the banks, the staging, the maps and the journal, the next slot alone (R146). -/
theorem slotFails_sameRest {s : State} {f : InFlight} {m : MapOp} (hf : s.store.inFlight = some f) (hfills : ¬f.fills) :
    (passSlot m s).store.SameRest (slotFails m s).store := by
  cases h : m.second with
  | true =>
    rw [slotFails_second s h]
    exact (endSide_mapFails (s := passSlot m s) hf _).rest
  | false =>
    rw [slotFails_first s h]
    exact (sameRest_withFlight _ _).trans (chooseSlot_sameRest (withFlight_inFlight (s := passSlot m s) _ hf) _ hfills)

/-- A command that makes a map write fills no staging bank. -/
theorem not_fills_of_writesMap {f : InFlight} (h : f.writesMap) : ¬f.fills := by
  rcases h with h | ⟨b, cause, h⟩ <;> exact not_fills (by rw [h]; simp) (by rw [h]; simp)

/-- The map write of the command in flight fails: a COMMIT's, or a retirement's, which keeps ERASE_FAILED. -/
theorem mapFails_halts {s u : State} {f f' : InFlight} (d : Word16) (hk : QueuesKept s u)
    (hf : u.store.inFlight = some f') (he : f'.entry = f.entry) (hst : f'.stage = f.stage)
    (ho : s.svc.outstanding = none) :
    (f.stage = .committing → s.halts (mapFails d u) f .mapWriteFailed u.stagingBank d) ∧
      ∀ b cause, f.stage = .retiring b cause → s.halts (mapFails d u) f .eraseFailed (some b) (word16 1 cause) := by
  refine ⟨fun h => ?_, fun b cause h => ?_⟩
  · rw [mapFails_committing hf (hst.trans h)]
    exact (endFailed_halts_beside _ _ _ hk hf ho).of_entry he
  · rw [mapFails_retiring hf (hst.trans h)]
    exact (endFailed_halts_beside _ _ _ hk hf ho).of_entry he

/-- A map write that is ended by supply where it would begin on a slot or an area (R130, R139). -/
theorem chooseSlot_supply {s u : State} {f f' : InFlight} (m : MapOp) (hl : u.part.lowv = true)
    (hf : u.store.inFlight = some f') (hk : QueuesKept s u) (hg : u.store.staging = s.store.staging)
    (he : f'.entry = f.entry) (hst : f'.stage = f.stage) (ho : s.svc.outstanding = none) :
    (f.stage = .committing → s.halts (chooseSlot m u) f .supplyLow (s.store.staging.map Staging.bank) 0) ∧
      ∀ b cause, f.stage = .retiring b cause →
        s.halts (chooseSlot m u) f .eraseFailed (some b) (word16 1 cause) := by
  obtain ⟨g, hcut, hentry, hstage, -⟩ := chooseSlot_suppliedOut hl hf m
  have ho' : u.svc.outstanding = none := by rw [hk.svc]; exact ho
  refine ⟨fun h => ?_, fun b cause h => ?_⟩
  · have hcommit : g.stage = .committing := hstage.trans (hst.trans h)
    have hhalts := hcut.halts_supplyLow ho' (hentry.trans he) (by rw [hcommit]; simp)
    have hconc : u.concernedBank .committing = s.store.staging.map Staging.bank := congrArg (Option.map Staging.bank) hg
    rw [hcommit, hconc] at hhalts
    exact hhalts.of_queues hk
  · exact (hcut.halts_eraseFailed ho' (hentry.trans he) (hstage.trans (hst.trans h))).of_queues hk

/-- After the first slot that fails, one further slot is tried, or an area is erased for it (R146). -/
theorem slotFails_goesOn {s : State} {f : InFlight} {m : MapOp} (hf : s.store.inFlight = some f) (h : m.second = false)
    (hl : s.part.lowv = false) :
    (∀ n, afterSlot m.slot = some n →
      s.triesSlot (slotFails m s) { f with prog := none } { m with second := true } n) ∧
    (afterSlot m.slot = none → s.erasesArea (slotFails m s) { f with prog := none } { m with second := true }) := by
  have hf' : (passSlot m s).progEnded.store.inFlight = some { f with prog := none } :=
    withFlight_inFlight (s := passSlot m s) _ hf
  have hnext : (passSlot m s).progEnded.store.journal.next = afterSlot m.slot := by rw [passSlot_eq]; rfl
  rw [slotFails_first s h]
  refine ⟨fun n hn => ?_, fun hn => ?_⟩
  · exact (chooseSlot_begins { m with second := true } (hnext.trans hn) hl hf').from rfl rfl rfl rfl rfl
  · exact (chooseSlot_erases { m with second := true } (hnext.trans hn) hl hf').1.from rfl rfl rfl rfl

theorem retirement_onlyRole (s : State) (b : Bank) (cause : Byte) : s.onlyRole (s.retirement b cause) b .retired := by
  intro x
  rw [← setRole_roles]
  rfl

theorem retirement_isSet (s : State) (b : Bank) (cause : Byte) : (s.retirement b cause).irq.isSet .retire = true :=
  isSet_raise_self s.irq .retire

section
variable {s : State} {f : InFlight} {b : Bank} {cause : Byte} (map : Vector Bank 14) (mask : Word16)
  (hf : s.store.inFlight = some f)
include hf

theorem retirement_inFlight : (s.retirement b cause).store.inFlight =
    some { f with stage := .retiring b cause, prog := none, erase := none } :=
  withFlight_inFlight _ hf

/-- A retirement's map write begins in the next slot, or with the erase of an area (R127, R144). -/
theorem retirement_goesOn (hgen : s.store.journal.generation ≠ 0xFFFFFF) (hl : s.part.lowv = false) :
    (∀ n, s.store.journal.next = some n → s.triesSlot (startMapWrite map mask (s.retirement b cause))
      { f with stage := .retiring b cause, prog := none, erase := none } (s.mapOpOf map mask) n) ∧
    (s.store.journal.next = none → s.erasesArea (startMapWrite map mask (s.retirement b cause))
      { f with stage := .retiring b cause, prog := none, erase := none } (s.mapOpOf map mask)) := by
  have hu := retirement_inFlight (b := b) (cause := cause) hf
  rw [startMapWrite_chooses (s := s.retirement b cause) map mask hgen]
  refine ⟨fun n hn => ?_, fun hn => ?_⟩
  · exact (chooseSlot_begins (s := s.retirement b cause) ((s.retirement b cause).mapOpOf map mask) hn hl hu).from rfl rfl rfl rfl rfl
  · exact (chooseSlot_erases (s := s.retirement b cause) ((s.retirement b cause).mapOpOf map mask) hn hl hu).1.from rfl rfl rfl rfl

/-- A retirement whose record cannot be written ends with ERASE_FAILED at once (R127, R139, R144). -/
theorem retirement_halts (h : s.store.journal.generation = 0xFFFFFF ∨ s.part.lowv = true)
    (ho : s.svc.outstanding = none) : s.halts (startMapWrite map mask (s.retirement b cause)) f .eraseFailed (some b)
      (word16 1 cause) := by
  have hu := retirement_inFlight (b := b) (cause := cause) hf
  have hk : QueuesKept s (s.retirement b cause) := ⟨rfl, rfl, rfl⟩
  by_cases hgen : s.store.journal.generation = 0xFFFFFF
  · rw [startMapWrite_spent (s := s.retirement b cause) map mask hgen, mapFails_retiring hu rfl]
    exact (endFailed_halts_beside _ _ _ hk hu ho).of_entry rfl
  · obtain ⟨g, hcut, hentry, hstage, -⟩ := chooseSlot_suppliedOut (s := s.retirement b cause) (h.resolve_left hgen) hu
      ((s.retirement b cause).mapOpOf map mask)
    rw [startMapWrite_chooses (s := s.retirement b cause) map mask hgen]
    exact (hcut.halts_eraseFailed (f := f) ho hentry hstage).of_queues hk

end

/-- Settles O43, by the operation that has failed and what its caller does. -/
theorem limitsFailTheirOperations : Obligations.LimitsFailTheirOperations := by
  refine ⟨fun s f p g i hr hf hp hl hg ho h => ?_, fun s f p m hr hf hp he hm hl hst ho => ?_,
    fun s c f e b cause hr hf he ht hc => ?_, fun s c f e ar hr hf he ht ho hc => ?_,
    fun s f p m u b cause hr ha hs hf hp he hm hv hst hretire hraw ho => ?_⟩
  · have hside := endSide_endFailed .programFailed (some g.bank) (BitVec.ofNat 16 i) (closeStaging .spareDirty s)
    obtain ⟨hnone, hrole, hmap, hjournal⟩ := closeStaging_closes hg hside.rest
    refine ⟨_, exec_pulseLimit hr hf hp.1 hl, ?_⟩
    rw [progFails_fills hp hg h]
    exact ⟨endFailed_halts_beside _ _ _ (queuesKept_closeStaging _ s) ((closeStaging_inFlight _ s).trans hf) ho, hnone,
      hrole, hmap, hjournal, ((storeSide_closeStaging _ s).trans (storeSide_endFailed _ _ _ _)).array⟩
  · have hrest := slotFails_sameRest (m := m) hf (not_fills_of_writesMap hst)
    have hlast := mapFails_halts (s := s) (u := passSlot m s) (f := f) (word16 m.area.code (BitVec.ofNat 8 m.slot.val))
      ⟨rfl, rfl, rfl⟩ hf rfl rfl ho
    have hsupply (hlow : s.part.lowv = true) := chooseSlot_supply (s := s) (u := (passSlot m s).progEnded) (f := f)
      { m with second := true } hlow (withFlight_inFlight (s := passSlot m s) _ hf) ⟨rfl, rfl, rfl⟩ rfl rfl rfl ho
    rw [passSlot_eq] at hrest
    refine ⟨_, exec_pulseLimit hr hf hp hl, ?_⟩
    rw [progFails_slot he hm]
    refine ⟨hrest.storeMap, hrest.roles, hrest.staging, hrest.journal, (storeSide_slotFails m s).array,
      fun h hcommit => ?_, fun b cause h hretire => ?_, fun n h hlow hn => ?_,
      fun h hlow hn => (slotFails_goesOn hf h hlow).2 hn, fun h hlow hcommit => ?_, fun b cause h hlow hretire => ?_⟩
    · rw [slotFails_second s h]
      exact hlast.1 hcommit
    · rw [slotFails_second s h]
      exact hlast.2 b cause hretire
    · obtain ⟨hpres, -, htries⟩ := (slotFails_goesOn hf h hlow).1 n hn
      rw [he]
      exact ⟨hpres, htries⟩
    · rw [slotFails_first s h]
      exact (hsupply hlow).1 hcommit
    · rw [slotFails_first s h]
      exact (hsupply hlow).2 b cause hretire
  · have hu := retirement_inFlight (b := b) (cause := cause) hf
    have hrest := startMapWrite_sameRest s.store.storeMap (s.store.journal.retiredMask ||| (1#16 <<< b.val)) hu
      (not_fills (by simp) (by simp))
    have hflag := startMapWrite_isSet .retire (retirement_isSet s b cause) s.store.storeMap
      (s.store.journal.retiredMask ||| (1#16 <<< b.val)) hu
    have harray := (storeSide_eraseFails e cause s).array
    intro m
    refine ⟨_, exec_eraseFails hr hf he hc, ?_⟩
    rw [eraseFails_bank ht] at harray ⊢
    refine ⟨(retirement_onlyRole s b cause).of_roles rfl hrest.roles, hflag, hrest.storeMap,
      hrest.journal, harray, fun n hgen hlow hn => ?_, fun hgen hlow hn => ?_, fun hend ho => ?_⟩
    · exact (retirement_goesOn _ _ hf hgen hlow).1 n hn
    · exact (retirement_goesOn _ _ hf hgen hlow).2 hn
    · obtain ⟨⟨r, hpush, hout, herr, hphys, hdisc, hdetail, -⟩, hengine, -, hqueue, hnone, hhalt, -⟩ :=
        retirement_halts (b := b) (cause := cause) s.store.storeMap
          (s.store.journal.retiredMask ||| (1#16 <<< b.val)) hf hend ho
      exact ⟨r, hpush, hout, herr, hphys, hdetail, hdisc, hengine, hqueue, hnone, hhalt⟩
  · have hmap := mapFails_halts (s := s) (u := s) (f := f) (word16 ar.code 0xFF) (.refl s) hf rfl rfl ho
    have hrest := (endSide_mapFails hf (word16 ar.code 0xFF)).rest
    have hfails : ∃ cause, exec c s = .next (eraseFails e cause s) := by
      rcases hc with ⟨hc, hst⟩ | ⟨hc, hp, k, hst⟩
      · exact ⟨_, exec_eraseFails hr hf he (.inl ⟨hc, hst, rfl⟩)⟩
      · exact ⟨_, exec_eraseFails hr hf he (.inr ⟨hc, hp, .inl ⟨k, hst, rfl⟩⟩)⟩
    obtain ⟨cause, hfails⟩ := hfails
    rw [eraseFails_area ht] at hfails
    exact ⟨_, hfails, hrest.staging, hrest.roles, hrest.journal, hmap⟩
  · have hu := progEnded_inFlight hf
    have harray := flightRead_array hs hf (s.rawBytes u)
    have hside := (endSide_endFailed .eraseFailed (some b) (word16 0 cause) (s.portFree.progEnded.mapRecorded m)).rest
    have hhalts := endFailed_halts_beside (s := s) (u := s.portFree.progEnded.mapRecorded m) .eraseFailed (some b)
      (word16 0 cause) ⟨rfl, rfl, rfl⟩ hu ho
    have hrest := hside.trans (arrayGrant_rest _).1
    refine ⟨_, exec_flightRead hr ha hs hf, ?_⟩
    rw [flightRead_target hp hv hraw, progDone_marker _ he hm hst, mapSucceeds_retiring m hu hretire] at harray ⊢
    refine ⟨(hhalts.of_entry rfl).grant, ?_, hrest.storeMap, hrest.roles, hrest.staging, harray⟩
    rw [hrest.journal, State.mapRecorded, Journal.written, slotAfter_eq]
    rfl

end Sys2Proof.Machine
end

section
/-! SUPPORT. The loader's own commands, at each point where one ends: the result that the loader takes at its push, DONE or
FAILED (R114, R122 to R124, R126 to R128, R136, R139, R146, R160, R162). -/

namespace Sys2Proof.Machine

/-! ## The ends of the outstanding command -/

section
variable {s u : State} {f f' : InFlight} {m : SvcMark} (h : s.loaderAwaits f m) (hk : QueuesKept s u)
  (hf : u.store.inFlight = some f') (he : f'.entry = f.entry)
include h hk hf he

theorem endDone_loaderDone_beside (p : Option Bank) (d c : Word16) (i : List Byte) :
    s.loaderDone (endDone p d c i u) m :=
  (endDone_loaderDone p d c i (h.of_queues hk hf he)).of_queues hk

theorem endFailed_loaderFailed_beside (e : ErrCode) (p : Option Bank) (d : Word16) :
    s.loaderFailed (endFailed e p d u) e m :=
  (endFailed_loaderFailed e p d (h.of_queues hk hf he)).of_queues hk

/-- The map write of the loader's command fails, or that of a retirement in it, which keeps ERASE_FAILED. -/
theorem mapFails_loaderFailed (hst : f'.stage = f.stage) (d : Word16) :
    (f.stage = .committing → s.loaderFailed (mapFails d u) .mapWriteFailed m) ∧
      ∀ b cause, f.stage = .retiring b cause → s.loaderFailed (mapFails d u) .eraseFailed m := by
  refine ⟨fun hc => ?_, fun b cause hr => ?_⟩
  · rw [mapFails_committing hf (hst.trans hc)]
    exact endFailed_loaderFailed_beside h hk hf he _ _ _
  · rw [mapFails_retiring hf (hst.trans hr)]
    exact endFailed_loaderFailed_beside h hk hf he _ _ _

end

theorem queuesKept_commitChanges (g : Staging) (s : State) : QueuesKept s (commitChanges g s) := by
  refine ⟨?_, ?_, commitChanges_svc s g⟩ <;> rw [commitChanges_store]

theorem commitChanges_inFlight (g : Staging) (s : State) : (commitChanges g s).store.inFlight = s.store.inFlight := by
  rw [commitChanges_store]

/-- A program operation of CLONE or PROGRAM fails at its limit, whatever staging is open. -/
theorem progFails_closes {s : State} {f : InFlight} {p : ProgOp} (hp : f.plainProg p) :
    ∃ d, progFails f s = endFailed .programFailed s.stagingBank d (closeStaging .spareDirty s) := by
  obtain ⟨-, he, hm⟩ := hp
  unfold progFails
  rw [he, hm]
  dsimp only
  split <;> exact ⟨_, rfl⟩

/-- The retirement of the loader's spare whose record cannot be written. -/
theorem retirement_loaderFailed {s : State} {f : InFlight} {m : SvcMark} {b : Bank} {cause : Byte} (h : s.loaderAwaits f m)
    (map : Vector Bank 14) (mask : Word16) (hend : s.store.journal.generation = 0xFFFFFF ∨ s.part.lowv = true) :
    s.loaderFailed (startMapWrite map mask (s.retirement b cause)) .eraseFailed m := by
  have hu := retirement_inFlight (b := b) (cause := cause) h.1
  have hk : QueuesKept s (s.retirement b cause) := ⟨rfl, rfl, rfl⟩
  by_cases hgen : s.store.journal.generation = 0xFFFFFF
  · rw [startMapWrite_spent (s := s.retirement b cause) map mask hgen, mapFails_retiring hu rfl]
    exact endFailed_loaderFailed_beside h hk hu rfl _ _ _
  · obtain ⟨g, hcut, hentry, hstage, -⟩ := chooseSlot_suppliedOut (s := s.retirement b cause) (hend.resolve_left hgen) hu
      ((s.retirement b cause).mapOpOf map mask)
    have hfails := (hcut.loaderFailed (h.of_queues hk hu rfl) hentry).of_queues hk
    rw [(supplyError_retiring hstage).1] at hfails
    rw [startMapWrite_chooses (s := s.retirement b cause) map mask hgen]
    exact hfails

/-- The loader's command that LOWV# ends in its pulse work, in the form that `lowvAsserted_pulseWork` gives. -/
theorem pulseEnded_loaderFailed {s : State} {f : InFlight} {m : SvcMark} (hheld : s.part.resetHeld = false)
    (hlow : s.part.lowv = false) (hwork : s.pulseWork) (h : s.loaderAwaits f m) :
    s.loaderFailed (lowvAsserted s) f.supplyError m ∧ s.cutOutcome (lowvAsserted s) f := by
  have hf : s.pulseEnded.store.inFlight = some f := (pulseEnded_inFlight s).trans h.1
  have hfails := cutBySupply_loaderFailed h (queuesKept_pulseEnded s) hf rfl
  have hside := (endSide_cutBySupply hf).rest
  rw [lowvAsserted_pulseWork hheld hlow hwork]
  split
  · exact ⟨hfails.grant,
      cutOutcome_cutEffects rfl rfl (pulseEnded_sameRest s) (hside.trans (arrayGrant_rest _).1)⟩
  · exact ⟨hfails, cutOutcome_cutEffects rfl rfl (pulseEnded_sameRest s) hside⟩

/-- The verify read of the loader's command: the read finds the target of its program operation. -/
theorem exec_progDone {s : State} {f : InFlight} {p : ProgOp} {u : ArrUnit} {m : SvcMark} (hr : s.released)
    (ha : s.arrPort.access = some (.store (.read u) false)) (hs : s.store.scan = none) (hp : f.prog = some p)
    (hv : p.phase = .verifying) (hraw : s.rawBytes u = p.target) (h : s.loaderAwaits f m) :
    exec .arrayReadComplete s = .next (arrayGrant (progDone f p s.portFree)) := by
  rw [← flightRead_target hp hv hraw]
  exact exec_flightRead hr ha hs h.1

/-- Settles O21, end by end: each is the push of the outstanding command's result in a state that has the queues of the one
before. -/
theorem loaderTakesItsResults : Obligations.LoaderTakesItsResults := by
  refine ⟨fun s f g m hs hg h => ?_, fun s f v l b m hs hv hg hb h => ?_,
    fun s f p u g i image m hr ha hs hp hv hst hbody hg hraw h => ?_,
    fun s f p w u g m hr ha hs hp he hm hv hw hst hg hraw h => ?_, fun s c f e m hr hst hfails h => ?_,
    fun s f p m hr hp hl hst h => ?_, fun s f p x u b v l m hr ha hs hp hv he hst ht hraw hbody hl h => ?_,
    fun s f p u skip g i total m hr ha hs hp hv hst hbody hg hraw hall h => ?_,
    fun s f p w m hr hp he hm hl hsecond h => ?_, fun s f x ar m hr he ht hst h => ?_,
    fun s f x b m hr he ht hst hend h => ?_, fun s f p w u b cause m hr ha hs hp he hm hv hw hst hraw h => ?_,
    fun s f m hheld hlow hwork h => ?_, fun s f g q m hs hg ho hother => ?_⟩
  · have hclose := queuesKept_closeStaging (if g.filling then .spareDirty else .spareClean) s
    have hrest := (endSide_endDone (some g.bank) 0 0 noImage
      (closeStaging (if g.filling then .spareDirty else .spareClean) s)).rest
    refine ⟨_, occur_to hs.1 (stepAbandon_eq hs hg), ?_, (closeStaging_closes hg hrest).1⟩
    exact endDone_loaderDone_beside h hclose ((closeStaging_inFlight _ s).trans h.1) rfl _ _ _ _
  · obtain ⟨hr, hf, hst, hbody⟩ := hs
    have hrest := (endSide_endDone (some b) 0 0 noImage ((s.setEngine .running .none).staged b l)).rest
    refine ⟨_, occur_to hr ((stepBegin_choice hf hbody hv hst hg).trans (beginChoice_clean hb)), ?_, hrest.staging⟩
    exact endDone_loaderDone_beside h (u := (s.setEngine .running .none).staged b l) ⟨rfl, rfl, rfl⟩ hf rfl (some b) 0 0
      noImage
  · have hu := progEnded_inFlight h.1
    have hindex : InFlight.index { f with prog := none } = i.toNat := index_of_body hbody
    have hrest := endDone_grant_rest (some g.bank) (BitVec.ofNat 16 p.pulses) 0 noImage
      (joinWritten i.toNat s.portFree.progEnded)
    have hdone := endDone_loaderDone_beside h (u := joinWritten i.toNat s.portFree.progEnded) ⟨rfl, rfl, rfl⟩ hu rfl
      (some g.bank) (BitVec.ofNat 16 p.pulses) 0 noImage
    refine ⟨_, exec_progDone hr ha hs hp.1 hv hraw h, ?_⟩
    rw [progDone_programming _ hp hst, programDone_eq hu hg, hindex]
    exact ⟨hdone.grant, hrest.staging.trans (joinWritten_staging _ hg)⟩
  · have hu := progEnded_inFlight h.1
    have hk : QueuesKept s (s.portFree.progEnded.mapRecorded w) := ⟨rfl, rfl, rfl⟩
    have hdone := endDone_loaderDone_beside h (hk.trans (queuesKept_commitChanges g _))
      ((commitChanges_inFlight g _).trans hu) rfl (some g.bank) (word16 w.area.code (BitVec.ofNat 8 w.slot.val)) 0 noImage
    have hrest := endDone_grant_rest (some g.bank) (word16 w.area.code (BitVec.ofNat 8 w.slot.val)) 0 noImage
      (commitChanges g (s.portFree.progEnded.mapRecorded w))
    refine ⟨_, exec_progDone hr ha hs hp hv hraw h, ?_⟩
    rw [progDone_marker _ he hm hw, mapSucceeds_committing w hu hst hg]
    refine ⟨hdone.grant, hrest.staging.trans (by rw [commitChanges_store]), ?_⟩
    have hmap := hrest.storeMap.trans (commitChanges_storeMap _ g)
    exact (congrArg (Vector.get · g.target) hmap).trans ((vector_get_set _ _ _ _).trans (if_pos rfl))
  · exact ⟨_, failsCheck_eq hr h.1 hst hfails, endFailed_loaderFailed _ _ _ h⟩
  · obtain ⟨d, hd⟩ := progFails_closes (s := s) hp
    have hrest := (endSide_endFailed .programFailed s.stagingBank d (closeStaging .spareDirty s)).rest
    refine ⟨_, exec_pulseLimit hr h.1 hp.1 hl, ?_⟩
    rw [hd]
    refine ⟨endFailed_loaderFailed_beside h (queuesKept_closeStaging _ s) ((closeStaging_inFlight _ s).trans h.1) rfl _ _ _,
      hrest.staging.trans ?_⟩
    obtain ⟨v, hv⟩ := closeStaging_store .spareDirty s
    rw [hv]
  · have hu := progEnded_inFlight h.1
    have hk := ((queuesKept_progEnded s).trans (queuesKept_countErase b _)).trans (queuesKept_staged b l _)
    have hrest := endDone_grant_rest (some b) (BitVec.ofNat 16 x.given) 0 noImage
      ((countErase b s.portFree.progEnded).staged b l)
    have hdone := endDone_loaderDone_beside h hk hu rfl (some b) (BitVec.ofNat 16 x.given) 0 noImage
    refine ⟨_, exec_progDone hr ha hs hp hv hraw h, ?_⟩
    rw [progDone_erase _ he, eraseProgDone_header hst ht, bankErased_begin b x hu hbody hl]
    exact ⟨hdone.grant, hrest.staging⟩
  · have hu := progEnded_inFlight h.1
    have hskip : InFlight.skip { f with prog := none } = skip := skip_of_body hbody
    have hnone : nextUnskipped (InFlight.skip { f with prog := none }) (i + 1) = none := by
      rw [hskip]
      exact nextUnskipped_eq_none fun k hik hk => hall k hik hk
    have hjoined := joinWritten_staging i (s := s.portFree.progEnded) hg
    have hrest := endDone_grant_rest (some g.bank) (BitVec.ofNat 16 (total + p.pulses)) 0 noImage
      (joinWritten i s.portFree.progEnded)
    have hdone := endDone_loaderDone_beside h (u := joinWritten i s.portFree.progEnded) ⟨rfl, rfl, rfl⟩ hu rfl
      (some g.bank) (BitVec.ofNat 16 (total + p.pulses)) 0 noImage
    refine ⟨_, exec_progDone hr ha hs hp.1 hv hraw h, ?_⟩
    rw [progDone_cloning _ hp hst, cloneDone, cloneFrom_last (s := joinWritten i s.portFree.progEnded) hu hjoined hnone]
    exact ⟨hdone.grant, hrest.staging.trans hjoined⟩
  · have hfails := mapFails_loaderFailed h (u := passSlot w s) ⟨rfl, rfl, rfl⟩ h.1 rfl rfl
      (word16 w.area.code (BitVec.ofNat 8 w.slot.val))
    have hexec := exec_pulseLimit hr h.1 hp hl
    rw [progFails_slot he hm, slotFails_second s hsecond] at hexec
    exact ⟨fun hc => ⟨_, hexec, hfails.1 hc⟩, fun b cause hret => ⟨_, hexec, hfails.2 b cause hret⟩⟩
  · have hfails := mapFails_loaderFailed h (.refl s) h.1 rfl rfl (word16 ar.code 0xFF)
    have hexec := exec_budgetSpent hr h.1 he hst
    rw [eraseFails_area ht] at hexec
    exact ⟨fun hc => ⟨_, hexec, hfails.1 hc⟩, fun b cause hret => ⟨_, hexec, hfails.2 b cause hret⟩⟩
  · have hrest := startMapWrite_sameRest s.store.storeMap (s.store.journal.retiredMask ||| (1#16 <<< b.val))
      (retirement_inFlight (b := b) (cause := 0xFF) h.1) (not_fills (by simp) (by simp))
    refine ⟨_, exec_budgetSpent hr h.1 he hst, ?_⟩
    rw [eraseFails_bank ht]
    exact ⟨retirement_loaderFailed h _ _ hend, (retirement_onlyRole s b 0xFF).of_roles rfl hrest.roles⟩
  · have hu := progEnded_inFlight h.1
    have hfails := endFailed_loaderFailed_beside h (u := s.portFree.progEnded.mapRecorded w) ⟨rfl, rfl, rfl⟩ hu rfl
      .eraseFailed (some b) (word16 0 cause)
    refine ⟨_, exec_progDone hr ha hs hp hv hraw h, ?_⟩
    rw [progDone_marker _ he hm hw, mapSucceeds_retiring w hu hst]
    exact hfails.grant
  · obtain ⟨hfails, hcut⟩ := pulseEnded_loaderFailed hheld hlow hwork h
    refine ⟨fun hst => ⟨_, rfl, ?_, hcut⟩, fun b cause hst => ⟨_, rfl, ?_, hcut⟩⟩
    · rw [(supplyError_other hst).1] at hfails
      exact hfails
    · rw [(supplyError_retiring hst).1] at hfails
      exact hfails
  · obtain ⟨hr, hf, -⟩ := id hs
    have hclose := queuesKept_closeStaging (if g.filling then .spareDirty else .spareClean) s
    obtain ⟨hdone, hsvc⟩ := endDone_completes_other (some g.bank) 0 0 noImage ((closeStaging_inFlight _ s).trans hf)
      (by rw [hclose.svc]; exact ho) hother
    exact ⟨_, occur_to hr (stepAbandon_eq hs hg), hdone.of_queues hclose, hsvc.trans hclose.svc⟩

end Sys2Proof.Machine
end

section
/-! SUPPORT. The queues of the store engine and the queue of waiting commands: every operation of the part keeps the first
within their bounds and leaves the second alone (R120 to R124, R136 to R138, R172). -/

namespace Sys2Proof.Machine

variable {s t u : State}

/-! ## What is kept -/

/-- What the bounds of the queues and the commands that wait are read from. -/
def State.queueView (s : State) :=
  (s.pending, s.store.engine, s.store.queue, s.store.results, s.store.inFlight.isSome)

/-- `t` comes from `s` by work that leaves the waiting commands alone and keeps the queues within their bounds. -/
structure Orderly (s t : State) : Prop where
  pending : t.pending = s.pending
  fit : s.queuesFit → t.queuesFit

theorem Orderly.refl (s : State) : Orderly s s := ⟨rfl, id⟩

theorem Orderly.next (h : Orderly s t) (hp : u.pending = t.pending) (hf : t.queuesFit → u.queuesFit) : Orderly s u :=
  ⟨hp.trans h.pending, hf ∘ h.fit⟩

/-- Work that touches neither the queues nor the engine's state. -/
theorem Orderly.quiet (h : Orderly s t) (hv : u.queueView = t.queueView) : Orderly s u := by
  simp only [State.queueView, Prod.mk.injEq] at hv
  obtain ⟨hp, he, hq, hr, hf⟩ := hv
  refine h.next hp fun ht => ?_
  unfold State.queuesFit
  rwa [hq, hr, hf, he]

/-- The row loader's work. -/
theorem LoaderSide.orderly (k : LoaderSide t u) (h : Orderly s t) : Orderly s u :=
  h.quiet (by simp only [State.queueView, k.pending, k.store])

/-- A change of the engine's state is free but for HALTED, which asks for an empty queue. -/
theorem Orderly.engine (h : Orderly s t) {e : Engine} (w : WaitReason) (he : e ≠ .halted) :
    Orderly s (t.setEngine e w) :=
  h.next rfl fun ⟨hq, hr, _⟩ => ⟨hq, hr, fun hh => absurd hh he⟩

/-! ## The queues -/

theorem withFlight_orderly (g : InFlight → InFlight) (h : Orderly s t) : Orderly s (t.withFlight g) :=
  h.quiet (by simp [State.queueView])

theorem arrayGrant_orderly (h : Orderly s t) : Orderly s (arrayGrant t) := by
  unfold arrayGrant
  split
  · exact h
  · exact h.quiet rfl
  · split
    · exact h.quiet (by simp [State.queueView])
    · exact h
  · exact h

theorem ackHalt_orderly (h : Orderly s t) : Orderly s (ackHalt t) := by
  unfold ackHalt
  split
  · exact h.engine .none (by decide)
  · exact h

theorem qspaceFrom_orderly (old : List CmdEntry) (h : Orderly s t) : Orderly s (qspaceFrom old t) := by
  unfold qspaceFrom
  split <;> exact h.quiet rfl

theorem discardQueue_orderly (h : Orderly s t) : Orderly s (discardQueue t) :=
  qspaceFrom_orderly _ (h.next rfl fun ⟨_, hr, _⟩ => ⟨Nat.zero_le _, hr, fun _ => rfl⟩)

/-- A start takes the head of the queue only with a free place in the results. -/
theorem startHead_orderly (h : Orderly s t) : Orderly s (startHead t) := by
  unfold startHead
  split
  · exact h
  · exact h.engine .none (by decide)
  · rename_i e rest hf hq
    split
    · rename_i hroom
      refine qspaceFrom_orderly _ (h.next rfl fun ⟨hlen, _, _⟩ => ⟨?_, hroom, nofun⟩)
      rw [hq, List.length_cons] at hlen
      exact Nat.le_of_succ_le hlen
    · exact h.engine .resultSpace (by decide)

theorem startIfDue_orderly (h : Orderly s t) : Orderly s (startIfDue t) := by
  unfold startIfDue
  split
  · exact startHead_orderly h
  · exact h

/-- A submission is accepted from the port owner by an engine that is not HALTED, with a place in the queue (R120). -/
theorem submitRefusal_eq_none {who : Submitter} : s.submitRefusal who = none ↔
    s.store.owner = who ∧ s.store.engine ≠ .halted ∧ s.store.queue.length < 4 := by
  unfold State.submitRefusal
  by_cases ho : s.store.owner = who
  · by_cases he : s.store.engine = .halted
    · simp [ho, he]
    · simp [ho, he]
  · simp [ho]

/-- An accepted submission finds a place in the queue. -/
theorem enqueue_orderly {who : Submitter} (k : Byte) (b : CmdBody) (h : Orderly s t) (ha : t.submitRefusal who = none) :
    Orderly s (enqueue who k b t) := by
  obtain ⟨-, he, hq⟩ := submitRefusal_eq_none.1 ha
  exact startIfDue_orderly (h.next rfl fun ⟨_, hr, _⟩ =>
    ⟨by simpa using Nat.succ_le_of_lt hq, hr, fun hh => absurd hh he⟩)

theorem hostSubmit_orderly (h : Orderly s t) : Orderly s (hostSubmit t) := by
  unfold hostSubmit
  split
  · exact h.quiet rfl
  · exact enqueue_orderly _ _ h ‹_›

theorem popResult_orderly (h : Orderly s t) : Orderly s (popResult t) := by
  unfold popResult
  split
  · exact h.quiet rfl
  · rename_i r rest hres
    refine startIfDue_orderly (h.next rfl fun ⟨hq, hr, hh⟩ => ⟨hq, ?_, hh⟩)
    rw [hres, List.length_cons] at hr
    exact le_trans (Nat.add_le_add_right (Nat.le_succ _) _) hr

/-- A push takes the place that was held for the command in flight (R122, R123). -/
theorem pushResult_orderly (r : ResultRec) (h : Orderly s t) (hf : t.store.inFlight.isSome = true) :
    Orderly s (pushResult r t) :=
  h.next rfl fun ⟨hq, hr, hh⟩ => ⟨hq, by simpa [hf] using hr, hh⟩

/-! ## The transmitter -/

theorem queueItem_orderly (it : TxItem) (h : Orderly s t) : Orderly s (queueItem it t) := by
  unfold queueItem
  split
  · exact h.quiet rfl
  · exact h.quiet rfl
  · dsimp only
    split
    · exact ackHalt_orderly (h.quiet rfl)
    · exact h.quiet rfl

theorem queueN_orderly (e : ErrCode) (k : Bool) (h : Orderly s t) : Orderly s (queueN e k t) :=
  queueItem_orderly _ (h.quiet rfl)

theorem queueK_orderly (p : List Byte) (k : Bool) (h : Orderly s t) : Orderly s (queueK p k t) := queueItem_orderly _ h

/-! ## The ends of commands -/

/-- The loader removes a result and starts what waits for the place. -/
theorem loaderTakes_orderly (r : ResultRec) (h : Orderly s t) : Orderly s (loaderTakes r t) := by
  unfold loaderTakes
  split
  · exact h
  · split
    · have hstart : Orderly s (startIfDue { t with
          store := { t.store with results := t.store.results.dropLast }, svc := { t.svc with outstanding := none } }) :=
        startIfDue_orderly (h.next rfl fun ⟨hq, hr, hh⟩ => ⟨hq, by
          simp only [List.length_dropLast]
          omega, hh⟩)
      dsimp only
      split
      · exact ackHalt_orderly hstart
      · exact hstart
      · exact queueK_orderly _ _ (hstart.quiet rfl)
      · exact queueN_orderly _ _ (hstart.quiet rfl)
      · exact hstart.quiet rfl
    · exact h

theorem endDone_orderly (p : Option Bank) (d c : Word16) (i : List Byte) (h : Orderly s t) :
    Orderly s (endDone p d c i t) := by
  unfold endDone
  split
  · exact h
  · exact loaderTakes_orderly _ (startHead_orderly (pushResult_orderly _ h (by simp [*])))

/-- A failure halts the engine with its queue discarded (R136). -/
theorem endFailed_orderly (e : ErrCode) (p : Option Bank) (d : Word16) (h : Orderly s t) :
    Orderly s (endFailed e p d t) := by
  unfold endFailed
  split
  · exact h
  · refine loaderTakes_orderly _ (Orderly.next (t := discardQueue (pushResult _ t))
      (discardQueue_orderly (pushResult_orderly _ h (by simp [*]))) rfl fun ⟨hq, hr, _⟩ => ⟨hq, hr, fun _ => ?_⟩)
    simp

theorem endAborted_orderly (p : Option Bank) (h : Orderly s t) : Orderly s (endAborted p t) := by
  unfold endAborted
  split
  · exact h
  · exact (discardQueue_orderly (pushResult_orderly _ h (by simp [*]))).engine .none (by decide)

end Sys2Proof.Machine
end

section
/-! SUPPORT. The queues of the store engine under its work at the array port: program operations, erases, map writes, the
commands, cuts and completions end a command or leave the queues as they are (R110 to R115, R126 to R135, R138, R144 to R148). -/

namespace Sys2Proof.Machine

variable {s t : State}

/-! ## Requests and cuts -/

theorem storeRequest_orderly (r : StoreReq) (h : Orderly s t) : Orderly s (storeRequest r t) := by
  unfold storeRequest
  split
  · exact h.quiet rfl
  · exact arrayGrant_orderly (h.quiet rfl)

theorem closeStaging_orderly (r : Role) (h : Orderly s t) : Orderly s (closeStaging r t) := by
  obtain ⟨v, hv⟩ := closeStaging_store r t
  rw [hv]
  exact h.quiet rfl

theorem cutEffects_orderly (f : InFlight) (h : Orderly s t) : Orderly s (cutEffects f t) := by
  have hmap : Orderly s (cutMapWrite f t) := by
    unfold cutMapWrite
    split
    · split
      · exact h.quiet rfl
      · exact h
    · exact h
  unfold cutEffects
  split
  case h_1 | h_2 => exact closeStaging_orderly _ h
  case h_3 | h_4 => exact hmap
  all_goals exact h

theorem cutBySupply_orderly (h : Orderly s t) : Orderly s (cutBySupply t) := by
  unfold cutBySupply
  split
  · exact h
  · split <;> exact endFailed_orderly _ _ _ (cutEffects_orderly _ h)

theorem presentPulse_orderly (r : StoreReq) (h : Orderly s t) : Orderly s (presentPulse r t) := by
  unfold presentPulse
  split
  · exact cutBySupply_orderly h
  · exact storeRequest_orderly r h

theorem presentDeferred_orderly (h : Orderly s t) : Orderly s (presentDeferred t) := by
  unfold presentDeferred
  split
  · exact h
  · dsimp only
    split
    · exact storeRequest_orderly _ (h.quiet rfl)
    · exact presentPulse_orderly _ (h.quiet rfl)
    · exact presentPulse_orderly _ (h.quiet rfl)

/-! ## Program operations, erases and map writes begin -/

theorem startProg_orderly (u : ArrUnit) (l : List Byte) (n : Nat) (h : Orderly s t) : Orderly s (startProg u l n t) := by
  unfold startProg
  dsimp only
  split
  · exact withFlight_orderly _ h
  · exact presentPulse_orderly _ (withFlight_orderly _ h)

theorem startPrewrite_orderly (u : EraseUnit) (k : Nat) (h : Orderly s t) : Orderly s (startPrewrite u k t) :=
  startProg_orderly _ _ _ (withFlight_orderly _ h)

theorem startSubPulse_orderly (e : EraseOp) (h : Orderly s t) : Orderly s (startSubPulse e t) :=
  presentPulse_orderly _ (withFlight_orderly _ h)

theorem startSlot_orderly (m : MapOp) (ar : Area) (n : Fin 8) (h : Orderly s t) : Orderly s (startSlot m ar n t) :=
  startProg_orderly _ _ _ (withFlight_orderly _ h)

theorem startMarker_orderly (m : MapOp) (n : Nat) (h : Orderly s t) : Orderly s (startMarker m n t) :=
  startProg_orderly _ _ _ (withFlight_orderly _ h)

theorem mapFails_orderly (d : Word16) (h : Orderly s t) : Orderly s (mapFails d t) := by
  unfold mapFails
  split
  · exact h
  · split <;> exact endFailed_orderly _ _ _ h

theorem chooseSlot_orderly (m : MapOp) (h : Orderly s t) : Orderly s (chooseSlot m t) := by
  unfold chooseSlot
  split
  · exact startSlot_orderly _ _ _ h
  · exact startPrewrite_orderly _ _ (withFlight_orderly _ h)

theorem startMapWrite_orderly (v : Vector Bank 14) (w : Word16) (h : Orderly s t) : Orderly s (startMapWrite v w t) := by
  unfold startMapWrite
  split
  · exact mapFails_orderly _ h
  · exact chooseSlot_orderly _ h

/-! ## Program operations, erases and map writes end -/

theorem slotFails_orderly (m : MapOp) (h : Orderly s t) : Orderly s (slotFails m t) := by
  have hpass : Orderly s (passSlot m t) := h.quiet rfl
  unfold slotFails
  dsimp only
  split
  · exact mapFails_orderly _ hpass
  · exact chooseSlot_orderly _ (withFlight_orderly _ hpass)

theorem commitChanges_orderly (g : Staging) (h : Orderly s t) : Orderly s (commitChanges g t) := by
  unfold commitChanges
  dsimp only
  split <;> exact h.quiet rfl

theorem mapSucceeds_orderly (m : MapOp) (h : Orderly s t) : Orderly s (mapSucceeds m t) := by
  have hwritten : Orderly s { t with store := { t.store with journal := t.store.journal.written m } } := h.quiet rfl
  unfold mapSucceeds
  dsimp only
  split
  · split
    · exact endFailed_orderly _ _ _ hwritten
    · exact endDone_orderly _ _ _ _ (commitChanges_orderly _ hwritten)
    · exact hwritten
  · exact hwritten

theorem eraseFails_orderly (e : EraseOp) (c : Byte) (h : Orderly s t) : Orderly s (eraseFails e c t) := by
  unfold eraseFails
  split
  · exact startMapWrite_orderly _ _ (withFlight_orderly _ (h.quiet rfl))
  · exact mapFails_orderly _ h

theorem openStaging_orderly (b : Bank) (l : Logical) (n : Nat) (h : Orderly s t) : Orderly s (openStaging b l n t) :=
  endDone_orderly _ _ _ _ (h.quiet rfl)

theorem bankErased_orderly (b : Bank) (e : EraseOp) (h : Orderly s t) : Orderly s (bankErased b e t) := by
  have hcounted : Orderly s (countErase b t) := h.quiet rfl
  unfold bankErased
  dsimp only
  split
  · exact hcounted
  · split
    · split
      · exact openStaging_orderly _ _ _ hcounted
      · exact hcounted
    · exact endDone_orderly _ _ _ _ (hcounted.quiet rfl)

theorem areaErased_orderly (ar : Area) (h : Orderly s t) : Orderly s (areaErased ar t) := by
  unfold areaErased
  split
  · exact h
  · exact startSlot_orderly _ _ _ (h.quiet rfl)

theorem eraseVerified_orderly (e : EraseOp) (raw : List Byte) (h : Orderly s t) : Orderly s (eraseVerified e raw t) := by
  unfold eraseVerified
  split
  · split
    · exact startProg_orderly _ _ _ (withFlight_orderly _ h)
    · exact areaErased_orderly _ h
  · split
    · exact startSubPulse_orderly _ h
    · exact withFlight_orderly _ h

theorem cloneFrom_orderly (i n : Nat) (h : Orderly s t) : Orderly s (cloneFrom i n t) := by
  unfold cloneFrom
  split
  · split
    · exact storeRequest_orderly _ (withFlight_orderly _ h)
    · exact endDone_orderly _ _ _ _ h
  · exact h

theorem cloneDone_orderly (i n p : Nat) (h : Orderly s t) : Orderly s (cloneDone i n p t) :=
  cloneFrom_orderly _ _ (h.quiet rfl)

theorem programDone_orderly (p : Nat) (h : Orderly s t) : Orderly s (programDone p t) := by
  unfold programDone
  split
  · exact h
  · exact endDone_orderly _ _ _ _ (h.quiet rfl)

theorem writeGlyph_orderly (b : Bank) (g : Nat) (raw : List Byte) {k : State → State} (h : Orderly s t)
    (hk : Orderly s (k t)) : Orderly s (writeGlyph b g raw k t) := by
  unfold writeGlyph
  split
  · exact hk
  · exact startProg_orderly _ _ _ h

theorem eraseProgDone_orderly (e : EraseOp) (h : Orderly s t) : Orderly s (eraseProgDone e t) := by
  unfold eraseProgDone
  split
  · split
    · exact startPrewrite_orderly _ _ h
    · exact startSubPulse_orderly _ h
  · split
    · exact bankErased_orderly _ _ h
    · exact h
  all_goals exact h

theorem progDone_orderly (f : InFlight) (p : ProgOp) (h : Orderly s t) : Orderly s (progDone f p t) := by
  have hended : Orderly s (t.withFlight fun f => { f with prog := none }) := withFlight_orderly _ h
  unfold progDone
  dsimp only
  split
  · exact eraseProgDone_orderly _ hended
  · split
    · exact startMarker_orderly _ _ hended
    · exact mapSucceeds_orderly _ hended
  · split
    · exact cloneDone_orderly _ _ _ hended
    · exact programDone_orderly _ hended

theorem progVerified_orderly (f : InFlight) (p : ProgOp) (raw : List Byte) (h : Orderly s t) :
    Orderly s (progVerified f p raw t) := by
  unfold progVerified
  dsimp only
  split
  · exact progDone_orderly _ _ h
  · split
    · exact presentPulse_orderly _ (withFlight_orderly _ h)
    · exact withFlight_orderly _ h

theorem progFails_orderly (f : InFlight) (h : Orderly s t) : Orderly s (progFails f t) := by
  unfold progFails
  split
  · unfold eraseProgFails
    split
    case h_1 | h_2 => exact eraseFails_orderly _ _ h
    all_goals exact h
  · exact slotFails_orderly _ h
  · split <;> exact endFailed_orderly _ _ _ (closeStaging_orderly _ h)

/-! ## The commands -/

theorem beginChoice_orderly (l : Logical) (h : Orderly s t) : Orderly s (beginChoice l t) := by
  unfold beginChoice
  split
  · exact openStaging_orderly _ _ _ (h.engine .none (by decide))
  · exact startPrewrite_orderly _ _ (withFlight_orderly _ (h.engine .none (by decide)))
  · exact withFlight_orderly _ (h.engine .draining (by decide))
  · exact endFailed_orderly _ _ _ h

theorem stepBegin_orderly (h : Orderly s t) : Orderly s (stepBegin t) := by
  unfold stepBegin
  split
  · split
    · exact endFailed_orderly _ _ _ h
    · split
      · exact endFailed_orderly _ _ _ h
      · exact beginChoice_orderly _ h
  · exact h

theorem stepChooseAgain_orderly (h : Orderly s t) : Orderly s (stepChooseAgain t) := by
  unfold stepChooseAgain
  split
  · split
    · split
      · exact h
      · exact beginChoice_orderly _ h
    · exact h
  · exact h

theorem stepClone_orderly (h : Orderly s t) : Orderly s (stepClone t) := by
  unfold stepClone
  split
  · split
    · exact endFailed_orderly _ _ _ h
    · split
      · exact endFailed_orderly _ _ _ h
      · exact cloneFrom_orderly _ _ (h.quiet rfl)
  · exact h

theorem stepProgram_orderly (h : Orderly s t) : Orderly s (stepProgram t) := by
  unfold stepProgram
  split
  · split
    · exact endFailed_orderly _ _ _ h
    · split
      · exact endFailed_orderly _ _ _ h
      · split
        · exact endFailed_orderly _ _ _ h
        · have hfills : Orderly s ((startFilling t).withFlight fun f => { f with stage := .programming }) :=
            withFlight_orderly _ (h.quiet rfl)
          exact writeGlyph_orderly _ _ _ hfills (programDone_orderly _ hfills)
  · exact h

theorem stepCommit_orderly (h : Orderly s t) : Orderly s (stepCommit t) := by
  unfold stepCommit
  split
  · split
    · exact endFailed_orderly _ _ _ h
    · exact startMapWrite_orderly _ _ (withFlight_orderly _ h)
  · exact h

theorem stepAbandon_orderly (h : Orderly s t) : Orderly s (stepAbandon t) := by
  unfold stepAbandon
  split
  · split
    · exact endFailed_orderly _ _ _ h
    · exact endDone_orderly _ _ _ _ (closeStaging_orderly _ h)
  · exact h

theorem stepScrub_orderly (h : Orderly s t) : Orderly s (stepScrub t) := by
  unfold stepScrub
  split
  · split
    · exact endDone_orderly _ _ _ _ h
    · exact startPrewrite_orderly _ _ (withFlight_orderly _ h)
  · exact h

theorem stepReadglyph_orderly (h : Orderly s t) : Orderly s (stepReadglyph t) := by
  unfold stepReadglyph
  split
  · split
    · exact storeRequest_orderly _ (withFlight_orderly _ h)
    · exact endFailed_orderly _ _ _ h
  · exact h

theorem stepCheck_orderly (h : Orderly s t) : Orderly s (stepCheck t) := by
  unfold stepCheck
  split
  · split
    · exact endFailed_orderly _ _ _ h
    · exact storeRequest_orderly _ (withFlight_orderly _ h)
  · exact h

theorem stepBadKind_orderly (h : Orderly s t) : Orderly s (stepBadKind t) := by
  unfold stepBadKind
  split
  · exact endFailed_orderly _ _ _ h
  · exact h

/-! ## Completions at the array port -/

theorem flightRead_orderly (f : InFlight) (raw : List Byte) (h : Orderly s t) : Orderly s (flightRead f raw t) := by
  unfold flightRead
  split
  · split
    · exact progVerified_orderly _ _ _ h
    · exact h
  · split
    · exact eraseVerified_orderly _ _ h
    · exact h
  · unfold cloneProgram
    split
    · exact h
    · exact writeGlyph_orderly _ _ _ h (cloneDone_orderly _ _ _ h)
  · exact endDone_orderly _ _ _ _ h
  · unfold checkRead
    dsimp only
    split
    · exact storeRequest_orderly _ (withFlight_orderly _ h)
    · exact endDone_orderly _ _ _ _ h
  · exact h

theorem storeReadDone_orderly (raw : List Byte) (h : Orderly s t) : Orderly s (storeReadDone raw t) := by
  unfold storeReadDone
  split
  · unfold scanRead
    dsimp only
    split
    · exact storeRequest_orderly _ (h.quiet rfl)
    · exact h.quiet rfl
  · exact flightRead_orderly _ _ h
  · exact h

theorem programPulseComplete_orderly (h : Orderly s t) : Orderly s (programPulseComplete t) := by
  unfold programPulseComplete
  split
  · exact storeRequest_orderly _ (withFlight_orderly _ (h.quiet rfl))
  · exact h

theorem eraseSubpulseComplete_orderly (h : Orderly s t) : Orderly s (eraseSubpulseComplete t) := by
  unfold eraseSubpulseComplete
  split
  · exact storeRequest_orderly _ (withFlight_orderly _ (h.quiet rfl))
  · exact h

theorem pulseLimitReached_orderly (h : Orderly s t) : Orderly s (pulseLimitReached t) := by
  unfold pulseLimitReached
  split
  · split
    · split
      · exact progFails_orderly _ h
      · exact h
    · exact h
  · exact h

theorem subpulseBudgetSpent_orderly (h : Orderly s t) : Orderly s (subpulseBudgetSpent t) := by
  unfold subpulseBudgetSpent
  split
  · split
    · exact eraseFails_orderly _ _ h
    · exact h
  · exact h

/-! ## STORE ABORT, LOWV# and RESET# -/

theorem cutPulse_orderly (h : Orderly s t) : Orderly s (cutPulse t) := by
  have hpulse : ∀ p, Orderly s (freeArrayPort (cutPulseArray p t)) := by
    intro p
    unfold cutPulseArray
    dsimp only
    split <;> exact h.quiet rfl
  have hsub : ∀ u, Orderly s (freeArrayPort (cutSubPulseArray u t)) := by
    intro u
    unfold cutSubPulseArray
    dsimp only
    split <;> exact h.quiet rfl
  unfold cutPulse
  split
  · split
    · exact hpulse _
    · exact h.quiet rfl
  · exact hsub _
  · exact h

theorem abortFlight_orderly (h : Orderly s t) : Orderly s (abortFlight t) := by
  have hleaves : Orderly s { cutPulse t with
      arrPort := (cutPulse t).arrPort.storeLeaves, store := { (cutPulse t).store with deferred := none } } :=
    (cutPulse_orderly h).quiet rfl
  unfold abortFlight
  dsimp only
  split
  · exact (discardQueue_orderly hleaves).engine .none (by decide)
  · exact endAborted_orderly _ (cutEffects_orderly _ hleaves)

theorem storeAbort_orderly (h : Orderly s t) : Orderly s (storeAbort t) := by
  unfold storeAbort
  split
  · exact discardQueue_orderly h
  · exact h
  · exact h
  · exact arrayGrant_orderly (abortFlight_orderly h)
  · split
    · exact arrayGrant_orderly (abortFlight_orderly h)
    · exact (discardQueue_orderly h).engine .none (by decide)

theorem lowvAsserted_orderly (h : Orderly s t) : Orderly s (lowvAsserted t) := by
  have hflag : Orderly s (raise .lowv { t with part := { t.part with lowv := true } }) := h.quiet rfl
  unfold lowvAsserted
  dsimp only
  split
  · exact h
  · split
    · exact h.quiet rfl
    · split
      · exact arrayGrant_orderly (cutBySupply_orderly (cutPulse_orderly hflag))
      · split
        · exact cutBySupply_orderly (hflag.quiet rfl)
        · exact hflag

/-- RESET# empties both queues of the store engine, and leaves the commands that wait outside the part (R140). -/
theorem resetPart_orderly (h : Orderly s t) : Orderly s (resetPart t) :=
  (cutPulse_orderly h).next (t := cutPulse t) rfl fun _ => ⟨Nat.zero_le _, Nat.zero_le _, fun _ => rfl⟩

theorem powerOn_orderly (h : Orderly s t) : Orderly s (powerOn t) := (resetPart_orderly h).quiet rfl

theorem releaseReset_orderly (load : Bool) (h : Orderly s t) : Orderly s (releaseReset load t) := by
  unfold releaseReset
  dsimp only
  split
  · split <;> exact storeRequest_orderly _ (h.quiet rfl)
  · exact h

end Sys2Proof.Machine
end

section
/-! SUPPORT. The queues of the store engine under every command: the display, the ports, the service load port and the host
window reach them only by a submission, a POP, an acknowledgement, an abort or the end of start-up (R120 to R124, R136, R137,
R160, R172). -/

namespace Sys2Proof.Machine

variable {s t : State}

/-! ## The display -/

theorem takeLatch_orderly (h : Orderly s t) : Orderly s (takeLatch t) := by
  unfold takeLatch
  split
  · exact arrayGrant_orderly ((loaderSide_latchFirst _).orderly (h.quiet rfl))
  · exact h

theorem copyUnlessStarting_orderly (h : Orderly s t) : Orderly s (copyUnlessStarting t) := by
  unfold copyUnlessStarting
  split <;> exact h.quiet rfl

theorem swapIfPending_orderly (h : Orderly s t) : Orderly s (swapIfPending t) := by
  unfold swapIfPending
  split <;> exact h.quiet rfl

theorem frameSettings_orderly (h : Orderly s t) : Orderly s (frameSettings t) := by
  have hlatched : Orderly s (latchConfig t) := h.quiet rfl
  have hadvanced : Orderly s (marqueeAdvance (swapIfPending (latchConfig t))) := (swapIfPending_orderly hlatched).quiet rfl
  have hblink : Orderly s (blinkStep (copyUnlessStarting (marqueeAdvance (swapIfPending (latchConfig t))))) := by
    unfold blinkStep
    split <;> exact (copyUnlessStarting_orderly hadvanced).quiet rfl
  exact hblink.quiet rfl

theorem openFrame_orderly (h : Orderly s t) : Orderly s (openFrame t) :=
  arrayGrant_orderly ((loaderSide_latchFirst _).orderly (frameSettings_orderly h))

theorem frameStart_orderly (h : Orderly s t) : Orderly s (frameStart t) := by
  have hcounted : Orderly s { t with freeCount := t.freeCount + 1 } := h.quiet rfl
  unfold frameStart
  dsimp only
  split
  · split
    · exact openFrame_orderly hcounted
    · exact (frameSettings_orderly hcounted).quiet rfl
  · exact h

theorem startRow_orderly (i : RowInst) (n : Nat) (h : Orderly s t) : Orderly s (startRow i n t) := by
  have hlate : Orderly s (lateRow t) := by
    unfold lateRow
    split <;> exact h.quiet rfl
  have hmarked : Orderly s (markRow i
      { lateRow t with rows := (lateRow t).rows.exchange, scan := { (lateRow t).scan with rowStart := some n } }) := by
    unfold markRow
    split <;> exact hlate.quiet rfl
  exact arrayGrant_orderly ((loaderSide_latchFollowing i n _).orderly hmarked)

theorem visibleLine_orderly (n : Nat) (h : Orderly s t) : Orderly s (visibleLine n t) := by
  have hrow : Orderly s (rowEvents n t) := by
    unfold rowEvents
    split
    · exact h
    · split
      · exact startRow_orderly _ _ h
      · exact h.quiet rfl
  exact hrow.quiet rfl

theorem lineStart_orderly (h : Orderly s t) : Orderly s (lineStart t) := by
  unfold lineStart
  split
  · exact h
  · split
    · exact h.quiet rfl
    · exact visibleLine_orderly _ h
  · split
    · exact visibleLine_orderly _ h
    · exact h

theorem endActiveDots_orderly (h : Orderly s t) : Orderly s (endActiveDots t) := by
  unfold endActiveDots
  split <;> exact h.quiet rfl

theorem stopDisplay_orderly (h : Orderly s t) : Orderly s (stopDisplay t) :=
  arrayGrant_orderly (copyUnlessStarting_orderly (h.quiet rfl))

theorem writeDispctl_orderly (v : Byte) (h : Orderly s t) : Orderly s (writeDispctl v t) := by
  unfold writeDispctl
  split
  · split
    · exact h
    · exact openFrame_orderly (h.quiet rfl)
  · split
    · exact stopDisplay_orderly (swapIfPending_orderly h)
    · exact h

/-! ## Completions at the two ports -/

theorem entryDone_orderly (i : RowInst) (j : Nat) (h : Orderly s t) : Orderly s (entryDone i j t) := by
  unfold entryDone
  split
  · exact (loaderSide_beginEntry _ _ _).orderly h
  · exact h.quiet rfl

theorem resolveCell_orderly (w : Word16) (h : Orderly s t) : Orderly s (resolveCell w t) := by
  unfold resolveCell
  split
  · dsimp only
    split
    · exact entryDone_orderly _ _ h
    · exact arrayGrant_orderly (h.quiet rfl)
  · exact h

theorem storeSlices_orderly (l : List Byte) (h : Orderly s t) : Orderly s (storeSlices l t) := by
  unfold storeSlices
  split
  · exact entryDone_orderly _ _ h
  · exact h

theorem loaderResumes_orderly (h : Orderly s t) : Orderly s (loaderResumes t) := by
  unfold loaderResumes
  split <;> exact h.quiet rfl

theorem arrayReadComplete_orderly (h : Orderly s t) : Orderly s (arrayReadComplete t) := by
  have hfree : Orderly s (freeArrayPort t) := h.quiet rfl
  unfold arrayReadComplete
  split
  · refine arrayGrant_orderly ?_
    split
    · exact loaderResumes_orderly hfree
    · exact storeSlices_orderly _ hfree
  · refine arrayGrant_orderly ?_
    split
    · exact presentDeferred_orderly hfree
    · exact storeReadDone_orderly _ hfree
  · exact h

theorem moverWriteDone_orderly (h : Orderly s t) : Orderly s (moverWriteDone t) := by
  unfold moverWriteDone
  dsimp only
  (repeat' split) <;> exact h.quiet rfl

theorem moverAbandonedDone_orderly (h : Orderly s t) : Orderly s (moverAbandonedDone t) := by
  unfold moverAbandonedDone moverResumes
  (repeat' split) <;> exact h.quiet rfl

theorem hostCellDone_orderly (a : CellAddr) (w : Word16) (h : Orderly s t) : Orderly s (hostCellDone a w t) := by
  unfold hostCellDone
  split <;> exact h.quiet rfl

theorem deliverCell_orderly (acc : CellAccess) (a : CellAddr) (w : Word16) (h : Orderly s t) :
    Orderly s (deliverCell acc a w t) := by
  unfold deliverCell
  split
  · split
    · exact loaderResumes_orderly h
    · exact resolveCell_orderly w h
  · exact hostCellDone_orderly a w h
  · split
    · exact moverAbandonedDone_orderly h
    · split
      · unfold moverReadDone
        split <;> exact h.quiet rfl
      · exact moverWriteDone_orderly h

theorem cellPortComplete_orderly (h : Orderly s t) : Orderly s (cellPortComplete t) := by
  have hgrant : ∀ {u}, Orderly s u → Orderly s (arrayGrant (cellGrant u)) := fun hu => arrayGrant_orderly (hu.quiet rfl)
  unfold cellPortComplete
  split
  · exact h
  · refine hgrant ?_
    split <;> exact deliverCell_orderly _ _ _ (h.quiet rfl)

/-! ## The service load port -/

theorem lowRun_orderly (n : Nat) (h : Orderly s t) : Orderly s (lowRun n t) := by
  unfold lowRun
  split
  · split
    · split
      · exact h.quiet rfl
      · split
        · exact queueItem_orderly _ (h.quiet rfl)
        · exact h.quiet rfl
    · exact h.quiet rfl
  · exact h

theorem refuseRecord_orderly (e : ErrCode) (h : Orderly s t) : Orderly s (refuseRecord e t) :=
  queueN_orderly _ _ (h.quiet rfl)

theorem storeByte_orderly (b : Byte) (h : Orderly s t) : Orderly s (storeByte b t) := by
  have hstored : Orderly s (t.withSvc fun v => { v with buffer := t.svc.buffer ++ [b], byteTimer := true }) := h.quiet rfl
  unfold storeByte
  dsimp only
  split
  · exact refuseRecord_orderly _ hstored
  · split
    · unfold judgeRecord
      split
      · exact refuseRecord_orderly _ hstored
      · split
        · exact refuseRecord_orderly _ hstored
        · split
          · exact hstored.quiet rfl
          · exact refuseRecord_orderly _ hstored
    · exact hstored

theorem byteReceived_orderly (b : Byte) (h : Orderly s t) : Orderly s (byteReceived b t) := by
  unfold byteReceived
  split
  case h_5 => exact storeByte_orderly b h
  case h_3 | h_4 => split <;> exact h.quiet rfl
  all_goals exact h.quiet rfl

theorem framingError_orderly (h : Orderly s t) : Orderly s (framingError t) := by
  unfold framingError
  split <;> exact h.quiet rfl

theorem confirmTimeout_orderly (h : Orderly s t) : Orderly s (confirmTimeout t) := by
  unfold confirmTimeout
  split <;> exact h.quiet rfl

theorem interByteTimeout_orderly (h : Orderly s t) : Orderly s (interByteTimeout t) := by
  unfold interByteTimeout
  split
  · exact refuseRecord_orderly _ h
  · exact h

theorem serviceBreak_orderly (h : Orderly s t) : Orderly s (serviceBreak t) := by
  have hdiscard : Orderly s (discardWaiting t) := by
    unfold discardWaiting
    split
    · exact h
    · dsimp only
      split
      · exact ackHalt_orderly (h.quiet rfl)
      · exact h.quiet rfl
  unfold serviceBreak
  split
  · exact hdiscard.quiet rfl
  · exact h

/-- A record submits only what is not refused; the other records are answered, or wait. -/
theorem actRecord_orderly (r : Record) (h : Orderly s t) : Orderly s (actRecord r t) := by
  unfold actRecord
  split
  · unfold submitRecord
    split
    · exact enqueue_orderly _ _ (h.quiet rfl) ‹_›
    · exact queueN_orderly _ _ (h.quiet rfl)
    · exact queueN_orderly _ _ (h.quiet rfl)
    · exact h.quiet rfl
  · split
    · exact h.quiet rfl
    · split
      · exact queueK_orderly _ _ (h.quiet rfl)
      · unfold answerE
        split
        · exact queueN_orderly _ _ (h.quiet rfl)
        · exact queueK_orderly _ _ (h.quiet rfl)

theorem actDue_orderly (p : Record → Bool) (h : Orderly s t) : Orderly s (actDue p t) := by
  unfold actDue
  split
  · split
    · exact actRecord_orderly _ (h.quiet rfl)
    · exact h
  · exact h

theorem actHeld_orderly (h : Orderly s t) : Orderly s (actHeld t) := by
  unfold actHeld
  split
  · exact actRecord_orderly _ (h.quiet rfl)
  · exact h

theorem startUpScanEnd_orderly (h : Orderly s t) : Orderly s (startUpScanEnd t) := by
  have hend : ∀ p, Orderly s (finishScan p t) := by
    intro p
    have hstarted : Orderly s (startHead (t.scanTaken p)) :=
      startHead_orderly (Orderly.next (t := t) h rfl fun ⟨hq, hr, _⟩ => ⟨hq, hr, nofun⟩)
    rw [finishScan_eq]
    split <;> exact hstarted.quiet rfl
  unfold startUpScanEnd
  split
  · unfold actStartupWait
    split
    · exact actRecord_orderly _ ((hend _).quiet rfl)
    · exact hend _
  · exact h

theorem transmissionEnd_orderly (h : Orderly s t) : Orderly s (transmissionEnd t) := by
  have hsent : ∀ it {u}, Orderly s u → Orderly s (itemSent it u) := by
    intro it u hu
    unfold itemSent
    split
    · split <;> exact hu.quiet rfl
    · rename_i acks closes
      have hack : Orderly s (if acks then ackHalt u else u) := by
        split
        · exact ackHalt_orderly hu
        · exact hu
      dsimp only
      generalize (if acks then ackHalt u else u) = v at hack ⊢
      split <;> exact hack.quiet rfl
  have hfree : Orderly s { t with svc := { t.svc with sending := none } } := h.quiet rfl
  unfold transmissionEnd
  split
  · exact h
  · unfold sendWaiting
    split <;> exact (hsent _ hfree).quiet rfl

/-! ## The host window -/

theorem displayReset_orderly (h : Orderly s t) : Orderly s (displayReset t) := (stopDisplay_orderly h).quiet rfl

theorem moverStart_orderly (h : Orderly s t) : Orderly s (moverStart t) := by
  unfold moverStart
  dsimp only
  (repeat' split) <;> exact h.quiet rfl

theorem moverAbort_orderly (h : Orderly s t) : Orderly s (moverAbort t) := by
  unfold moverAbort
  (repeat' split) <;> exact h.quiet rfl

theorem swapList_orderly (h : Orderly s t) : Orderly s (swapList t) := by
  unfold swapList
  split <;> exact h.quiet rfl

theorem command_orderly (code : Byte) (h : Orderly s t) : Orderly s (command code t) := by
  unfold command
  split
  · exact displayReset_orderly h
  · exact hostSubmit_orderly h
  · exact popResult_orderly h
  · exact ackHalt_orderly h
  · exact storeAbort_orderly h
  · exact moverStart_orderly h
  · exact moverAbort_orderly h
  · exact swapList_orderly h
  · exact h.quiet rfl

theorem acceptIf_orderly (c : Bool) (f : Control → Control) (h : Orderly s t) : Orderly s (acceptIf c f t) := by
  unfold acceptIf
  split <;> exact h.quiet rfl

theorem controlWrite_orderly (a : Nat) (v : Byte) (h : Orderly s t) : Orderly s (controlWrite a v t) := by
  unfold controlWrite
  split
  case h_1 => exact writeDispctl_orderly v h
  case h_3 =>
    unfold panelwHighWrite
    exact acceptIf_orderly _ _ (h.quiet rfl)
  case h_4 | h_5 | h_6 | h_7 | h_8 | h_9 | h_12 => exact acceptIf_orderly _ _ h
  case h_13 =>
    unfold headpendWrite
    split <;> exact h.quiet rfl
  all_goals exact h.quiet rfl

/-- Of the DATA writes only one of DISPCTL reaches anything beyond the tables, the registers and the cell port. -/
theorem spaceWrite_orderly (v : Byte) (h : Orderly s t) : Orderly s (spaceWrite v t) := by
  unfold spaceWrite cellLowWrite cellHighWrite patchWrite compWrite
  dsimp only
  split
  · exact (controlWrite_orderly _ v h).quiet rfl
  all_goals (repeat' split) <;> exact h.quiet rfl

theorem dataWrite_orderly (v : Byte) (h : Orderly s t) : Orderly s (dataWrite v t) := by
  unfold dataWrite
  split
  · exact h.quiet rfl
  · split
    · exact h.quiet rfl
    · exact spaceWrite_orderly v h

theorem dataRead_orderly (h : Orderly s t) : Orderly s (dataRead t) := by
  unfold dataRead spaceRead captureRead cellHighRead
  dsimp only
  (repeat' split) <;> exact h.quiet rfl

theorem takeAccess_orderly (x : Access) (h : Orderly s t) : Orderly s (takeAccess x t) := by
  unfold takeAccess
  split
  · unfold takeRead flagRead
    split
    case h_5 => exact dataRead_orderly h
    case h_6 | h_7 => split <;> exact h.quiet rfl
    all_goals exact h.quiet rfl
  · unfold takeWrite unlessService spaceSelect clearFlags
    split
    case h_1 =>
      split
      · exact h.quiet rfl
      · exact command_orderly _ h
    case h_5 => exact dataWrite_orderly _ h
    all_goals (repeat' split) <;> exact h.quiet rfl

theorem strobe_orderly (x : Access) (h : Orderly s t) : Orderly s (strobe x t) := by
  unfold strobe
  split
  · exact h.quiet rfl
  · exact takeAccess_orderly x h

theorem heldAccess_orderly (h : Orderly s t) : Orderly s (heldAccess t) := by
  unfold heldAccess
  split
  · exact takeAccess_orderly _ (h.quiet rfl)
  · exact h

/-! ## Every command -/

/-- A step of the part answers a next state, with the queues in order when its effect keeps them so. -/
theorem occur_orderly {f : State → State} (hf : ∀ {s t}, Orderly s t → Orderly s (f t)) (s : State) :
    ∃ t, occur f s = .next t ∧ Orderly s t := by
  refine ⟨_, occur_next f s, ?_⟩
  split
  · exact .refl s
  · exact hf (takeLatch_orderly (.refl s))

theorem occurAccess_orderly {f : State → State} (hf : ∀ {s t}, Orderly s t → Orderly s (f t)) (x : Option Access)
    (s : State) : ∃ t, occurAccess x f s = .next t ∧ Orderly s t := by
  unfold occurAccess
  split
  · refine ⟨_, rfl, ?_⟩
    split
    · exact .refl s
    · exact takeLatch_orderly (hf (.refl s))
  · exact occur_orderly hf s

/-- Every command answers a next state and keeps the queues in order. -/
theorem exec_orderly (c : Instr) (s : State) : ∃ t, exec c s = .next t ∧ Orderly s t := by
  cases c with
  | powerOn => exact ⟨_, rfl, powerOn_orderly (.refl s)⟩
  | reset => exact ⟨_, rfl, resetPart_orderly (.refl s)⟩
  | resetRelease load => exact ⟨_, rfl, releaseReset_orderly load (.refl s)⟩
  | lowvAsserted => exact ⟨_, rfl, lowvAsserted_orderly (.refl s)⟩
  | lowvReleased => exact ⟨_, rfl, (Orderly.refl s).quiet rfl⟩
  | frameStart => exact occur_orderly frameStart_orderly s
  | lineStart => exact occur_orderly lineStart_orderly s
  | endOfTheActiveDots => exact occur_orderly endActiveDots_orderly s
  | displayEnable _ | displayDisable _ | displayReset | swapList | submit | popResult | ackHalt | storeAbort
  | moverStart | moverAbort | badCommand _ | registerWrite _ _ | panelwLowByteWrite _ | panelwHighByteWrite _
  | framecntLowByteRead | framecntHighByteRead | mvdoneLowByteRead | mvdoneHighByteRead | cellLowByteWrite _
  | cellHighByteWrite _ | cellLowByteRead | cellHighByteRead | descriptorByteWrite _ | attributeByteWrite _
  | patchSlotWrite _ | iflagClear _ _ | winfaultClear _ | dataRead | iflagRead _ =>
    exact occurAccess_orderly (strobe_orderly _) _ s
  | heldWindowAccess => exact occurAccess_orderly heldAccess_orderly _ s
  | cellPortComplete => exact occur_orderly cellPortComplete_orderly s
  | arrayReadComplete => exact occur_orderly arrayReadComplete_orderly s
  | programPulseComplete => exact occur_orderly programPulseComplete_orderly s
  | pulseLimitReached => exact occur_orderly pulseLimitReached_orderly s
  | eraseSubpulseComplete => exact occur_orderly eraseSubpulseComplete_orderly s
  | subpulseBudgetSpent => exact occur_orderly subpulseBudgetSpent_orderly s
  | storeCommandStart => exact occur_orderly startIfDue_orderly s
  | cmdBegin => exact occur_orderly stepBegin_orderly s
  | beginChooseAgain => exact occur_orderly stepChooseAgain_orderly s
  | cmdClone => exact occur_orderly stepClone_orderly s
  | cmdProgram => exact occur_orderly stepProgram_orderly s
  | cmdCommit => exact occur_orderly stepCommit_orderly s
  | cmdAbandon => exact occur_orderly stepAbandon_orderly s
  | cmdScrub => exact occur_orderly stepScrub_orderly s
  | cmdReadglyph => exact occur_orderly stepReadglyph_orderly s
  | cmdCheck => exact occur_orderly stepCheck_orderly s
  | badKind => exact occur_orderly stepBadKind_orderly s
  | startUpScanEnd => exact occur_orderly startUpScanEnd_orderly s
  | lowRun n => exact occur_orderly (lowRun_orderly n) s
  | byteReceived b => exact occur_orderly (byteReceived_orderly b) s
  | framingError => exact occur_orderly framingError_orderly s
  | serviceBreak => exact occur_orderly serviceBreak_orderly s
  | interByteTimeout => exact occur_orderly interByteTimeout_orderly s
  | confirmTimeout => exact occur_orderly confirmTimeout_orderly s
  | bRecord | cRecord | gRecord | mRecord | aRecord | qRecord | eRecord => exact occur_orderly (actDue_orderly _) s
  | heldRecord => exact occur_orderly actHeld_orderly s
  | transmissionEnd => exact occur_orderly transmissionEnd_orderly s

/-- Settles O56: an idle step changes nothing, and every command keeps the queues in order. -/
theorem everyStepKeepsTheQueuesWithinBounds : Obligations.EveryStepKeepsTheQueuesWithinBounds := by
  intro s t hs h
  unfold step at h
  split at h
  · cases h; exact hs
  · rename_i c rest _
    obtain ⟨u, hu, hk⟩ := exec_orderly c { s with pending := rest }
    rw [h, Host.Outcome.next.injEq] at hu
    exact hu ▸ hk.fit hs

/-- Settles O2: no command faults or is refused, and none reaches the commands that wait. -/
theorem everyCommandAnswersANextState : Obligations.EveryCommandAnswersANextState := by
  intro c s
  obtain ⟨t, ht, hk⟩ := exec_orderly c s
  exact ⟨t, ht, hk.pending⟩

end Sys2Proof.Machine
end

section
/-! SUPPORT. Submission, POP, the start of the head command and the checks of a started command, and the store records of the
loader (R119 to R124, R126 to R137, R160). -/

namespace Sys2Proof.Machine

variable {s : State}

/-! ## The start that is due -/

theorem startDue_iff : s.startDue = true ↔
    s.store.engine = .idle ∨ (s.store.engine = .waiting ∧ s.store.wait = .resultSpace) := by simp [State.startDue]

theorem startIfDue_due (h : s.startDue = true) : startIfDue s = startHead s := if_pos h

theorem startIfDue_notDue (h : ¬s.startDue = true) : startIfDue s = s := if_neg h

/-- A start in an idle engine with an empty queue changes nothing, whether or not a command is in flight. -/
theorem startHead_rests (he : s.store.engine = .idle) (hw : s.store.wait = .none) (hq : s.store.queue = []) :
    startHead s = s := by
  cases hf : s.store.inFlight with
  | some f => exact startHead_busy hf
  | none => rw [startHead_empty hf hq, ← he, ← hw]

/-! ## POP RESULT and ACK HALT -/

theorem popResult_empty (h : s.store.results = []) : popResult s = refuse .resultEmpty s := by
  unfold popResult; rw [h]

theorem popResult_head {r : ResultRec} {rest : List ResultRec} (h : s.store.results = r :: rest) :
    popResult s = startIfDue { s with store := { s.store with results := rest } } := by
  unfold popResult; rw [h]

/-- Settles O18, by what the freed place lets start. -/
theorem popFreesAPlaceAndAckEndsTheHalt : Obligations.PopFreesAPlaceAndAckEndsTheHalt := by
  refine ⟨fun s h hr => ?_, fun s r rest h hr hw he => ?_, fun s r rest h hr he hw hq => ?_,
    fun s r rest e q h hr hlen he hw hf hq => ?_, fun s h he => ?_, fun s h he => ?_⟩
  · exact (strobe_command h 3).trans (congrArg _ (popResult_empty hr))
  all_goals refine (strobe_command h _).trans (congrArg _ ?_)
  · refine (popResult_head hr).trans (startIfDue_notDue fun hdue => ?_)
    rcases startDue_iff.1 hdue with hidle | ⟨hwait, hspace⟩
    · exact he hidle
    · exact hw.elim (absurd hwait) (absurd hspace)
  · refine (popResult_head hr).trans ((startIfDue_due (startDue_iff.2 (.inl ?_))).trans ?_)
    · exact he
    · exact startHead_rests (by exact he) (by exact hw) (by exact hq)
  · refine (popResult_head hr).trans ((startIfDue_due (startDue_iff.2 (.inr ?_))).trans ?_)
    · exact ⟨he, hw⟩
    · exact startHead_head (by exact hf) (by exact hq) (by exact hlen)
  · exact if_pos he
  · exact if_neg he

/-! ## The composed command -/

/-- Bit `i` of the number that bytes hold is bit `i % 8` of byte `i / 8`. -/
theorem natOfBytes_testBit (l : List Byte) (i : Nat) :
    (natOfBytes l).testBit i = (byteAt l (i / 8)).getLsbD (i % 8) := by
  induction l generalizing i with
  | nil => simp [natOfBytes, byteAt]
  | cons v vs ih =>
    have hnum : natOfBytes (v :: vs) = 2 ^ 8 * natOfBytes vs + v.toNat := Nat.add_comm _ _
    rw [hnum, Nat.testBit_two_pow_mul_add _ v.isLt]
    split
    · rename_i hi
      rw [Nat.div_eq_of_lt hi, Nat.mod_eq_of_lt hi]
      rfl
    · rename_i hi
      obtain ⟨k, rfl⟩ := Nat.exists_eq_add_of_le' (Nat.le_of_not_lt hi)
      rw [Nat.add_sub_cancel, ih, Nat.add_div_right k (by decide), Nat.add_mod_right]
      rfl

/-- The bytes of a field of the composition space, as the host reads them. -/
theorem byteAt_compBytes (s : State) {k n j : Nat} (hj : j < n) (hk : k + n ≤ 29) :
    byteAt (s.store.compBytes k n) j = s.compByte (k + j) := by
  have hlt : k + j ≠ 29 := by omega
  simp [Store.compBytes, State.compByte, byteAt, hlt, List.getD_eq_getElem?_getD, hj]

/-- The mask of CLONE is read from its eight bytes, least significant first (R119, layout of space 5). -/
theorem skipMask_compBytes (s : State) {i : Nat} (hi : i < 64) :
    (skipMask (s.store.compBytes 5 8)).getLsbD i = (s.compByte (5 + i / 8)).getLsbD (i % 8) := by
  have hall : (s.store.compBytes 5 8).take 8 = s.store.compBytes 5 8 := by
    simp [Store.compBytes, List.take_take]
  rw [skipMask, hall, BitVec.getLsbD_ofNat, natOfBytes_testBit, byteAt_compBytes s (by omega) (by decide)]
  simp [hi]

/-- The composed command copies the fields that its kind uses, and no others (R119, R120). -/
theorem composed_copies (s : State) : s.copies s.store.composed := by
  have hkind : (s.compByte 0).toNat = (byteAt s.store.comp.toList 0).toNat := rfl
  unfold State.copies Store.composed
  dsimp only
  rw [hkind]
  refine ⟨fun h => ?_, fun h => ?_, fun h => ?_, fun h => ?_, fun h => ?_, fun h => ?_, fun h => ?_, fun h => ?_,
    fun h => ?_⟩
  case refine_9 =>
    split
    case h_9 => rfl
    all_goals omega
  all_goals rw [h]
  case refine_2 => exact ⟨_, rfl, fun i hi => skipMask_compBytes s hi⟩
  case refine_3 =>
    refine congrArg _ (eq_of_byteAt (by simp [Store.compBytes]) fun k hk => ?_)
    have hk : k < 16 := by simpa [Store.compBytes] using hk
    rw [byteAt_compBytes s hk (by decide)]
    simp [byteAt, hk]
  all_goals rfl

/-! ## SUBMIT -/

/-- An accepted SUBMIT puts the composed command at the tail of the queue, and makes the start that is due. -/
theorem hostSubmit_accepted (h : s.submitRefusal .host = none) : hostSubmit s = startIfDue { s with
    store := { s.store with
      queue := s.store.queue ++
        [{ kind := s.compByte 0, seq := s.store.seq, submitter := .host, body := s.store.composed }]
      seq := s.store.seq + 1, compSeq := s.store.seq } } := by
  unfold hostSubmit
  rw [h]
  rfl

theorem hostSubmit_refused {c : WinFault} (h : s.submitRefusal .host = some c) : hostSubmit s = refuse c s := by
  unfold hostSubmit
  rw [h]

theorem submitRefusal_owned {who : Submitter} (h : s.store.owner ≠ who) : s.submitRefusal who = some .portOwned :=
  if_pos h

theorem submitRefusal_halted {who : Submitter} (ho : s.store.owner = who) (h : s.store.engine = .halted) :
    s.submitRefusal who = some .queueHalted := by simp [State.submitRefusal, ho, h]

theorem submitRefusal_full {who : Submitter} (ho : s.store.owner = who) (he : s.store.engine ≠ .halted)
    (h : 4 ≤ s.store.queue.length) : s.submitRefusal who = some .queueFull := by simp [State.submitRefusal, ho, he, h]

/-- Settles O17: the refusals by the check that makes them, and an accepted entry by the start that is due. -/
theorem submitQueuesTheComposedCommand : Obligations.SubmitQueuesTheComposedCommand := by
  refine ⟨fun s h ho => ?_, fun s h ho he => ?_, fun s h ho he hq => ?_, fun s h ho he hq =>
    ⟨s.store.composed, composed_copies s, fun hdue => ?_, fun hdue hf hr => ?_, fun e q hdue hf hr hcons => ?_⟩⟩
  all_goals refine (strobe_command h 2).trans (congrArg _ ?_)
  · exact hostSubmit_refused (submitRefusal_owned ho)
  · exact hostSubmit_refused (submitRefusal_halted ho he)
  · exact hostSubmit_refused (submitRefusal_full ho he hq)
  all_goals refine (hostSubmit_accepted (submitRefusal_eq_none.2 ⟨ho, he, hq⟩)).trans ?_
  · exact startIfDue_notDue (mt startDue_iff.1 hdue)
  · refine (startIfDue_due (startDue_iff.2 (by exact hdue))).trans ?_
    exact startHead_full (by exact hf) (by simp) (by exact hr)
  · refine (startIfDue_due (startDue_iff.2 (by exact hdue))).trans ?_
    exact startHead_head (by exact hf) (by exact hcons) (by exact hr)

/-! ## The start of a command and its checks -/

theorem endFailed_scan {f : InFlight} (e : ErrCode) (p : Option Bank) (d : Word16) (hf : s.store.inFlight = some f)
    (ho : s.svc.outstanding = none) : (endFailed e p d s).scan = s.scan := by
  rw [endFailed_eq e p d hf ho, raise_scan, setEngine_scan, discardQueue, qspaceFrom]
  split <;> rfl

/-- Settles O44: the start by the place that is free, and a failed check by the failure that it ends in. -/
theorem startedCommandsAreChecked : Obligations.StartedCommandsAreChecked := by
  refine ⟨fun s e q hr hdue hf hq hroom => ?_, fun s hr hdue hf hq hfull => ?_, fun s hr hdue hf hq => ?_,
    fun s c f e hr hf hst ho hfails => ?_⟩
  · exact occur_to hr ((startIfDue_due hdue).trans (startHead_head hf hq hroom))
  · exact occur_to hr ((startIfDue_due hdue).trans (startHead_full hf hq hfull))
  · exact occur_to hr ((startIfDue_due hdue).trans (startHead_empty hf hq))
  · obtain ⟨hrest, -, hport⟩ := endFailed_sameRest e none 0 hf ho
    have hside := storeSide_endFailed e none 0 s
    exact ⟨_, failsCheck_eq hr hf hst hfails, endFailed_halts e none 0 hf ho, hrest.staging, hrest.roles, hrest.storeMap,
      hrest.journal, hside.array, hport, endFailed_scan e none 0 hf ho, hside.cells, hside.win⟩

/-! ## The store records of the loader -/

/-- What a store record is acted on from: `s` with its record taken out of the service port, by the row `c`. -/
structure Service.Taken (v w : Service) (c : Instr) : Prop where
  sending : w.sending = v.sending
  state : w.state = v.state
  inputDropped : w.inputDropped = v.inputDropped
  replyLost : w.replyLost = v.replyLost
  due : c ≠ .heldRecord → w.due = none
  held : c = .heldRecord → w.held = none

theorem actDue_kind {isKind : Record → Bool} {r : Record} (h : s.svc.due = some r) (hk : isKind r = true) :
    actDue isKind s = actRecord r (s.withSvc fun v => { v with due := none }) := by
  unfold actDue
  rw [h]
  exact if_pos hk

/-- The row of a store record acts on it when it is due, as its command says. -/
theorem storeRow_acts {c : Instr} {r : Record} {kind : Byte} {body : CmdBody} (h : storeRow c r = some (kind, body)) :
    r.command = some (kind, body) ∧ c ≠ .heldRecord ∧ ∀ s : State, s.released → s.svc.due = some r →
      exec c s = .next (actRecord r (s.withSvc fun v => { v with due := none })) := by
  cases c
  case bRecord | cRecord | gRecord | mRecord | aRecord =>
    cases r
    all_goals cases h
    exact ⟨rfl, nofun, fun s hs hdue => occur_to hs (actDue_kind hdue rfl)⟩
  all_goals cases h

theorem actRecord_command {r : Record} {kind : Byte} {body : CmdBody} (h : r.command = some (kind, body)) (u : State) :
    actRecord r u = submitRecord kind body u := by
  unfold actRecord
  rw [h]

/-- A store record that is due, or held behind a SILENT command that has ended, submits its command. -/
theorem storeRecord_submits {c : Instr} {r : Record} {kind : Byte} {body : CmdBody} (hs : s.released)
    (h : (storeRow c r = some (kind, body) ∧ s.svc.due = some r) ∨
      (c = .heldRecord ∧ s.svc.held = some r ∧ s.svc.outstanding = none ∧ ∃ c', storeRow c' r = some (kind, body))) :
    ∃ w, s.svc.Taken w c ∧ exec c s = .next (submitRecord kind body { s with svc := w }) := by
  rcases h with ⟨hrow, hdue⟩ | ⟨rfl, hheld, hout, c', hrow⟩
  · obtain ⟨hcmd, hc, hexec⟩ := storeRow_acts hrow
    refine ⟨{ s.svc with due := none }, ⟨rfl, rfl, rfl, rfl, fun _ => rfl, fun he => absurd he hc⟩, ?_⟩
    rw [hexec s hs hdue, actRecord_command hcmd]
    rfl
  · obtain ⟨hcmd, -, -⟩ := storeRow_acts hrow
    refine ⟨{ s.svc with held := none }, ⟨rfl, rfl, rfl, rfl, fun hc => absurd rfl hc, fun _ => rfl⟩, occur_to hs ?_⟩
    unfold actHeld
    rw [hheld, hout]
    exact actRecord_command hcmd _

/-- An accepted submission of the loader is outstanding with the mark REPLY, and makes the start that is due. -/
theorem submitRecord_accepted (kind : Byte) (body : CmdBody) (h : s.submitRefusal .loader = none) :
    submitRecord kind body s = startIfDue { s with
      store := { s.store with
        queue := s.store.queue ++ [{ kind := kind, seq := s.store.seq, submitter := .loader, body := body }]
        seq := s.store.seq + 1 }
      svc := { s.svc with outstanding := some (s.store.seq, .reply) } } := by
  unfold submitRecord
  rw [h]
  rfl

theorem submitRecord_halted (kind : Byte) (body : CmdBody) (h : s.submitRefusal .loader = some .queueHalted) :
    submitRecord kind body s = queueN .queueHalted false (toReady s) := by
  unfold submitRecord
  rw [h]

theorem submitRecord_full (kind : Byte) (body : CmdBody) (h : s.submitRefusal .loader = some .queueFull) :
    submitRecord kind body s = queueN .queueFull false (toReady s) := by
  unfold submitRecord
  rw [h]

/-- The N reply to a refused submission begins in READY, with the notes of the state before the record was taken. -/
theorem queueN_toReady {w : Service} {c : Instr} (e : ErrCode) (hw : s.svc.Taken w c) (h : s.svc.sending = none) :
    (queueN e false (toReady { s with svc := w })).store = s.store ∧
      (queueN e false (toReady { s with svc := w })).svc.state = .ready ∧
      s.repliesN (queueN e false (toReady { s with svc := w })) e := by
  have hidle : (toReady { s with svc := w }).svc.sending = none := hw.sending.trans h
  obtain ⟨hreplies, hlast⟩ := queueN_repliesN e false hidle
  refine ⟨?_, ?_, hreplies.from hw.inputDropped hw.replyLost, hlast⟩
  · rw [queueN, queueItem_idle _ (by exact hidle)]
    rfl
  · rw [queueN, queueItem_idle _ (by exact hidle)]
    rfl

/-- Settles O53: a record that is due and a held one submit alike, and each outcome of the submission is one clause. -/
theorem storeRecordsSubmit : Obligations.StoreRecordsSubmit := by
  intro s c r kind body hs hrec ho
  obtain ⟨w, hw, hexec⟩ := storeRecord_submits hs hrec
  rw [hexec]
  refine ⟨fun hq he => ⟨_, rfl, ?_⟩, fun hq he hf hr => ⟨_, rfl, ?_⟩, fun he hsend => ⟨_, rfl, ?_⟩,
    fun he hq hsend => ⟨_, rfl, ?_⟩⟩
  · have hnot : ¬(s.store.engine = .idle ∨ (s.store.engine = .waiting ∧ s.store.wait = .resultSpace)) := by
      rcases he with he | he | ⟨he, hwait⟩ <;> simp [*]
    have hrun : s.store.engine ≠ .halted := by
      rcases he with he | he | ⟨he, -⟩ <;> simp [he]
    rw [submitRecord_accepted _ _ (submitRefusal_eq_none.2 (by exact ⟨ho, hrun, hq⟩)),
      startIfDue_notDue (mt startDue_iff.1 (by exact hnot))]
    exact ⟨rfl, rfl, hw.state, hw.sending, hw.due, hw.held⟩
  · have hlen : s.store.queue.length < 4 := by simp [hq]
    have hrun : s.store.engine ≠ .halted := by simp [he]
    rw [submitRecord_accepted _ _ (submitRefusal_eq_none.2 (by exact ⟨ho, hrun, hlen⟩)),
      startIfDue_due (startDue_iff.2 (.inl (by exact he))),
      startHead_head (q := s.store.queue) (by exact hf) (by rw [hq]; rfl) (by exact hr)]
    exact ⟨rfl, rfl, hw.state⟩
  · rw [submitRecord_halted _ _ (submitRefusal_halted (by exact ho) (by exact he))]
    exact queueN_toReady _ hw hsend
  · rw [submitRecord_full _ _ (submitRefusal_full (by exact ho) (by exact he) (by exact hq))]
    exact queueN_toReady _ hw hsend

end Sys2Proof.Machine
end

section
/-! SUPPORT. The host's writes at the window: SPACE and the address, the enables, the locations that are read-only, the
composition space, and the DATA writes that are refused whole (R119, R153, R166 to R168, R174). -/

namespace Sys2Proof.Machine

variable {s : State}

/-- The locations of the control block that hold no register the host writes. -/
theorem controlWrite_readOnly {a : Nat} (v : Byte) (s : State) (h : a = 12 ∨ (16 ≤ a ∧ a ≤ 21) ∨ 31 ≤ a) :
    controlWrite a v s = refuse .readOnly s := by
  unfold controlWrite
  split
  case h_25 => rfl
  all_goals omega

/-- A byte of the composition space that is written takes the value, and the others stay. -/
theorem compByte_set (s : State) {a : Nat} (v : Byte) (ha : a < 29) (b : Nat) :
    State.compByte { s with store := { s.store with comp := s.store.comp.setIfInBounds a v } } b =
      if b = a then v else s.compByte b := by
  unfold State.compByte byteAt
  by_cases hb : b = a
  · subst hb
    simp [ha, Nat.ne_of_lt ha, List.getD_eq_getElem?_getD]
  · simp [hb, List.getD_eq_getElem?_getD, List.getElem?_set_ne (Ne.symm hb)]

theorem compWrite_field {a : Nat} (v : Byte) (s : State) (ha : a < 29) :
    compWrite a v s = { s with store := { s.store with comp := s.store.comp.setIfInBounds a v } } :=
  if_neg (by omega)

/-- A DATA write of the composition space is judged there, and the address steps. -/
theorem strobe_comp {a : Nat} (h : s.dataAt 5 a) (ha : a < 30) (v : Byte) :
    occurStrobe (.write 4 v) s = .next (stepAddr (compWrite a v s)) := by
  rw [strobe_dataWrite h ha]
  obtain ⟨-, hs, hw⟩ := h
  simp [spaceWrite, hs, hw]

/-- Every location of the result space and of the status space is read-only (R167). -/
theorem strobe_readOnlySpace {sp : BitVec 3} {a : Nat} (h : s.dataAt sp a) (ha : a < spaceSize sp) (hsp : 6 ≤ sp.toNat)
    (v : Byte) : occurStrobe (.write 4 v) s = .next (stepAddr (refuse .readOnly s)) := by
  rw [strobe_dataWrite h ha]
  obtain ⟨-, hs, -⟩ := h
  unfold spaceWrite
  rw [hs]
  dsimp only
  split
  case h_7 => rfl
  all_goals omega

/-- Settles O24, port by port, and the DATA writes by service mode, range and space. -/
theorem windowWritesAreJudged : Obligations.WindowWritesAreJudged := by
  refine ⟨fun s v h => ?_, fun s v h hp => ?_, fun s v h => strobe_taken h _, fun s v h => strobe_taken h _,
    fun s v h => strobe_control h (by decide) v, fun s v h => strobe_control h (by decide) v,
    fun s v a h ha hro => ?_, fun s v a h ha => ?_, fun s v h => strobe_comp h (by decide) v, fun s v a h => ?_,
    fun s v h hrange => ?_, fun s v h hp => ?_⟩
  · refine (strobe_taken h.1 _).trans (congrArg _ (if_neg ?_))
    simp [h.2]
  · refine (strobe_taken h _).trans (congrArg _ ?_)
    show spaceSelect v s = _
    unfold spaceSelect
    by_cases hv : v = 7
    · subst hv
      simp
    · rw [if_pos ⟨hp, hv⟩, if_neg hv]
  · rw [← controlWrite_readOnly v s hro]
    exact strobe_control h ha v
  · refine ⟨stepAddr { s with store := { s.store with comp := s.store.comp.setIfInBounds a v } }, ?_, ?_, ?_, rfl⟩
    · exact (strobe_comp h (by omega) v).trans (by rw [compWrite_field v s ha])
    · exact (compByte_set s v ha a).trans (if_pos rfl)
    · exact fun b hb => (compByte_set s v ha b).trans (if_neg hb)
  · rcases h with ⟨h, ha⟩ | ⟨h, ha⟩
    · exact strobe_readOnlySpace h ha (by decide) v
    · exact strobe_readOnlySpace h ha (by decide) v
  · refine (strobe_taken h.1 _).trans (congrArg _ ?_)
    show dataWrite v s = _
    rw [dataWrite, if_neg (by simp [h.2]), if_pos hrange]
  · exact (strobe_taken h _).trans (congrArg _ (if_pos hp))

end Sys2Proof.Machine
end

section
/-! SUPPORT. The characters that the service load port receives: what each state of the loader does with one, the checks of a
whole record in their order, and the acceptance of a record (R156 to R161). -/

namespace Sys2Proof.Machine

variable {s : State}

/-! ## By the loader's state -/

theorem byteReceived_confirmed (h : s.svc.state = .confirm) (ht : s.svc.confirmTimer = true) :
    byteReceived 0xA5 s = raise .service (s.withSvc fun v => { v with state := .ready, confirmTimer := false }) := by
  unfold byteReceived
  rw [h]
  exact if_pos ⟨ht, rfl⟩

theorem byteReceived_notConfirmed {b : Byte} (h : s.svc.state = .confirm) (hb : s.svc.confirmTimer = false ∨ b ≠ 0xA5) :
    byteReceived b s = backToSync s := by
  unfold byteReceived
  rw [h]
  refine if_neg fun ⟨htimer, hbyte⟩ => ?_
  rcases hb with hoff | hne
  · simp [hoff] at htimer
  · exact hne hbyte

theorem byteReceived_ready (b : Byte) (h : s.svc.state = .ready) :
    byteReceived b s =
      if b = 0x7E then s.withSvc fun v => { v with state := .receiving, buffer := [], byteTimer := true } else s := by
  unfold byteReceived
  rw [h]

theorem byteReceived_receiving (b : Byte) (h : s.svc.state = .receiving) : byteReceived b s = storeByte b s := by
  unfold byteReceived
  rw [h]

theorem byteReceived_executing (b : Byte) (h : s.svc.state = .executing) :
    byteReceived b s = s.withSvc fun v => { v with inputDropped := true } := by
  unfold byteReceived
  rw [h]

/-! ## The checks of a whole record -/

/-- The seven kinds of records have their payload lengths (R158). -/
theorem recordLength_known {k : Byte} {n : Nat}
    (h : (k, n) ∈ [((0x42 : Byte), 1), (0x43, 8), (0x47, 17), (0x4D, 0), (0x41, 0), (0x51, 0), (0x45, 0)]) :
    recordLength k = some n := by
  simp only [List.mem_cons, Prod.mk.injEq, List.not_mem_nil, or_false] at h
  rcases h with ⟨rfl, rfl⟩ | ⟨rfl, rfl⟩ | ⟨rfl, rfl⟩ | ⟨rfl, rfl⟩ | ⟨rfl, rfl⟩ | ⟨rfl, rfl⟩ | ⟨rfl, rfl⟩
  all_goals rfl

/-- No other kind has one. -/
theorem recordLength_unknown : ∀ {k : Byte}, k ∉ [(0x42 : Byte), 0x43, 0x47, 0x4D, 0x41, 0x51, 0x45] →
    recordLength k = none := by decide

theorem judgeRecord_badCheck {l : List Byte} (h : byteSum l ≠ 0) : judgeRecord l s = refuseRecord .badCheck s := if_pos h

theorem judgeRecord_badKind {l : List Byte} (h : byteSum l = 0) (hk : recordLength (byteAt l 0) = none) :
    judgeRecord l s = refuseRecord .badKind s := by
  unfold judgeRecord
  rw [if_neg (not_not_intro h), hk]

/-- A record of a known kind is accepted when its LENGTH is that of the kind, and refused otherwise (R159). -/
theorem judgeRecord_known {l : List Byte} {n : Nat} (h : byteSum l = 0) (hk : recordLength (byteAt l 0) = some n) :
    judgeRecord l s =
      if (byteAt l 1).toNat = n then acceptRecord (recordOf (byteAt l 0) ((l.drop 2).take n)) s
      else refuseRecord .badLength s := by
  unfold judgeRecord
  rw [if_neg (not_not_intro h), hk]

/-- The judgement of a record does not read what has been stored of it. -/
theorem judgeRecord_stored (l m : List Byte) :
    judgeRecord l (s.withSvc fun v => { v with buffer := m, byteTimer := true }) = judgeRecord l s := rfl

/-! ## The bytes of a record -/

/-- A LENGTH above 17 is refused as it arrives (R158). -/
theorem storeByte_badLength {k b : Byte} (h : s.svc.buffer = [k]) (hb : 17 < b.toNat) :
    storeByte b s = refuseRecord .badLength s := if_pos ⟨by rw [h]; rfl, hb⟩

/-- With KIND, LENGTH and payload stored, the byte that follows is CHECK, and the record is judged (R158, R159). -/
theorem storeByte_whole {k len : Byte} {payload : List Byte} (b : Byte) (h : s.svc.buffer = [k, len] ++ payload)
    (hlen : len.toNat = payload.length) : storeByte b s = judgeRecord ([k, len] ++ payload ++ [b]) s := by
  unfold storeByte
  dsimp only
  rw [h, judgeRecord_stored, if_neg (by simp), if_pos (by simp [byteAt, hlen])]

/-- A byte before CHECK is stored and starts the inter-byte timer again (R158). -/
theorem storeByte_partial {b : Byte}
    (h : s.svc.buffer = [] ∨ (∃ k, s.svc.buffer = [k] ∧ b.toNat ≤ 17) ∨
      (2 ≤ s.svc.buffer.length ∧ s.svc.buffer.length < (byteAt s.svc.buffer 1).toNat + 2)) :
    storeByte b s = s.withSvc fun v => { v with buffer := v.buffer ++ [b], byteTimer := true } := by
  have hlength : ¬((s.svc.buffer ++ [b]).length = 2 ∧ 17 < b.toNat) := by
    rcases h with h | ⟨k, h, hb⟩ | ⟨h, -⟩
    · simp [h]
    · simp [hb]
    · simp only [List.length_append, List.length_singleton]
      omega
  have hwhole : ¬(2 ≤ (s.svc.buffer ++ [b]).length ∧
      (s.svc.buffer ++ [b]).length = (byteAt (s.svc.buffer ++ [b]) 1).toNat + 3) := by
    rcases h with h | ⟨k, h, -⟩ | ⟨h, hlt⟩
    · simp [h]
    · simp [h]
    · rw [byteAt_append_left _ (by omega)]
      simp only [List.length_append, List.length_singleton]
      omega
  exact (if_neg hlength).trans (if_neg hwhole)

/-! ## The acceptance of a record -/

theorem acceptRecord_due (r : Record) (h : ∀ q, s.svc.outstanding ≠ some (q, .silent)) :
    acceptRecord r s = s.withSvc fun v => { v with
      state := .executing, byteTimer := false, buffer := [], accepted := v.accepted + 1, due := some r } := by
  unfold acceptRecord State.withSvc
  dsimp only
  split
  · rename_i q hq
    exact absurd hq (h q)
  · rfl

theorem acceptRecord_held {q : Byte} (r : Record) (h : s.svc.outstanding = some (q, .silent)) :
    acceptRecord r s = s.withSvc fun v => { v with
      state := .executing, byteTimer := false, buffer := [], accepted := v.accepted + 1, held := some r } := by
  unfold acceptRecord State.withSvc
  dsimp only
  rw [h]

/-- The CHECK that makes the sum of a record 00H has the record accepted (R158, R159). -/
theorem byteReceived_accepts {r : Record} (h : s.svc.state = .receiving) (hbuf : s.svc.buffer = r.wire)
    (hg : ∀ i image, r = .g i image → image.length = 16) :
    byteReceived (0 - byteSum r.wire) s = acceptRecord r s := by
  obtain ⟨k, len, payload, hwire, hlen, -, hkind, hrecord⟩ := recordOf_wire r hg
  have hsum := byteSum_check r.wire
  rw [byteReceived_receiving _ h, storeByte_whole _ (hbuf.trans hwire) hlen]
  rw [hwire] at hsum ⊢
  refine (judgeRecord_known hsum hkind).trans ((if_pos hlen).trans ?_)
  simp [byteAt, hrecord]

/-! ## The statement -/

/-- Settles O51, by the loader's state, and within RECEIVING by what has been stored of the record. -/
theorem receivedCharactersAreTaken : Obligations.ReceivedCharactersAreTaken := by
  refine ⟨fun s hs h ht => ?_, fun s b hs h hb => ?_, fun s hs h => ?_, fun s hs h => ?_, fun s hs h ht => ?_,
    fun s b hs h hb => ?_, fun s hs h => ?_, fun s k b hs h hbuf hb hsend => ?_, fun s b hs h hpart => ?_,
    fun s r hs h hbuf hg => ?_, fun s r q hs h hbuf hg hout => ?_,
    fun s k len payload b hs h hbuf hlen hsend => ?_, fun s b hs h => ?_, fun s hs h ht hsend => ?_⟩
  · exact occur_to hs (byteReceived_confirmed h ht)
  · exact occur_to hs (byteReceived_notConfirmed h hb)
  · exact occur_to hs (if_pos h)
  · exact occur_to hs (if_neg h)
  · exact occur_to hs (if_pos ⟨h, ht⟩)
  · exact occur_to hs ((byteReceived_ready b h).trans (if_neg hb))
  · exact occur_to hs ((byteReceived_ready _ h).trans (if_pos rfl))
  · exact ⟨_, occur_to hs ((byteReceived_receiving b h).trans (storeByte_badLength hbuf hb)),
      refuseRecord_refuses _ hsend⟩
  · exact occur_to hs ((byteReceived_receiving b h).trans (storeByte_partial hpart))
  · intro t hout
    exact occur_to hs ((byteReceived_accepts h hbuf hg).trans (acceptRecord_due r hout))
  · exact ⟨_, occur_to hs ((byteReceived_accepts h hbuf hg).trans (acceptRecord_held r hout)), rfl, rfl, rfl, rfl⟩
  · have hjudged : byteReceived b s = judgeRecord ([k, len] ++ payload ++ [b]) s :=
      (byteReceived_receiving b h).trans (storeByte_whole b hbuf hlen)
    refine ⟨fun hsum => ⟨_, occur_to hs (hjudged.trans (judgeRecord_badCheck hsum)), refuseRecord_refuses _ hsend⟩,
      fun hsum hk => ⟨_, occur_to hs (hjudged.trans (judgeRecord_badKind hsum (recordLength_unknown hk))),
        refuseRecord_refuses _ hsend⟩,
      fun n hsum hk hn => ⟨_, occur_to hs (hjudged.trans ((judgeRecord_known hsum (recordLength_known hk)).trans
        (if_neg ?_))), refuseRecord_refuses _ hsend⟩⟩
    exact fun he => hn (hlen.symm.trans he)
  · exact occur_to hs (byteReceived_executing b h)
  · exact ⟨_, occur_to hs (if_pos ⟨h, ht⟩), refuseRecord_refuses _ hsend⟩

end Sys2Proof.Machine
end

section
/-! SUPPORT. The measurement of the service rate, the break, and the end of a transmission (R155 to R157, R160, R162 to
R164). -/

namespace Sys2Proof.Machine

variable {s : State}

/-! ## Low runs -/

theorem lowRun_unmeasured (n : Nat) (h : s.svc.state ≠ .sync) : lowRun n s = s := if_neg h

theorem lowRun_unqualified {n : Nat} (h : s.svc.state = .sync) (hn : n < 695 ∨ 33333 < n) :
    lowRun n s = s.withSvc fun v => { v with firstRun := none } := by
  unfold lowRun
  rw [if_pos h, if_neg]
  simp only [runQualifies, Bool.and_eq_true, decide_eq_true_eq]
  omega

theorem lowRun_first {n : Nat} (h : s.svc.state = .sync) (hq : runQualifies n = true) (hm : s.svc.firstRun = none) :
    lowRun n s = s.withSvc fun v => { v with firstRun := some n } := by
  unfold lowRun
  rw [if_pos h, if_pos hq, hm]

/-- The second measurement ends SYNC when it matches the first, and takes its place otherwise (R155, R157). -/
theorem lowRun_second {m n : Nat} (h : s.svc.state = .sync) (hq : runQualifies n = true) (hm : s.svc.firstRun = some m) :
    lowRun n s =
      if runsMatch m n then
        queueItem .ready
          (s.withSvc fun v => { v with divisor := (m + n) / 10, firstRun := none, state := .confirm, confirmTimer := false })
      else s.withSvc fun v => { v with firstRun := some n } := by
  unfold lowRun
  rw [if_pos h, if_pos hq, hm]

theorem runQualifies_iff {n : Nat} : runQualifies n = true ↔ 695 ≤ n ∧ n ≤ 33333 := by simp [runQualifies]

/-- Sixteen times the difference fits the first run exactly when one sixteenth of it, rounded down, covers the difference. -/
theorem runsMatch_iff {m n : Nat} : runsMatch m n = true ↔ n ≤ m + m / 16 ∧ m ≤ n + m / 16 := by
  simp only [runsMatch, Bool.and_eq_true, decide_eq_true_eq]
  omega

/-- Settles O50, by the state, the length of the run and the first measurement. -/
theorem lowRunsMeasureTheRate : Obligations.LowRunsMeasureTheRate := by
  refine ⟨fun s n hs h => ?_, fun s n hs h hn => ?_, fun s n hs h hlo hhi hfirst => ?_,
    fun s m n hs h hlo hhi hmlo hmhi hm hup hdown hsend => ⟨by omega, by omega, ?_⟩⟩
  · exact occur_to hs (lowRun_unmeasured n h)
  · exact occur_to hs (lowRun_unqualified h hn)
  · have hq := runQualifies_iff.2 ⟨hlo, hhi⟩
    rcases hfirst with hnone | ⟨m, hm, hfar⟩
    · exact occur_to hs (lowRun_first h hq hnone)
    · refine occur_to hs ((lowRun_second h hq hm).trans (if_neg ?_))
      rw [runsMatch_iff]
      omega
  · have hq := runQualifies_iff.2 ⟨hlo, hhi⟩
    refine occur_to hs ((lowRun_second h hq hm).trans ((if_pos (runsMatch_iff.2 ⟨hup, hdown⟩)).trans ?_))
    exact queueItem_idle _ hsend

/-! ## The break -/

theorem watchesBreak_iff : s.watchesBreak = true ↔
    s.svc.state ≠ .sync ∧ (s.svc.state = .closing → s.part.service = true) := by
  unfold State.watchesBreak
  cases s.svc.state <;> simp

theorem ackHalt_halted (h : s.store.engine = .halted) :
    ackHalt s = { s with store := { s.store with engine := .idle, wait := .none } } := if_pos h

/-- The acknowledgement of a halt touches the store engine alone. -/
theorem ackHalt_storeOnly (s : State) : ackHalt s = { s with store := (ackHalt s).store } := by
  unfold ackHalt
  split
  · rfl
  · rfl

theorem discardWaiting_none (h : s.svc.waiting = none) : discardWaiting s = s := by
  unfold discardWaiting
  rw [h]

theorem discardWaiting_some {it : TxItem} (h : s.svc.waiting = some it) :
    discardWaiting s =
      if it.acks then ackHalt (s.withSvc fun v => { v with waiting := none })
      else s.withSvc fun v => { v with waiting := none } := by
  unfold discardWaiting
  rw [h]
  rfl

/-- The reply that waits is gone, and the store engine has at most its halt acknowledged (R160, R162). -/
theorem discardWaiting_eq (s : State) : discardWaiting s =
    { s with store := (discardWaiting s).store, svc := { s.svc with waiting := none } } := by
  cases h : s.svc.waiting with
  | none => rw [discardWaiting_none h, ← h]
  | some it =>
    rw [discardWaiting_some h]
    split
    · exact ackHalt_storeOnly _
    · rfl

/-- A break drops all that the loader has under way, turns an outstanding command SILENT, and clears the input-dropped note
where that command had a reply to come (R162). -/
theorem onBreak_eq (v : Service) : v.onBreak = { v with
    state := .sync, firstRun := none, buffer := [], byteTimer := false, confirmTimer := false, due := none
    startupWait := none, held := none, sending := v.sending.map TxSending.keepOpen
    outstanding := v.outstanding.map fun o => (o.1, .silent)
    inputDropped := v.inputDropped && !v.outstanding.any fun o => decide (o.2 = .reply) } := by
  unfold Service.onBreak
  rcases v.outstanding with _ | ⟨q, _ | _⟩
  all_goals simp

@[simp] theorem keepOpen_bytes (x : TxSending) : x.keepOpen.bytes = x.bytes := by
  unfold TxSending.keepOpen
  split
  · rfl
  · rfl

/-- A recognised break, field by field. -/
theorem serviceBreak_watched (h : s.watchesBreak = true) :
    serviceBreak s = { s with
      store := (discardWaiting s).store
      svc := Service.onBreak { s.svc with waiting := none } } := by
  refine (if_pos h).trans ?_
  rw [discardWaiting_eq]
  rfl

/-- Settles O52: no break is recognised, or what it drops and what it keeps, field by field. -/
theorem breakReturnsToSync : Obligations.BreakReturnsToSync := by
  refine ⟨fun s hs h => ?_, fun s hs hsync hclosing => ?_⟩
  · refine occur_to hs (if_neg fun hwatch => ?_)
    obtain ⟨hne, hserv⟩ := watchesBreak_iff.1 hwatch
    rcases h with h | ⟨h, hend⟩
    · exact hne h
    · simp [hserv h] at hend
  · refine ⟨_, occur_to hs (serviceBreak_watched (watchesBreak_iff.2 ⟨hsync, hclosing⟩)), ?_⟩
    rw [onBreak_eq]
    refine ⟨rfl, rfl, rfl, rfl, rfl, rfl, rfl, rfl, rfl, rfl, rfl, rfl, rfl, ?_, fun q hq => ?_, fun q hq => ?_,
      fun hq => ?_, fun it hit hacks hhalt => ?_, fun hnone => ?_, rfl, rfl, rfl⟩
    · simp [Option.map_map, Function.comp_def]
    · simp [hq]
    · simp [hq]
    · simp [hq]
    · show (discardWaiting s).store.engine = .idle
      rw [discardWaiting_some hit, if_pos hacks, ackHalt_halted (by exact hhalt)]
    · show (discardWaiting s).store = s.store
      rw [discardWaiting_none hnone]

/-! ## The end of a transmission -/

theorem transmissionEnd_sending {x : TxSending} (h : s.svc.sending = some x) :
    transmissionEnd s = sendWaiting (itemSent x.item (s.withSvc fun v => { v with sending := none })) := by
  unfold transmissionEnd
  rw [h]
  rfl

theorem sendWaiting_none (h : s.svc.waiting = none) : sendWaiting s = s := by
  unfold sendWaiting
  rw [h]

theorem sendWaiting_some {it : TxItem} (h : s.svc.waiting = some it) :
    sendWaiting s = s.withSvc fun v => beginSend it { v with waiting := none } := by
  unfold sendWaiting
  rw [h]
  rfl

/-- The end of a reply acknowledges a halt or ends service mode, as the reply is marked (R160, R164). -/
theorem itemSent_acks (l : Byte) (pl : List Byte) : itemSent (.reply l pl true false) s = ackHalt s := by
  simp [itemSent]

theorem itemSent_closes (l : Byte) (pl : List Byte) (h : s.svc.state = .closing) :
    itemSent (.reply l pl false true) s = endService s := by simp [itemSent, h]

theorem itemSent_plain (l : Byte) (pl : List Byte) : itemSent (.reply l pl false false) s = s := by simp [itemSent]

/-- Settles O55, by the item that has been sent. -/
theorem transmissionEndMovesOn : Obligations.TransmissionEndMovesOn := by
  refine ⟨fun s x hs hx hit hst hw => ?_, fun s x l pl hs hx hit hhalt hw => ?_, fun s x l pl hs hx hit hst hw => ?_,
    fun s x l m pl pm k c hs hx hit hw => ?_⟩
  all_goals
    have hend := transmissionEnd_sending hx
    rw [hit] at hend
  · refine occur_to hs (hend.trans ?_)
    have hready : s.svc.state = .confirm ∧ s.svc.waiting ≠ some .ready := ⟨hst, by simp [hw]⟩
    exact (congrArg sendWaiting (if_pos hready)).trans (sendWaiting_none hw)
  · refine occur_to hs (hend.trans ?_)
    rw [itemSent_acks, ackHalt_halted (by exact hhalt)]
    exact sendWaiting_none hw
  · refine occur_to hs (hend.trans ?_)
    rw [itemSent_closes _ _ (by exact hst)]
    exact sendWaiting_none hw
  · rw [itemSent_plain, sendWaiting_some (by exact hw)] at hend
    exact ⟨_, occur_to hs hend, replies_of (x := k) (c := c) rfl rfl rfl, rfl, rfl, rfl, rfl, rfl⟩

end Sys2Proof.Machine
end

section
/-! SUPPORT. Q and E records: the row that acts on one, or on the held record, and the two answers (R160, R162 to R164). -/

namespace Sys2Proof.Machine

variable {s : State}

/-! ## The record that is acted on -/

/-- The row of a Q or E record acts on it when it is due. -/
theorem answeredRow_acts {c : Instr} {r : Record} (hs : s.released) (hdue : s.svc.due = some r)
    (h : (c = .qRecord ∧ r = .q) ∨ (c = .eRecord ∧ r = .e)) :
    exec c s = .next (actRecord r (s.withSvc fun v => { v with due := none })) := by
  rcases h with ⟨rfl, rfl⟩ | ⟨rfl, rfl⟩
  · exact occur_to hs (actDue_kind hdue rfl)
  · exact occur_to hs (actDue_kind hdue rfl)

/-- HELD_RECORD acts on the held record, whatever its kind, once the SILENT command has ended (R160, R162). -/
theorem heldRecord_acts {r : Record} (hs : s.released) (hheld : s.svc.held = some r) (hout : s.svc.outstanding = none) :
    exec .heldRecord s = .next (actRecord r (s.withSvc fun v => { v with held := none })) := by
  refine occur_to hs ?_
  unfold actHeld
  rw [hheld, hout]

theorem actHeld_none (h : s.svc.held = none) : actHeld s = s := by
  unfold actHeld
  rw [h]

theorem actHeld_outstanding (h : s.svc.outstanding.isSome = true) : actHeld s = s := by
  obtain ⟨o, ho⟩ := Option.isSome_iff_exists.1 h
  unfold actHeld
  rw [ho]
  cases s.svc.held <;> rfl

/-- A Q or E record that is due, or held behind a SILENT command that has ended, is acted on. -/
theorem answeredRecord_acts {c row : Instr} {r : Record} (hs : s.released)
    (hrow : (row = .qRecord ∧ r = .q) ∨ (row = .eRecord ∧ r = .e))
    (h : (c = row ∧ s.svc.due = some r) ∨ (c = .heldRecord ∧ s.svc.held = some r ∧ s.svc.outstanding = none)) :
    ∃ w, s.svc.Taken w c ∧ exec c s = .next (actRecord r { s with svc := w }) := by
  rcases h with ⟨rfl, hdue⟩ | ⟨rfl, hheld, hout⟩
  · have hne : c ≠ .heldRecord := by
      rcases hrow with ⟨rfl, -⟩ | ⟨rfl, -⟩
      · nofun
      · nofun
    exact ⟨{ s.svc with due := none }, ⟨rfl, rfl, rfl, rfl, fun _ => rfl, fun hc => absurd hc hne⟩,
      answeredRow_acts hs hdue hrow⟩
  · exact ⟨{ s.svc with held := none }, ⟨rfl, rfl, rfl, rfl, fun hc => absurd rfl hc, fun _ => rfl⟩,
      heldRecord_acts hs hheld hout⟩

/-- A record without a store command waits while the store engine is STARTING (R160). -/
theorem actRecord_starting {r : Record} (hr : r.command = none) (h : s.store.engine = .starting) :
    actRecord r s = s.withSvc fun v => { v with startupWait := some r } := by
  unfold actRecord
  rw [hr]
  exact if_pos h

/-! ## The answer to E -/

theorem answerE_open (h : s.store.staging.isSome = true) : answerE s = queueN .stagingOpen false (toReady s) := if_pos h

/-- With the transmitter idle the answer to an E record touches the service port alone, and there neither the record to be
acted on nor the held one. -/
theorem answerE_frame (h : s.svc.sending = none) :
    ∃ v : Service, answerE s = { s with svc := v } ∧ v.due = s.svc.due ∧ v.held = s.svc.held := by
  cases hg : s.store.staging with
  | none => exact ⟨_, answerE_withSvc h hg, rfl, rfl⟩
  | some g =>
    rw [answerE_open (by simp [hg]), queueN, queueItem_idle _ (by exact h)]
    exact ⟨_, rfl, rfl, rfl⟩

/-- The answer to E, like every reply, depends on the state before only through its two notes. -/
theorem State.answersE.from {u t : State} (h : u.answersE t) (hd : u.svc.inputDropped = s.svc.inputDropped)
    (hl : u.svc.replyLost = s.svc.replyLost) : s.answersE t := by
  obtain ⟨hclosed, hopen⟩ := h
  refine ⟨fun hnone => ?_, fun hsome => ?_⟩
  · obtain ⟨hstate, hreply, hends⟩ := hclosed hnone
    exact ⟨hstate, hreply.from hd hl, hends⟩
  · obtain ⟨hstate, hreply, hlast⟩ := hopen hsome
    exact ⟨hstate, hreply.from hd hl, hlast⟩

/-- The answer to an E record taken out of the service port, told of the state before (R160, R164). -/
theorem answersE_taken {w : Service} {c : Instr} (hw : s.svc.Taken w c) (h : s.svc.sending = none) :
    s.answersE (answerE { s with svc := w }) := by
  cases hg : s.store.staging with
  | none =>
    exact (answersE_answerE (s := { s with svc := w }) (hw.sending.trans h) hg).from hw.inputDropped hw.replyLost
  | some g =>
    rw [answerE_open (by simp [hg])]
    obtain ⟨hstore, hready, hreply⟩ := queueN_toReady .stagingOpen hw h
    exact ⟨fun hnone => by simp [hstore, hg] at hnone, fun _ => ⟨hready, hreply⟩⟩

/-! ## The statement -/

/-- Settles O54: the record that is due and the held one alike, by the answer, and then what waits or changes nothing. -/
theorem statusAndEndRecordsAreAnswered : Obligations.StatusAndEndRecordsAreAnswered := by
  refine ⟨fun s c hs he hsend hrec => ?_, fun s c hs he hsend hrec => ?_, fun s c r hs hdue he hrow => ?_,
    fun s r hs hheld hout he hr => ?_, fun s hs h => ?_⟩
  · obtain ⟨w, hw, hexec⟩ := answeredRecord_acts hs (.inl ⟨rfl, rfl⟩) hrec
    have hidle : w.sending = none := hw.sending.trans hsend
    rw [actRecord_q (by exact he)] at hexec
    obtain ⟨hready, payload, hstatus, hreply⟩ := answersQ_answerQ (s := { s with svc := w }) hidle
    refine ⟨_, hexec, ⟨hready, payload, hstatus, hreply.from hw.inputDropped hw.replyLost⟩, ?_⟩
    rw [answerQ_withSvc (by exact hidle)]
    exact ⟨fun hc => hw.due (by simp [hc]), hw.held, rfl, rfl, rfl⟩
  · obtain ⟨w, hw, hexec⟩ := answeredRecord_acts hs (.inr ⟨rfl, rfl⟩) hrec
    rw [actRecord_e (by exact he)] at hexec
    refine ⟨_, hexec, answersE_taken hw hsend, ?_⟩
    obtain ⟨v, hv, hvdue, hvheld⟩ := answerE_frame (s := { s with svc := w }) (hw.sending.trans hsend)
    rw [hv]
    exact ⟨fun hc => hvdue.trans (hw.due (by simp [hc])), fun hc => hvheld.trans (hw.held hc), rfl, rfl⟩
  · have hcmd : r.command = none := by rcases hrow with ⟨-, rfl⟩ | ⟨-, rfl⟩ <;> rfl
    exact (answeredRow_acts hs hdue hrow).trans (congrArg _ (actRecord_starting hcmd (by exact he)))
  · have hcmd : r.command = none := by rcases hr with rfl | rfl <;> rfl
    exact (heldRecord_acts hs hheld hout).trans (congrArg _ (actRecord_starting hcmd (by exact he)))
  · exact occur_to hs (h.elim actHeld_none actHeld_outstanding)

end Sys2Proof.Machine
end

section
/-! SUPPORT. The host window outside DATA: commands that are refused, the flag registers, the reads of the other ports, and the
bits of STATUS (R153, R166, R170 to R173). -/

namespace Sys2Proof.Machine

variable {s : State}

/-! ## Refused commands -/

/-- A write to the command port, or to a flag register, is refused in service mode (R153). -/
theorem strobe_writeInService (h : s.windowFree) (hp : s.part.service = true) {port : PortNo}
    (hport : port = 0 ∨ port = 5 ∨ port = 6) (v : Byte) :
    occurStrobe (.write port v) s = .next (refuse .serviceMode s) := by
  refine (strobe_taken h _).trans (congrArg _ ?_)
  rcases hport with rfl | rfl | rfl
  all_goals exact if_pos hp

/-- None of the eight commands has the code 0 or a code above 8 (R171). -/
theorem command_unknown {code : Byte} (h : code = 0 ∨ 8 < code.toNat) : command code s = refuse .badCommand s := by
  have hrange : code.toNat = 0 ∨ 8 < code.toNat := h.imp_left fun h => by simp [h]
  unfold command
  split
  case h_9 => rfl
  all_goals omega

/-- Settles O22: the unknown codes, the rows that are writes to port 0, and the refusal itself. -/
theorem refusedCommandsAreRecorded : Obligations.RefusedCommandsAreRecorded := by
  refine ⟨fun s code h hcode => ?_, fun s c code h hp hc => ?_, fun s c => rfl⟩
  · exact (strobe_command h code).trans (congrArg _ (command_unknown hcode))
  · simp only [List.mem_cons, List.not_mem_nil, or_false] at hc
    rcases hc with rfl | rfl | rfl | rfl | rfl | rfl | rfl | rfl | rfl
    all_goals exact strobe_writeInService h hp (.inl rfl) _

/-! ## The bits of STATUS -/

theorem putBit_getLsbD (v : Byte) (i : Nat) (b : Bool) {j : Nat} (hj : j < 8) :
    (putBit v i b).getLsbD j = if j = i then b else v.getLsbD j := by
  have hmark : ((1#8) <<< i).getLsbD j = decide (i = j) := by simpa [setBit] using setBit_getLsbD (0 : Byte) i j hj
  unfold putBit
  split
  · rename_i hb
    rw [BitVec.getLsbD_or, hmark]
    by_cases hij : j = i
    · simp [hij, hb]
    · simp [hij, Ne.symm hij]
  · rename_i hb
    rw [BitVec.getLsbD_and, BitVec.getLsbD_not, hmark]
    by_cases hij : j = i
    · simp [hij, hb]
    · simp [hij, Ne.symm hij, hj]

/-- The eight bits of STATUS, in their places (R170). -/
theorem status_getLsbD (s : State) {j : Nat} (hj : j < 8) : s.status.getLsbD j =
    [s.scan.enabled, s.inVblank, decide (s.mover.mvstate = .running), decide (s.store.queue.length = 4),
      decide (s.store.engine = .halted), !s.store.results.isEmpty, decide (s.store.engine = .starting),
      s.part.service].getD j false := by
  simp only [State.status, putBit_getLsbD _ _ _ hj]
  interval_cases j
  all_goals rfl

theorem inVblank_iff : s.inVblank = true ↔ ∃ n, s.scan.pos = .vblank n := by
  unfold State.inVblank
  cases s.scan.pos <;> simp

/-! ## Reads of the ports -/

theorem strobe_flagRead (h : s.hostOpen) :
    occurStrobe (.read 5) s = .next (drive s.irq.iflag0 s) ∧ occurStrobe (.read 6) s = .next (drive s.irq.iflag1 s) := by
  have hmode : ¬s.part.service = true := by simp [h.2]
  exact ⟨(strobe_taken h.1 _).trans (congrArg _ (if_neg hmode)), (strobe_taken h.1 _).trans (congrArg _ (if_neg hmode))⟩

theorem strobe_flagReadInService (h : s.windowFree) (hp : s.part.service = true) {port : PortNo}
    (hport : port = 5 ∨ port = 6) : occurStrobe (.read port) s = .next (drive 0 (refuse .serviceMode s)) := by
  refine (strobe_taken h _).trans (congrArg _ ?_)
  rcases hport with rfl | rfl
  all_goals exact if_pos hp

/-- WINFAULT is read by the code of its table (R172). -/
theorem winFault_code_of_mem {f : WinFault} {c : Byte} (h : (f, c) ∈ faultCodes) : f.code = c := by
  simp only [faultCodes, List.mem_cons, Prod.mk.injEq, List.not_mem_nil, or_false] at h
  rcases h with ⟨rfl, rfl⟩ | ⟨rfl, rfl⟩ | ⟨rfl, rfl⟩ | ⟨rfl, rfl⟩ | ⟨rfl, rfl⟩ | ⟨rfl, rfl⟩ | ⟨rfl, rfl⟩ | ⟨rfl, rfl⟩ |
    ⟨rfl, rfl⟩ | ⟨rfl, rfl⟩ | ⟨rfl, rfl⟩ | ⟨rfl, rfl⟩ | ⟨rfl, rfl⟩
  all_goals rfl

/-- Settles O30: the writes and reads port by port, and STATUS bit by bit. -/
theorem flagsAndStatusAreReadAndCleared : Obligations.FlagsAndStatusAreReadAndCleared := by
  refine ⟨fun s v h => ?_, fun s v h => ?_, fun s v h => strobe_taken h _, fun s h => (strobe_flagRead h).1,
    fun s h => (strobe_flagRead h).2, fun s port v h hp hport => ⟨strobe_flagReadInService h hp hport,
      strobe_writeInService h hp (.inr hport) v⟩,
    fun s h => ⟨?_, strobe_taken h _, strobe_taken h _, fun c hc => ?_⟩, fun s h => ⟨strobe_taken h _, ?_⟩⟩
  · exact (strobe_taken h.1 _).trans (congrArg _ (if_neg (by simp [h.2])))
  · exact (strobe_taken h.1 _).trans (congrArg _ (if_neg (by simp [h.2])))
  · exact (strobe_taken h _).trans (by rw [BitVec.ofNat_toNat]; rfl)
  · exact (strobe_taken h _).trans (by rw [← winFault_code_of_mem hc]; rfl)
  · simp only [status_getLsbD, Nat.reduceLT]
    simp [inVblank_iff]

end Sys2Proof.Machine
end

section
/-! SUPPORT. The step of the queue of waiting commands (R166). -/

namespace Sys2Proof.Machine

/-- The command at the front of the queue is run with the queue's rest (R166). -/
theorem step_front (c : Instr) (rest : List Instr) (s : State) :
    step { s with pending := c :: rest } = exec c { s with pending := rest } := rfl

/-- With no command waiting the part idles (log entry 7). -/
theorem step_empty {s : State} (h : s.pending = []) : step s = .next s := by
  unfold step
  rw [h]

/-- Settles O1: the two branches of the step. -/
theorem stepRunsTheFrontCommand : Obligations.StepRunsTheFrontCommand :=
  ⟨step_front, fun _ => step_empty⟩

end Sys2Proof.Machine
end

section
/-! SUPPORT. The interrupt flags in their places and INT: the place of each flag and of its enable, and when INT is asserted
(R173, R174). -/

namespace Sys2Proof.Machine

/-! ## The places of the flags -/

/-- The table of R173 gives each flag its own register and bit, and nothing else. -/
theorem mem_flagPlaces {f : Flag} {inSecond : Bool} {bit : Nat} :
    (f, inSecond, bit) ∈ flagPlaces ↔ inSecond = f.second ∧ bit = f.bit := by
  cases f
  all_goals simp [flagPlaces, Flag.second, Flag.bit]

theorem Flag.bit_lt (f : Flag) : f.bit < 8 := by
  cases f
  all_goals decide

/-- Every bit of the two registers but bit 7 of IFLAG1 is the place of a flag (R173). -/
theorem exists_flag_at {inSecond : Bool} {i : Nat} (hi : i < 8) (h : inSecond = true → i ≠ 7) :
    ∃ f : Flag, f.second = inSecond ∧ f.bit = i := by
  have place : ∀ b : Bool, ∀ k < 8, (b = true → k ≠ 7) → ∃ p ∈ flagPlaces, p.2 = (b, k) := by
    unfold flagPlaces
    decide
  obtain ⟨⟨f, b, k⟩, hmem, hp⟩ := place inSecond i hi h
  obtain ⟨rfl, rfl⟩ := mem_flagPlaces.mp hmem
  obtain ⟨hsecond, hbit⟩ := Prod.mk.inj hp
  exact ⟨f, hsecond, hbit⟩

/-! ## INT -/

/-- The enable of a flag: the bit of IEN0 or IEN1 at the flag's own place (R174). -/
def Interrupts.enables (q : Interrupts) (f : Flag) : Bool :=
  if f.second then q.ien1.getLsbD f.bit else q.ien0.getLsbD f.bit

/-- Two registers share a set bit exactly when their conjunction is not zero. -/
theorem and_bne_zero_iff {n : Nat} (v w : BitVec n) :
    (v &&& w != 0) = true ↔ ∃ i < n, v.getLsbD i = true ∧ w.getLsbD i = true := by
  rw [bne_iff_ne]
  constructor
  · intro hne
    by_contra hnone
    push Not at hnone
    refine hne (BitVec.eq_of_getLsbD_eq fun i hi => ?_)
    simpa using hnone i hi
  · rintro ⟨i, -, hv, hw⟩ hzero
    have hbit : (v &&& w).getLsbD i = true := by simp [hv, hw]
    simp [hzero] at hbit

/-- INT is asserted exactly when some flag is set and enabled, since bit 7 of IEN1, which enables none, reads 0 (R174). -/
theorem int_iff {q : Interrupts} (h : q.ien1.getLsbD 7 = false) :
    q.int = true ↔ ∃ f, q.isSet f = true ∧ q.enables f = true := by
  unfold Interrupts.int
  rw [Bool.or_eq_true, and_bne_zero_iff, and_bne_zero_iff]
  constructor
  · rintro (⟨i, hi, hflag, hen⟩ | ⟨i, hi, hflag, hen⟩)
    · obtain ⟨f, hsecond, rfl⟩ := exists_flag_at (inSecond := false) hi (by simp)
      exact ⟨f, by simp [Interrupts.isSet, hsecond, hflag], by simp [Interrupts.enables, hsecond, hen]⟩
    · have hplace : i ≠ 7 := by
        rintro rfl
        exact Bool.false_ne_true (h.symm.trans hen)
      obtain ⟨f, hsecond, rfl⟩ := exists_flag_at (inSecond := true) hi fun _ => hplace
      exact ⟨f, by simp [Interrupts.isSet, hsecond, hflag], by simp [Interrupts.enables, hsecond, hen]⟩
  · rintro ⟨f, hflag, hen⟩
    cases hsecond : f.second with
    | false =>
      exact .inl ⟨f.bit, f.bit_lt, by simpa [Interrupts.isSet, hsecond] using hflag,
        by simpa [Interrupts.enables, hsecond] using hen⟩
    | true =>
      exact .inr ⟨f.bit, f.bit_lt, by simpa [Interrupts.isSet, hsecond] using hflag,
        by simpa [Interrupts.enables, hsecond] using hen⟩

/-- Settles O34: INT by `int_iff`, the places by the table, and the setting of one flag by `isSet_raise`. -/
theorem intFollowsFlagsAndEnables : Obligations.IntFollowsFlagsAndEnables := by
  refine ⟨fun q h => (int_iff h).trans ⟨?_, ?_⟩, fun f => ⟨f.second, f.bit, mem_flagPlaces.mpr ⟨rfl, rfl⟩⟩, ?_,
    isSet_raise⟩
  · rintro ⟨f, hset, hen⟩
    exact ⟨f, f.second, f.bit, mem_flagPlaces.mpr ⟨rfl, rfl⟩, hset, hen⟩
  · rintro ⟨f, inSecond, bit, hmem, hset, hen⟩
    obtain ⟨rfl, rfl⟩ := mem_flagPlaces.mp hmem
    exact ⟨f, hset, hen⟩
  · intro q f inSecond bit hmem
    obtain ⟨rfl, rfl⟩ := mem_flagPlaces.mp hmem
    rfl

end Sys2Proof.Machine
end

section
/-! SUPPORT. The values at reset: those of `State.reset`, what RESET# leaves in every block and in the cell that it cuts, and
what power-on leaves undefined (R41, R68, R104, R115, R140, R175). -/

namespace Sys2Proof.Machine

/-! ## The reset state -/

/-- No bank has a role or a count before the start-up scan gives it one (R116). -/
theorem reset_roles (b : Bank) :
    State.reset.store.roles.get b = { role := .unset, count := 0, estimated := false } := by
  rw [Vector.get_eq_getElem]
  exact Vector.getElem_replicate b.isLt

/-- The composition space reads 00H at every place, SEQ among them (R119). -/
theorem reset_compByte (k : Nat) : State.reset.compByte k = 0 := by
  unfold State.compByte
  split
  · rfl
  · exact (List.getD_eq_getElem?_getD ..).trans (List.getElem?_getD_replicate_default_eq 0 29 k)

/-- Settles O3: each value as `State.reset` writes it; the tables and the glyph array read their one value at every place. -/
theorem resetStateHoldsTheBookValues : Obligations.ResetStateHoldsTheBookValues := by
  have harray : ∀ a, State.reset.array.read a = 0xFF := fun _ => rfl
  unfold Obligations.ResetStateHoldsTheBookValues
  intro s
  and_intros
  any_goals rfl
  · exact harray
  · exact reset_roles
  · exact reset_compByte

/-! ## RESET# -/

/-- RESET# leaves every block at its reset values, whatever stood before (R140). -/
theorem resetPart_atReset (s : State) : (resetPart s).atReset := by
  unfold State.atReset
  and_intros
  any_goals rfl
  · exact reset_roles
  · exact reset_compByte

/-- The cut of a pulse is all that RESET# does to the glyph array (R104, R115). -/
theorem resetPart_array (s : State) : (resetPart s).array = (cutPulse s).array := rfl

/-- RESET# stops the mover, which keeps its parameters and MVDONE (R59, R63, R68). -/
theorem resetPart_mover (s : State) : (resetPart s).mover = s.mover.afterReset := by
  obtain ⟨m, p, n, hcut⟩ := cutPulse_frame s
  simp [resetPart, hcut]

/-- RESET# leaves the bytes of the three tables alone; only VALID is cleared (R92). -/
theorem resetPart_tables (s : State) :
    (resetPart s).descs = s.descs ∧ (resetPart s).attrs = s.attrs ∧ (resetPart s).patch = s.patch := by
  obtain ⟨m, p, n, hcut⟩ := cutPulse_frame s
  simp [resetPart, hcut]

/-- The cell store after RESET# is as it was, or has taken the whole word of the write in progress (R41). -/
theorem resetPart_cells (s : State) :
    (resetPart s).cells = s.cells ∨
      ∃ who a w ab, s.cellPort.access = some ⟨who, .write a w, ab⟩ ∧ (resetPart s).cells = s.cells.writeCell a w := by
  obtain ⟨m, p, n, hcut⟩ := cutPulse_frame s
  have hcells : (resetPart s).cells = (cutPulse s).cellsAfterReset := rfl
  rw [hcells, hcut]
  unfold State.cellsAfterReset
  split
  · rename_i who a w ab hwrite
    split
    · exact .inr ⟨who, a, w, ab, hwrite, rfl⟩
    · exact .inl rfl
  · exact .inl rfl

/-- The write of one cell leaves every other cell (R41). -/
theorem cell_writeCell_of_ne {s t : State} {a b : CellAddr} {w : Word16} (h : s.cells.wf = true)
    (ht : t.cells = s.cells.writeCell b w) (hab : a ≠ b) : t.cell a = s.cell a := by
  obtain ⟨-, hother⟩ := cell_writeCell h ht
  have hplace : a.toNat ≠ b.toNat := fun he => hab (BitVec.eq_of_toNat_eq he)
  unfold State.cell
  rw [hother (2 * a.toNat + 1) (by omega), hother (2 * a.toNat) (by omega)]

/-- Each cell holds after RESET# its old word, or the word whose write into it was in progress (R41). -/
theorem resetPart_cell {s : State} (hwf : s.cells.wf = true) (a : CellAddr) :
    (resetPart s).cell a = s.cell a ∨
      ∃ who w ab, s.cellPort.access = some ⟨who, .write a w, ab⟩ ∧ (resetPart s).cell a = w := by
  rcases resetPart_cells s with hkept | ⟨who, b, w, ab, hwrite, hcells⟩
  · exact .inl (by rw [State.cell, hkept, State.cell])
  · by_cases hab : a = b
    · subst hab
      exact .inr ⟨who, w, ab, hwrite, (cell_writeCell hwf hcells).1⟩
    · exact .inl (cell_writeCell_of_ne hwf hcells hab)

/-- Settles O4: the reset values by `resetPart_atReset`, the array by what a cut leaves, and the cells by
`resetPart_cell`. -/
theorem resetRestoresEveryBlock : Obligations.ResetRestoresEveryBlock := by
  intro s hcells harray
  have hmover := resetPart_mover s
  obtain ⟨hdescs, hattrs, hpatch⟩ := resetPart_tables s
  refine ⟨resetPart s, rfl, resetPart_atReset s, ?_, ?_, ?_, ?_, ?_, ?_, hdescs, hattrs, hpatch,
    cutLeaves_cutPulse harray (resetPart_array s), cutSlots_cutPulse harray (resetPart_array s), resetPart_cell hcells⟩
  all_goals rw [hmover]; rfl

/-! ## Power-on -/

/-- Power-on leaves every block at its reset values: beyond RESET# it writes the memories, the mover's parameters and the
line last handed over, and the reset values speak of none of them (R175). -/
theorem powerOn_atReset (s : State) : (powerOn s).atReset := resetPart_atReset s

/-- An undefined memory reads the free values of its event, one for each address (R1, R41, R82, R92). -/
theorem undefinedMemory_read (event a : Nat) : (undefinedMemory event).read a = Config.freeByte event a := rfl

/-- Settles O5: the reset values by `powerOn_atReset`, the four memories by `undefinedMemory_read`, and the array by what a
cut leaves. -/
theorem powerOnLeavesTheTablesUndefined : Obligations.PowerOnLeavesTheTablesUndefined := by
  intro s harray
  have hcut : (powerOn s).array = (cutPulse s).array := resetPart_array s
  exact ⟨powerOn s, rfl, powerOn_atReset s, rfl, rfl, rfl, rfl, rfl, rfl,
    ⟨_, undefinedMemory_read _⟩, ⟨_, undefinedMemory_read _⟩, ⟨_, undefinedMemory_read _⟩, ⟨_, undefinedMemory_read _⟩,
    cutLeaves_cutPulse harray hcut, cutSlots_cutPulse harray hcut⟩

end Sys2Proof.Machine
end
